-- ==== Sys2Proof/Word.lean ====
section
/-!
DEFINITION. The tagged word of R25, the widths the manual names, and the sparse map that every large array of the
device is held in.
-/
namespace Sys2Proof

abbrev W8 := BitVec 8
abbrev W16 := BitVec 16
abbrev W32 := BitVec 32
abbrev W64 := BitVec 64

/-- The two tag bits of a word (R25). -/
inductive Tag where
  | plain | handle | ticket | poison
deriving DecidableEq, Repr

/-- The encoding of a tag (R25). -/
def Tag.bits : Tag → BitVec 2
  | .plain => 0
  | .handle => 1
  | .ticket => 2
  | .poison => 3

/-- The tag that two bits encode (R25). -/
def Tag.ofBits (b : BitVec 2) : Tag :=
  if b = 0 then .plain else if b = 1 then .handle else if b = 2 then .ticket else .poison

/-- HANDLE or TICKET: the two tags that only the minting blocks create (R26). -/
def Tag.isRef : Tag → Bool
  | .handle => true
  | .ticket => true
  | _ => false

/-- One 18-bit word: a tag and a value (R25). -/
structure Word where
  tag : Tag
  v : W16
deriving DecidableEq, Repr

/-- A PLAIN word. -/
def Word.plain (v : W16) : Word := ⟨.plain, v⟩
/-- A POISON word. -/
def Word.poison (v : W16) : Word := ⟨.poison, v⟩
/-- PLAIN zero. -/
def Word.zero : Word := ⟨.plain, 0⟩
def Word.isPlain (w : Word) : Bool := w.tag == .plain
def Word.isPoison (w : Word) : Bool := w.tag == .poison
def Word.isRef (w : Word) : Bool := w.tag.isRef

/-- A sparse array: the entries that differ from their default, by rising key. An index that no entry names holds its
default, so equal arrays are equal data while the entries keep the form `Map.wf` of `Machine/Map.lean`. -/
structure Map (α : Type) where
  entries : List (Nat × α)
deriving DecidableEq, Repr, Inhabited

/-- The array in which every index holds its default. -/
def Map.empty {α : Type} : Map α := ⟨[]⟩

end Sys2Proof
end

