-- ==== Sys2Proof/Syntax.lean ====
section
/-!
DEFINITION. The commands of the block: one constructor per row of the operation table, with the operands the spec gives
the row. A command that an engine executes carries the global number of the executing thread (R94) and the decoded fields
of its word; one that may follow EXI carries the payloads (R61). An event carries the agent it happens at.
-/
namespace Sys2Proof

/-- An engine thread by global number, hearth * 128 + engine * 8 + thread. -/
abbrev Thr := Fin 2048
/-- A general word w0–w15. -/
abbrev Reg := Fin 16
/-- A pair p0–p7, and a coprocessor register c0–c7. -/
abbrev PairN := Fin 8
/-- The payloads of the EXI words before an instruction, in program order. -/
abbrev Exi := List W8

/-- A frame as bytes. -/
abbrev Bytes := List W8


/-- The requester that a set-up command comes from (R402). -/
inductive ReqArg where
  | boot | host | spi | jtag
  | thread (g : Thr)
deriving DecidableEq, Repr

/-- A fragment of a preemptable frame as it came (R164): its SMD and fragment count octets, and the length of what follows them up to
the next fragment, check sequence included. -/
structure Frag where
  smd : W8
  count : W8
  len : Nat
deriving DecidableEq, Repr

/-- What a MAC reports about a received frame beside its bytes, which run from the destination address through the FCS
(R159, R162, R164): a PCS error or a truncation; the fragments that the bytes fall into when they came over the preemptable MAC, none for an
express frame; and how many ns before this command the first bit after the start-of-frame delimiter crossed. -/
structure RxInfo where
  pcsErr : Bool
  frags : List Frag
  ago : W32
deriving DecidableEq, Repr

/-- A received MAC control frame (R163): its opcode (1 PAUSE, 0x0101 PFC), the priorities a PFC frame names, and its times
in quanta (one for PAUSE, eight for PFC). -/
structure MacControl where
  op : W16
  prios : W8
  times : List W16
deriving DecidableEq, Repr

/-- A CAN frame on the bus (R371, R374): the format (0 Classical, 1 FD, 2 XL) and the fields of the frame image. -/
structure CanFrame where
  fmt : Fin 3
  ide : Bool
  rtr : Bool
  brs : Bool
  esi : Bool
  sec : Bool
  dlc : BitVec 4
  id : BitVec 29
  sdt : W8
  vcid : W8
  af : W32
  data : Bytes
deriving DecidableEq, Repr

/-- A flit on the link's lanes, its first bit the most significant (R346). -/
abbrev Flit := BitVec 384

/-- The commands of the block. -/
inductive Instr where
  /-- MOV (R67): Copies one word, tag and value, from wB to wA. -/
  | mov (g : Thr) (a b : Reg)
  /-- ADD (R67): Adds wB to wA and sets all flags under the ALU tag rules. -/
  | add (g : Thr) (a b : Reg)
  /-- ADC (R67): Adds wB and the carry to wA, yielding POISON while the poison mark is set. -/
  | adc (g : Thr) (a b : Reg)
  /-- SUB (R67): Subtracts wB from wA and sets all flags. -/
  | sub (g : Thr) (a b : Reg)
  /-- SBC (R67): Subtracts wB and the borrow from wA, yielding POISON while the poison mark is set. -/
  | sbc (g : Thr) (a b : Reg)
  /-- AND (R67): Register-form bitwise AND of wA with wB. -/
  | and (g : Thr) (a b : Reg)
  /-- OR (R67): Register-form bitwise OR of wA with wB. -/
  | or (g : Thr) (a b : Reg)
  /-- XOR (R67): Register-form bitwise XOR of wA with wB. -/
  | xor (g : Thr) (a b : Reg)
  /-- SHL (R73): Shifts wA left by wB.V[3:0]. -/
  | shl (g : Thr) (a b : Reg)
  /-- SHR (R73): Shifts wA logically right by wB.V[3:0]. -/
  | shr (g : Thr) (a b : Reg)
  /-- SAR (R73): Shifts wA arithmetically right by wB.V[3:0]. -/
  | sar (g : Thr) (a b : Reg)
  /-- CSUM (R71): Forms the folded one's-complement sum of wA and wB. -/
  | csum (g : Thr) (a b : Reg)
  /-- CMP (R72): Sets flags from wA minus wB, with Z requiring equal tags, and sets the poison and reference marks. -/
  | cmp (g : Thr) (a b : Reg)
  /-- TST (R67): Sets flags from wA AND wB without writing a result. -/
  | tst (g : Thr) (a b : Reg)
  /-- MUL (R67): Writes the low 16 bits of the unsigned product of wA and wB. -/
  | mul (g : Thr) (a b : Reg)
  /-- MULH (R67): Writes the high 16 bits of the unsigned product of wA and wB. -/
  | mulh (g : Thr) (a b : Reg)
  /-- MOVI (R68): Writes a PLAIN immediate, formed under R61, to wA. -/
  | movi (g : Thr) (exi : Exi) (a : Reg) (k : BitVec 4)
  /-- ADD_IMM (R68): Adds the immediate to wA. -/
  | addImm (g : Thr) (exi : Exi) (a : Reg) (k : BitVec 4)
  /-- AND_IMM (R68): ANDs wA with the zero-extended immediate. -/
  | andImm (g : Thr) (exi : Exi) (a : Reg) (k : BitVec 4)
  /-- OR_IMM (R68): ORs wA with the zero-extended immediate. -/
  | orImm (g : Thr) (exi : Exi) (a : Reg) (k : BitVec 4)
  /-- XOR_IMM (R68): XORs wA with the zero-extended immediate. -/
  | xorImm (g : Thr) (exi : Exi) (a : Reg) (k : BitVec 4)
  /-- SHL_IMM (R68): Shifts wA left by k. -/
  | shlImm (g : Thr) (exi : Exi) (a : Reg) (k : BitVec 4)
  /-- SHR_IMM (R68): Shifts wA logically right by k. -/
  | shrImm (g : Thr) (exi : Exi) (a : Reg) (k : BitVec 4)
  /-- SAR_IMM (R68): Shifts wA arithmetically right by k. -/
  | sarImm (g : Thr) (exi : Exi) (a : Reg) (k : BitVec 4)
  /-- ROL (R68): Rotates wA left by k. -/
  | rol (g : Thr) (exi : Exi) (a : Reg) (k : BitVec 4)
  /-- CMP_IMM (R68): Sets flags from wA minus the PLAIN immediate. -/
  | cmpImm (g : Thr) (exi : Exi) (a : Reg) (k : BitVec 4)
  /-- LD (R74): Loads one word, with its tag, from the translated address of a base pair, with optional pair update. -/
  | ld (g : Thr) (exi : Exi) (a : Reg) (p : PairN) (u : Bool)
  /-- ST (R75): Stores one word into the engine's write buffer after translation and tag checks, with optional pair update. -/
  | st (g : Thr) (exi : Exi) (a : Reg) (p : PairN) (u : Bool)
  /-- LDP (R74): Loads a pair of words with their tags. -/
  | ldp (g : Thr) (exi : Exi) (a : PairN) (p : PairN) (u : Bool)
  /-- STP (R75): Stores a pair of words into the write buffer. -/
  | stp (g : Thr) (exi : Exi) (a : PairN) (p : PairN) (u : Bool)
  /-- LDB (R31): Loads one byte as a PLAIN or POISON word. -/
  | ldb (g : Thr) (exi : Exi) (a : Reg) (p : PairN) (u : Bool)
  /-- STB (R31): Stores one byte under the byte tag rules. -/
  | stb (g : Thr) (exi : Exi) (a : Reg) (p : PairN) (u : Bool)
  /-- BEQ (R69): Branches when Z is 1, with the poison-mark check. -/
  | beq (g : Thr) (exi : Exi) (d : W8)
  /-- BNE (R69): Branches when Z is 0, with the poison-mark check. -/
  | bne (g : Thr) (exi : Exi) (d : W8)
  /-- BLO (R69): Branches when C is 1, faulting while the reference mark is set. -/
  | blo (g : Thr) (exi : Exi) (d : W8)
  /-- BHS (R69): Branches when C is 0. -/
  | bhs (g : Thr) (exi : Exi) (d : W8)
  /-- BMI (R69): Branches when N is 1. -/
  | bmi (g : Thr) (exi : Exi) (d : W8)
  /-- BPL (R69): Branches when N is 0. -/
  | bpl (g : Thr) (exi : Exi) (d : W8)
  /-- BVS (R69): Branches when V is 1. -/
  | bvs (g : Thr) (exi : Exi) (d : W8)
  /-- BVC (R69): Branches when V is 0. -/
  | bvc (g : Thr) (exi : Exi) (d : W8)
  /-- BHI (R69): Branches when C and Z are both 0. -/
  | bhi (g : Thr) (exi : Exi) (d : W8)
  /-- BLS (R69): Branches when C or Z is 1. -/
  | bls (g : Thr) (exi : Exi) (d : W8)
  /-- BLT (R69): Branches when N differs from V. -/
  | blt (g : Thr) (exi : Exi) (d : W8)
  /-- BGE (R69): Branches when N equals V. -/
  | bge (g : Thr) (exi : Exi) (d : W8)
  /-- BGT (R69): Branches when Z is 0 and N equals V. -/
  | bgt (g : Thr) (exi : Exi) (d : W8)
  /-- BLE (R69): Branches when Z is 1 or N differs from V. -/
  | ble (g : Thr) (exi : Exi) (d : W8)
  /-- BAL (R69): Branches unconditionally by displacement. -/
  | bal (g : Thr) (exi : Exi) (d : W8)
  /-- CALL (R69): Writes the return address to w15 and branches by displacement. -/
  | call (g : Thr) (exi : Exi) (d : W8)
  /-- TAGR (R30): Returns the tag of wB as a PLAIN word. -/
  | tagr (g : Thr) (a b : Reg)
  /-- SEND (R121): Stages one word, with its tag, for the named flue. -/
  | send (g : Thr) (a b : Reg)
  /-- SENDE (R121): Stages the final word and publishes the whole message, or blocks until the flue has room. -/
  | sende (g : Thr) (a b : Reg)
  /-- DELAYED_PUBLISH (R121): A SENDE blocked for room publishes, in blocking order, once the flue has places for its message. -/
  | delayedPublish (g : Thr)
  /-- RECV (R121): Binds to the oldest unbound complete message and delivers its next word, or blocks. -/
  | recv (g : Thr) (a b : Reg)
  /-- DELAYED_BIND (R121): A thread blocked in RECV is bound, in blocking order, to a newly complete message and receives its first word. -/
  | delayedBind (g : Thr)
  /-- CHKC (R81): Writes the flue's count of complete messages and free places without blocking. -/
  | chkc (g : Thr) (a b : Reg)
  /-- MOV_FROM_SPECIAL (R53): Reads a special register into wA. -/
  | movFromSpecial (g : Thr) (a : Reg) (s : Fin 8)
  /-- MOV_TO_SPECIAL (R53): Writes a PLAIN word into RC, FLAGS, SEGH or SEGL. -/
  | movToSpecial (g : Thr) (a : Reg) (s : Fin 8)
  /-- LOCK (R86): Sends an acquiring request for the lock numbered in wB and blocks until grant or timeout. -/
  | lock (g : Thr) (a : PairN) (b : Reg)
  /-- NOT (R70): Inverts wA. -/
  | not (g : Thr) (a : Reg)
  /-- TAGS (R30): Sets the tag of wA to PLAIN or POISON. -/
  | tags (g : Thr) (a : Reg) (t : BitVec 2)
  /-- BR (R78): Jumps to the address in wA. -/
  | br (g : Thr) (a : Reg)
  /-- CALL_REG (R78): Writes the return address to w15 and jumps to the address in wA. -/
  | callReg (g : Thr) (a : Reg)
  /-- RET (R78): Jumps to the address in w15. -/
  | ret (g : Thr)
  /-- JT (R79): Jumps through the table that follows its literal, or past it when the index is out of range. -/
  | jt (g : Thr) (a : Reg) (lit : BitVec 14)
  /-- FENCE (R76): Release operation that waits for the write buffer to drain. -/
  | fence (g : Thr)
  /-- REP_I (R105): Interruptible repeat prefix that runs the next instruction a counted number of times. -/
  | repI (g : Thr) (n : Option (Fin 32))
  /-- REP_U (R107): Uninterruptible repeat prefix that holds the engine for 1 to 16 iterations. -/
  | repU (g : Thr) (n : Fin 16)
  /-- WAIT (R80): Blocks the thread until TC matches, or completes at once when TC is disarmed. -/
  | wait (g : Thr)
  /-- YIELD (R115): Gives up the issue slot and forces a patient switch for the current patient thread. -/
  | yield (g : Thr)
  /-- SETTC_RELATIVE (R80): Arms TC at the current time plus the pair's value. -/
  | settcRelative (g : Thr) (a : PairN)
  /-- SETTC_ABSOLUTE (R80): Arms TC with the pair as its low 32 bits. -/
  | settcAbsolute (g : Thr) (a : PairN)
  /-- SETTC_DISARM (R80): Disarms TC. -/
  | settcDisarm (g : Thr)
  /-- TAKE (R82): Takes the staged task into CTX and returns its ticket, or blocks when none is staged. -/
  | take (g : Thr) (a : Reg)
  /-- TAKE_POLL (R82): Takes a staged task, or sets Z and writes nothing when none is ready. -/
  | takePoll (g : Thr) (a : Reg)
  /-- DONE (R135): Ends the task and releases its frame under the task-area verdict words, in order if it holds a ticket. -/
  | done (g : Thr)
  /-- TKREL (R135): Releases the frame in order against the task's current ticket and ends the task. -/
  | tkrel (g : Thr) (a : Reg)
  /-- TKSKIP (R83): Marks the task's ticket SKIPPED and keeps the task with the thread. -/
  | tkskip (g : Thr) (a : Reg)
  /-- DEFER (R144): Places the task on its hearth's delay list for wA ticks, keeping its ticket. -/
  | defer (g : Thr) (a : Reg)
  /-- POST (R84): Reads a task record and posts it to the dispatcher, returning a task handle or a refusal. -/
  | post (g : Thr) (a : PairN)
  /-- CANCEL (R147): Cancels the task named by a task handle and returns a status code. -/
  | cancel (g : Thr) (a : PairN)
  /-- BALLOC_LENGTH (R85): Allocates a buffer by frame length from the smallest pool that fits, with fallback. -/
  | ballocLength (g : Thr) (a : PairN)
  /-- BALLOC_POOL (R85): Allocates a buffer from the named pool only. -/
  | ballocPool (g : Thr) (a : PairN)
  /-- BFREE (R85): Checks a buffer handle and frees its buffer, advancing its generation. -/
  | bfree (g : Thr) (a : PairN)
  /-- BCOPY (R85): Requests a copy of a buffer into a new buffer and waits for the whole copy. -/
  | bcopy (g : Thr) (b a : PairN)
  /-- UNLOCK (R331): Checks an ownership handle, removes the lock from the thread's record and sends the release after the drain. -/
  | unlock (g : Thr) (a : PairN) (clr : Bool)
  /-- CPM_TO (R87): Copies a pair into a coprocessor register. -/
  | cpmTo (g : Thr) (n a : PairN)
  /-- CPM_FROM (R87): Copies a coprocessor register into a pair, stalling while an operation is to write it. -/
  | cpmFrom (g : Thr) (a n : PairN)
  /-- CPGO (R335): Reserves a place in a smithy unit and confirms the operation at its write stage. -/
  | cpgo (g : Thr) (x : Fin 4) (op : Fin 16)
  /-- CPTST (R87): Sets Z from the unit's busy status and C from the last completion's error. -/
  | cptst (g : Thr) (x : Fin 4)
  /-- TRAP (R95): Takes trap n of the vector table. -/
  | trap (g : Thr) (n : Fin 32)
  /-- RFT (R96): Restores PC and FLAGS from the trap frame and clears the in-trap bit. -/
  | rft (g : Thr)
  /-- BKPT (R88): Stops the thread for an attached debugger or vectors in-thread to vector 33. -/
  | bkpt (g : Thr) (n : Fin 64)
  /-- EMU_TRAP (R60): A reserved encoding reaching execute takes the EMU trap with no prior effect. -/
  | emuTrap (g : Thr)
  /-- FABRIC_RESPONSE (R56): The response to a fabric access returns, the instruction writes its results and the thread becomes READY. -/
  | fabricResponse (g : Thr)
  /-- TABLE_WALK_DONE (R291): A TLB-miss walk completes, installing an entry or raising a translation fault. -/
  | tableWalkDone (agent : Fin 2112)
  /-- WRITE_BUFFER_DRAIN (R270): The oldest write-buffer entry reaches the hearth's point of visibility. -/
  | writeBufferDrain (h : Fin 16) (e : Fin 16)
  /-- RELEASE_EFFECT (R76): A release operation takes effect once the write buffer has drained and PKT stores are accepted. -/
  | releaseEffect (g : Thr)
  /-- TARGET_ERROR (R77): A target reports an error on a drained store and one TARGET_ERROR record is logged. -/
  | targetError (h : Fin 16) (pa : BitVec 36)
  /-- SLOT_ROTATION_END (R112): The slot pointer wraps to 0, adding weight to patient credits, clearing yields and applying slot-table writes. -/
  | slotRotationEnd (h : Fin 16) (e : Fin 16)
  /-- TC_MATCH (R118): An armed TC matches the device time, disarms and wakes a thread in WAIT. -/
  | tcMatch (g : Thr)
  /-- WATCHDOG_FAULT (R119): A thread's watchdog count exceeds its limit and the thread takes a watchdog fault. -/
  | watchdogFault (g : Thr)
  /-- PREEMPTION (R305): The current patient thread's quantum expires and a patient switch is made at its next restart point. -/
  | preemption (h : Fin 16) (e : Fin 16)
  /-- STILLNESS_REPORT (R127): A hearth still for 4,096 ENGCLK raises a stillness report to its warden or an escalation target. -/
  | stillnessReport (h : Fin 16)
  /-- REPORT_TO_MAILBOX (R124): The oldest report-queue message moves into F0 once F0 is empty. -/
  | reportToMailbox (h : Fin 16)
  /-- START (R125): Thread command that starts an OFF thread at the given PC. -/
  | start (r : ReqArg) (h : Fin 16) (i : Fin 128) (pc : BitVec 15)
  /-- RESUME (R125): Thread command that re-executes a HELD thread from its restart point. -/
  | resume (r : ReqArg) (h : Fin 16) (i : Fin 128)
  /-- SKIP (R125): Thread command that continues a HELD thread after its faulting unit. -/
  | skip (r : ReqArg) (h : Fin 16) (i : Fin 128)
  /-- KILL (R126): Thread command that ends a thread, cancelling its task, abandoning its locks and discarding its flue state. -/
  | kill (r : ReqArg) (h : Fin 16) (i : Fin 128)
  /-- TSR_WRITE (R129): A write of a thread state record word, taken only while the thread is OFF, HELD or stopped. -/
  | tsrWrite (r : ReqArg) (h : Fin 16) (i : Fin 128) (word : Fin 32) (v : W32)
  /-- TASK_FORM (R13): The dispatcher forms a packet task for an admitted frame, minting its ticket, once slots, tickets and deadline entries allow. -/
  | taskForm (m : Fin 4)
  /-- OFFER_TASK (R139): The dispatcher stages a ready task for an open thread, preferring its affine engine. -/
  | offerTask (h : Fin 16)
  /-- BLOCKED_TAKE_COMPLETE (R138): A thread blocked in TAKE takes the task staged for it and becomes READY. -/
  | blockedTakeComplete (g : Thr)
  /-- OFFER_WITHDRAWN (R138): A staged offer not taken within OFFER_TIMEOUT is withdrawn to the head of its list. -/
  | offerWithdrawn (g : Thr)
  /-- TASK_MOVE (R140): A ready task of a starved hearth moves to an idle hearth of its set. -/
  | taskMove (h : Fin 16)
  /-- DELAY_EXPIRY (R143): A task whose delay-list boundary has passed moves to the ready lists. -/
  | delayExpiry (d : Fin 64)
  /-- FLOW_INVAL (R141): Clears the flow-table entry that FLOW_SEL names. -/
  | flowInval (r : ReqArg)
  /-- FLOW_CLR_ALL (R141): Starts a clear of every flow-table entry. -/
  | flowClrAll (r : ReqArg)
  /-- FLOW_CLR_HEARTH (R141): Starts a clear of every flow-table entry naming an engine of one hearth. -/
  | flowClrHearth (r : ReqArg) (h : Fin 16)
  /-- FLOW_CLEAR_DONE (R141): A clear of many flow entries completes and BUSY clears. -/
  | flowClearDone
  /-- DEADLINE_PASSED (R153): A task's deadline passes and the release unit releases its banked verdict, advances the buffer generation and marks it overtaken. -/
  | deadlinePassed (slot : Fin 16384)
  /-- TICKET_RETIRE (R151): A RELEASED or SKIPPED domain head retires, sending its frame to the chimney and freeing its number. -/
  | ticketRetire
  /-- TALLY_LOST_RECORD (R156): A LOST tally record is written once the ring has room. -/
  | tallyLostRecord
  /-- PORT_RX_FRAME (R159): A port completes receipt of a frame, checks it, passes MACsec and allocates its buffer. -/
  | portRxFrame (p : Fin 32) (bytes : Bytes) (x : RxInfo)
  /-- MAC_CONTROL_FRAME (R163): A received PAUSE or PFC frame is consumed and honoured as configured. -/
  | macControlFrame (p : Fin 32) (f : MacControl)
  /-- PAUSE_EXPIRY (R243): The quanta of a received PAUSE or PFC stop expire and choices resume. -/
  | pauseExpiry (p : Fin 32) (prio : Option (Fin 8))
  /-- PFC_TX (R265): While XOFF holds, a port sends a PFC frame at once and each half QUANTA. -/
  | pfcTx (p : Fin 32)
  /-- PORT_MODE_CHANGE (R158): A write changing IF, SPEED, FEC or ANEG takes the link down and reacquires it. -/
  | portModeChange (r : ReqArg) (p : Fin 32) (v : W32)
  /-- PORT_LINK_CHANGE (R165): A change of LINK or fault status sets LINK_CHG and raises the port's event. -/
  | portLinkChange (p : Fin 32) (link lock localFault remoteFault : Bool) (speed : BitVec 3)
  /-- PREEMPT_VERIFY_TIMEOUT (R240): A preemption verify attempt times out, retrying or setting FAILED. -/
  | preemptVerifyTimeout (p : Fin 32)
  /-- COMMIT_SC (R173): Copies the staged SCI and SC control into the selected SC. -/
  | commitSc (r : ReqArg)
  /-- COMMIT_SA (R173): Copies the staged SA fields into the selected SA and clears the staged key. -/
  | commitSa (r : ReqArg)
  /-- MSEC_READ (R173): Loads the staging registers from the selected SC and SA, keys as zero. -/
  | msecRead (r : ReqArg)
  /-- MSEC_CMD_DONE (R173): A MACsec command completes and BUSY clears. -/
  | msecCmdDone
  /-- PROG_STORE_WRITE (R180): A write of PROG_LO checks and stores a kindling instruction. -/
  | progStoreWrite (r : ReqArg) (m : Fin 4) (lo : W32)
  /-- MILL_ENTRY (R166): The mill takes the next source's frame in round robin and hands it to an idle kindler. -/
  | millEntry (m : Fin 4)
  /-- KEND_ACCEPT (R178): Kindling instruction that ends the parse as accepted. -/
  | kendAccept (m : Fin 4) (n : Fin 32)
  /-- KEND_FAIL (R178): Kindling instruction that ends the parse as failed with a firmware code. -/
  | kendFail (m : Fin 4) (n : Fin 32) (code : BitVec 6)
  /-- KBEQ (R179): Kindling branch if k equals the immediate. -/
  | kbeq (m : Fin 4) (n : Fin 32) (k : Fin 8) (imm : W16) (target : BitVec 12)
  /-- KBNE (R179): Kindling branch if k differs from the immediate. -/
  | kbne (m : Fin 4) (n : Fin 32) (k : Fin 8) (imm : W16) (target : BitVec 12)
  /-- KBLO (R179): Kindling branch if k is below the immediate. -/
  | kblo (m : Fin 4) (n : Fin 32) (k : Fin 8) (imm : W16) (target : BitVec 12)
  /-- KBHS (R179): Kindling branch if k is at or above the immediate. -/
  | kbhs (m : Fin 4) (n : Fin 32) (k : Fin 8) (imm : W16) (target : BitVec 12)
  /-- KBSET (R179): Kindling branch if k AND the immediate is nonzero. -/
  | kbset (m : Fin 4) (n : Fin 32) (k : Fin 8) (imm : W16) (target : BitVec 12)
  /-- KEXT (R179): Extracts a window field into an FV word or k register, ending deep or failing on bad reads. -/
  | kext (m : Fin 4) (n : Fin 32) (dst : BitVec 6) (off : W8) (bit : Fin 8) (width : Fin 16)
  /-- KALUI (R178): Loads or combines a k register with an immediate. -/
  | kalui (m : Fin 4) (n : Fin 32) (op : Fin 7) (k : Fin 8) (imm : W16)
  /-- KALU (R178): Moves or combines a k register with another. -/
  | kalu (m : Fin 4) (n : Fin 32) (op : Fin 7) (k src : Fin 8)
  /-- KADV (R179): Advances the cursor, failing with CURSOR_RANGE beyond 511. -/
  | kadv (m : Fin 4) (n : Fin 32) (addK : Bool) (k : Fin 8) (scale : Fin 4) (imm : W8)
  /-- KHDR (R178): Records the cursor in a header slot and optionally sets a PM bit. -/
  | khdr (m : Fin 4) (n : Fin 32) (slot : Fin 12) (bit : Fin 31) (setBit : Bool)
  /-- KPM (R178): ORs a mask into the protocol-path map. -/
  | kpm (m : Fin 4) (n : Fin 32) (mask : BitVec 31)
  /-- KSTO (R178): Stores a k register or immediate into an FV word. -/
  | ksto (m : Fin 4) (n : Fin 32) (word : Fin 44) (useImm : Bool) (k : Fin 8) (imm : W16)
  /-- KJMP (R179): Kindling jump. -/
  | kjmp (m : Fin 4) (n : Fin 32) (target : BitVec 12)
  /-- KMETA (R184): Loads an ingress metadata word into a k register. -/
  | kmeta (m : Fin 4) (n : Fin 32) (k : Fin 8) (i : Fin 6)
  /-- VERDICT_COMPLETE (R196): 96 MILLCLK after hand-over the stones have run and the banked verdict and task fields are complete. -/
  | verdictComplete (m : Fin 4)
  /-- GOSSIP_RECORD (R214): A gossip record is written to the mill's ring and the mill's event is raised. -/
  | gossipRecord (m : Fin 4)
  /-- GOSSIP_LOST_RECORD (R215): A LOST gossip record is written once the ring has room. -/
  | gossipLostRecord (m : Fin 4)
  /-- FILTER_AGE_OUT (R212): A recent-gossip filter entry older than FILT_AGE is removed. -/
  | filterAgeOut (m : Fin 4)
  /-- QCI_GATE_CHANGE (R204): A committed stream-gate admin list becomes operational at its change instant. -/
  | qciGateChange (m : Fin 4) (gate : Fin 128)
  /-- RCV_TIMEOUT (R205): A recovery instance with no frame for TIMEOUT ms resets its history. -/
  | rcvTimeout (i : Fin 512)
  /-- INSERT (R217): Update command that inserts a masked key and action block, moving entries if needed. -/
  | insert (r : ReqArg) (m : Fin 4) (stone : Fin 8) (bank : Bool)
  /-- DELETE (R198): Update command that removes an entry. -/
  | delete (r : ReqArg) (m : Fin 4) (stone : Fin 8) (bank : Bool)
  /-- MODIFY (R198): Update command that replaces an entry's action block. -/
  | modify (r : ReqArg) (m : Fin 4) (stone : Fin 8) (bank : Bool)
  /-- LOOKUP (R198): Update command that returns an entry's action block. -/
  | lookup (r : ReqArg) (m : Fin 4) (stone : Fin 8) (bank : Bool)
  /-- TCAM_WRITE (R198): Update command that writes a TCAM entry and action block, valid last. -/
  | tcamWrite (r : ReqArg) (m : Fin 4)
  /-- TCAM_DISABLE (R198): Update command that invalidates a TCAM entry. -/
  | tcamDisable (r : ReqArg) (m : Fin 4)
  /-- MISS_WRITE (R198): Update command that replaces a stone's miss block. -/
  | missWrite (r : ReqArg) (m : Fin 4) (stone : Fin 8) (bank : Bool)
  /-- PSET_WRITE (R198): Update command that writes a port set. -/
  | psetWrite (r : ReqArg) (m : Fin 4)
  /-- STREAM_WRITE (R198): Update command that sets a stream budget. -/
  | streamWrite (r : ReqArg) (m : Fin 4)
  /-- SF_WRITE (R204): Update command that writes a stream filter and clears BLOCKED. -/
  | sfWrite (r : ReqArg) (m : Fin 4)
  /-- SG_WRITE (R204): Update command that writes a stream-gate header or list entry. -/
  | sgWrite (r : ReqArg) (m : Fin 4)
  /-- FM_WRITE (R204): Update command that writes a flow meter with full buckets. -/
  | fmWrite (r : ReqArg) (m : Fin 4)
  /-- RCV_WRITE (R205): Update command of mill M0 that writes a recovery instance. -/
  | rcvWrite (r : ReqArg) (m : Fin 4)
  /-- CNT_READ (R201): Update command that reads a counter and optionally clears it. -/
  | cntRead (r : ReqArg) (m : Fin 4) (clr : Bool)
  /-- UPDATE_DONE (R199): An update-port command reaches its final status and BUSY clears. -/
  | updateDone (m : Fin 4)
  /-- ENQUEUE (R228): The chimney's enqueue stage tests and enqueues a released frame's destinations, starting copies. -/
  | enqueue
  /-- COPY_COMPLETE (R262): The copy engine completes a copy into a new buffer for a replica or BCOPY. -/
  | copyComplete
  /-- TX_START (R230): The chimney chooses a fitting eligible frame and its MAC begins transmission after egress MACsec. -/
  | txStart (p : Fin 32) (pmac : Bool) (sub : Fin 10)
  /-- TX_END (R20): A frame's last byte leaves the MAC and its buffer returns to its pool. -/
  | txEnd (p : Fin 32) (pmac : Bool)
  /-- GATE_ENTRY_START (R235): The operational gate list reaches its next entry and gates change state. -/
  | gateEntryStart (p : Fin 32)
  /-- HOLD_ASSERT (R241): Hold is asserted on the preemptable MAC and the frame in transmission is preempted. -/
  | holdAssert (p : Fin 32)
  /-- HOLD_WITHDRAW (R241): Hold is withdrawn and preempted transmission resumes. -/
  | holdWithdraw (p : Fin 32)
  /-- GCL_DATA_WRITE (R235): A write of GCL_DATA_LO stores a gate list entry in the admin bank. -/
  | gclDataWrite (r : ReqArg) (lo : W32)
  /-- CONFIG_CHANGE (R237): Fixes the gate list change time and sets PENDING. -/
  | configChange (r : ReqArg) (p : Fin 32)
  /-- CANCEL_GATE_CHANGE (R238): Clears PENDING and keeps the operational list. -/
  | cancelGateChange (r : ReqArg) (p : Fin 32)
  /-- GATE_LIST_SWAP (R237): At the change time the admin and operational banks swap and PENDING clears. -/
  | gateListSwap (p : Fin 32)
  /-- TXTS_POP (R245): Removes the oldest two-step timestamp entry. -/
  | txtsPop (r : ReqArg) (p : Fin 32)
  /-- GEN_RESET (R242): Sets the next FRER generation number to 0. -/
  | genReset (r : ReqArg) (i : Fin 512)
  /-- SET (R248): Requests the device time be loaded from SET_HI:SET_LO at the next TICKCLK. -/
  | set (r : ReqArg)
  /-- STEP (R248): Requests the signed STEP value be added to the device time at the next TICKCLK. -/
  | step (r : ReqArg)
  /-- TIME_CHANGE_APPLY (R248): A pending set or step takes effect for every user of the time at a TICKCLK. -/
  | timeChangeApply
  /-- NOW_LO_READ (R249): Returns the time's low bits and latches its high bits and fraction for the requester. -/
  | nowLoRead (r : ReqArg)
  /-- TS_IO_CAPTURE (R250): A selected edge on a TS_IO input is timestamped into CAP. -/
  | tsIoCapture (n : Fin 4) (level : Bool) (sub : Fin 10)
  /-- TS_IO_OUTPUT_EDGE (R250): A TS_IO output rises or falls at its scheduled time. -/
  | tsIoOutputEdge (n : Fin 4)
  /-- POOL_ENABLE (R254): A write of EN = 1 checks a pool and starts initialising its state entries. -/
  | poolEnable (r : ReqArg) (n : Fin 8) (pad : W8)
  /-- POOL_READY (R254): A pool's state entries are initialised and READY is set. -/
  | poolReady (n : Fin 8)
  /-- RANGE_CLEAN (R276): Range operation that writes back dirty lines of the range. -/
  | rangeClean (r : ReqArg) (h : Fin 16) (all force evt : Bool)
  /-- RANGE_INVAL (R276): Range operation that invalidates lines of the range. -/
  | rangeInval (r : ReqArg) (h : Fin 16) (all force evt : Bool)
  /-- RANGE_CLEAN_INVAL (R276): Range operation that writes back and invalidates lines of the range. -/
  | rangeCleanInval (r : ReqArg) (h : Fin 16) (all force evt : Bool)
  /-- RANGE_LOCK (R276): Range operation that places lines in locked ways. -/
  | rangeLock (r : ReqArg) (h : Fin 16) (all force evt : Bool)
  /-- RANGE_DONE (R277): A range operation's writebacks are accepted, BUSY clears and DONE is set. -/
  | rangeDone (h : Fin 16)
  /-- MC_ENABLE (R285): A write of a channel's EN = 1 checks its range and starts training once its domain is on. -/
  | mcEnable (r : ReqArg) (c : Fin 4) (v : W32)
  /-- MEM_TRAINING_DONE (R288): A channel's training succeeds, setting READY, or fails with TRAIN_FAIL. -/
  | memTrainingDone (c : Fin 4) (ok : Bool) (restored : Bool)
  /-- TRACKING_RUN (R288): Periodic tracking pauses a channel briefly every PERIOD ms. -/
  | trackingRun (c : Fin 4)
  /-- REGION_INIT (R287): Starts filling a region and its shadow with PLAIN zero. -/
  | regionInit (r : ReqArg) (n : Fin 16) (en kind : Bool)
  /-- REGION_INIT_DONE (R287): A region fill completes and INIT_DONE is set. -/
  | regionInitDone (n : Fin 16)
  /-- TLBI_ALL (R297): Invalidates every TLB entry of the targets. -/
  | tlbiAll (r : ReqArg) (evt : Bool)
  /-- TLBI_CONTEXT (R297): Invalidates every TLB entry of one context in the targets. -/
  | tlbiContext (r : ReqArg) (ctx : Fin 32) (evt : Bool)
  /-- TLBI_ADDRESS (R297): Invalidates the TLB entry of one context covering one virtual address. -/
  | tlbiAddress (r : ReqArg) (ctx : Fin 32) (evt : Bool)
  /-- TLBI_DONE (R298): An invalidation completes, BUSY clears, DONE sets and the event is raised. -/
  | tlbiDone
  /-- BLW_TAIL_WRITE (R307): A write of a channel's TAIL makes new descriptors available. -/
  | blwTailWrite (r : ReqArg) (n : Fin 64) (v : W16)
  /-- DESCRIPTOR_START (R311): A channel reads and checks the descriptor at HEAD. -/
  | descriptorStart (n : Fin 64)
  /-- BURST_START (R314): The read engine starts a channel's next burst under priority, rate limit and staging room. -/
  | burstStart
  /-- BURST_COMPLETE (R312): A burst's target accepts all its bytes and the channel's position advances. -/
  | burstComplete (n : Fin 64)
  /-- DESCRIPTOR_COMPLETE (R318): A descriptor's completion words are written and HEAD advances. -/
  | descriptorComplete (n : Fin 64)
  /-- BLW_PAUSE (R319): Channel command that pauses a running or idle channel. -/
  | blwPause (r : ReqArg) (n : Fin 64)
  /-- BLW_RESUME (R319): Channel command that resumes a paused or halted channel. -/
  | blwResume (r : ReqArg) (n : Fin 64)
  /-- BLW_ABORT (R319): Channel command that ends the current descriptor at its position. -/
  | blwAbort (r : ReqArg) (n : Fin 64)
  /-- BLW_RESET (R319): Channel command that stops the channel at once and leaves it OFF. -/
  | blwReset (r : ReqArg) (n : Fin 64)
  /-- LOCK_REQUEST_ARRIVE (R327): An acquiring request reaches the lock unit and is granted or queued by priority. -/
  | lockRequestArrive (g : Thr)
  /-- LOCK_GRANT (R328): A grant reaches the waiter's hearth, writing the handle and status and making the thread READY. -/
  | lockGrant (g : Thr)
  /-- LOCK_TIMEOUT (R330): A queued request times out and is answered with zero words and TIMEOUT. -/
  | lockTimeout (g : Thr)
  /-- LOCK_RELEASE_ARRIVE (R331): A release reaches the lock unit, advancing the generation and choosing the next waiter. -/
  | lockReleaseArrive (n : Fin 4096)
  /-- LOCK_ABANDON (R332): An abandonment reaches the lock unit, marking the lock ABANDONED with PREV and granting it on. -/
  | lockAbandon (n : Fin 4096)
  /-- GCM_ENC (R337): CP0 operation that encrypts and tags data with GCM. -/
  | gcmEnc (h : Fin 16)
  /-- GCM_DEC (R337): CP0 operation that decrypts with GCM and checks the tag. -/
  | gcmDec (h : Fin 16)
  /-- CMAC (R337): CP0 operation that computes a CMAC. -/
  | cmac (h : Fin 16)
  /-- CRC_32 (R337): CP1 operation that computes a CRC-32. -/
  | crc32 (h : Fin 16)
  /-- CRC_32C (R337): CP1 operation that computes a CRC-32C. -/
  | crc32c (h : Fin 16)
  /-- TOEPLITZ_HASH (R337): CP1 operation that computes a Toeplitz hash. -/
  | toeplitzHash (h : Fin 16)
  /-- ONES_COMPLEMENT_SUM (R337): CP1 operation that computes a folded one's-complement sum. -/
  | onesComplementSum (h : Fin 16)
  /-- SCAN (R337): CP2 operation that records all pattern matches. -/
  | scan (h : Fin 16)
  /-- FIRST (R337): CP2 operation that finds the first pattern match. -/
  | first (h : Fin 16)
  /-- SMITHY_COMPLETE (R339): A smithy operation completes, writing c7 and setting the thread's status idle. -/
  | smithyComplete (h : Fin 16) (x : Fin 3)
  /-- KEY_COMMIT (R340): Stores the staged key into a key slot. -/
  | keyCommit (r : ReqArg) (h : Fin 16)
  /-- KEY_ERASE (R340): Makes a key slot invalid. -/
  | keyErase (r : ReqArg) (h : Fin 16)
  /-- PATTERN_COMMIT (R340): Stores CFG and DATA into the selected pattern. -/
  | patternCommit (r : ReqArg) (h : Fin 16)
  /-- PATTERN_READ (R340): Loads CFG and DATA from the selected pattern. -/
  | patternRead (r : ReqArg) (h : Fin 16)
  /-- LINK_ENABLE (R343): A write of LNK.CTRL.EN = 1 starts full link training. -/
  | linkEnable (r : ReqArg) (maxw : BitVec 2)
  /-- TRAINING_STATE_DONE (R343): A link training state completes and the next begins, reaching ACTIVE at the end. -/
  | trainingStateDone (lanes : BitVec 4)
  /-- TRAINING_TIMEOUT (R343): A training state exceeds its limit and the training fails. -/
  | trainingTimeout
  /-- RETRAIN (R344): Starts a fast retrain of POLL and CONFIG. -/
  | retrain (r : ReqArg)
  /-- CARD_MWR (R356): A card memory write applies a host set-up write at its BAR0 offset. -/
  | cardMwr (fs : List Flit)
  /-- CARD_MRD (R356): A card memory read performs a set-up read and returns a completion. -/
  | cardMrd (x : Flit)
  /-- HOST_CPL (R354): A completion from the card answers an outstanding device read, or fails it. -/
  | hostCpl (fs : List Flit)
  /-- NOP_FLIT (R353): A NOP flit is checked and its acknowledgement and credit return applied. -/
  | nopFlit (x : Flit)
  /-- CREDIT_INIT (R351): A link-control flit advertises initial credits of one type. -/
  | creditInit (x : Flit)
  /-- CREDIT_RESET (R354): A link-control flit resets credits of one type. -/
  | creditReset (x : Flit)
  /-- RETRAIN_REQ (R344): A link-control flit from the card requests a fast retrain. -/
  | retrainReq (x : Flit)
  /-- REPLAY_TIMEOUT (R352): The oldest unacknowledged flit waits REPLAY_TMO and every kept flit is resent. -/
  | replayTimeout
  /-- CPL_TIMEOUT (R354): No completion arrives within CPL_TMO and the read fails. -/
  | cplTimeout (tag : W8)
  /-- RING_ENABLE (R359): A write of a ring's EN = 1 sets PROD and CONS to 0 and the phase to 1. -/
  | ringEnable (r : ReqArg) (n : Fin 1024) (v : W32)
  /-- RING_DISABLE (R367): A write of EN = 0 stops a ring, freeing queued RX frames. -/
  | ringDisable (r : ReqArg) (n : Fin 1024)
  /-- DOORBELL (R360): A doorbell write sets a ring's PROD, or stops the ring when its index is bad. -/
  | doorbell (r : ReqArg) (n : Fin 1024) (v : W32)
  /-- TX_DESCRIPTOR (R363): A TX descriptor's frame is fetched into a buffer, handed to its mill and completed. -/
  | txDescriptor (n : Fin 1024)
  /-- RX_RING_DELIVER (R364): A queued frame is written into an RX slot's host buffer and completed. -/
  | rxRingDeliver (n : Fin 1024)
  /-- POST_DESCRIPTOR (R365): A POST descriptor is submitted to the dispatcher and completed OK or REFUSED. -/
  | postDescriptor (n : Fin 1024)
  /-- HOST_EVENT_ENTRY (R366): A waiting host event entry is written into the host event ring and its vector raised. -/
  | hostEventEntry
  /-- MSI_MODERATION_SEND (R368): A vector's count or time limit is reached and one MSI flit is sent. -/
  | msiModerationSend (v : W8)
  /-- MSI_SEND (R369): Sends an MSI flit for a vector at once, outside moderation. -/
  | msiSend (r : ReqArg) (v : W8)
  /-- CAN_DLC_RECEIVED (R375): A CAN controller learns a frame's length and allocates its buffer. -/
  | canDlcReceived (c : Fin 32) (fmt : Fin 3) (len : Nat)
  /-- CAN_RX_FRAME (R374): A CAN frame completes, its image is written and it is handed to its mill. -/
  | canRxFrame (c : Fin 32) (f : CanFrame) (ago : W32)
  /-- CAN_TX_TAKE (R377): A controller takes the next transmit-flue message and checks its image. -/
  | canTxTake (c : Fin 32)
  /-- CAN_TX_SUCCESS (R377): A CAN frame is sent and its buffer freed. -/
  | canTxSuccess (c : Fin 32)
  /-- CAN_TX_FAIL (R377): A CAN frame loses arbitration or meets an error and is repeated or abandoned. -/
  | canTxFail (c : Fin 32) (error kept inData : Bool)
  /-- CAN_STATE_CHANGE (R378): A fault-confinement transition sets EVT_PEND and raises event 163. -/
  | canStateChange (c : Fin 32)
  /-- REC_GO (R378): Starts bus-off recovery of a controller. -/
  | recGo (r : ReqArg) (c : Fin 32)
  /-- TX_FLUSH (R378): Takes every published transmit-flue message and frees its buffer. -/
  | txFlush (r : ReqArg) (c : Fin 32)
  /-- CAN_DISABLE (R378): A write of CTRL.EN = 0 takes effect at the next bus idle. -/
  | canDisable (c : Fin 32)
  /-- XSPI_GO (R380): Starts an xSPI transfer between flash and the granary. -/
  | xspiGo (r : ReqArg) (dir : Bool) (len : W16)
  /-- XSPI_DONE (R380): An xSPI transfer completes and BUSY clears. -/
  | xspiDone (data : Bytes)
  /-- SPI_WRITE (R381): An SPI slave write transaction performs a set-up write. -/
  | spiWrite (off : BitVec 24) (v : W32)
  /-- SPI_READ (R381): An SPI slave read transaction returns a set-up register. -/
  | spiRead (off : BitVec 24)
  /-- SPI_BAD_TRANSACTION (R381): An unknown opcode or short transaction is discarded and counted. -/
  | spiBadTransaction
  /-- UART_RX_BYTE (R382): A UART byte is received into the FIFO, or lost with OVR set. -/
  | uartRxByte (u : Fin 2) (b : W8)
  /-- UART_DATA_READ (R382): A read of UART DATA returns and removes the oldest received byte. -/
  | uartDataRead (r : ReqArg) (u : Fin 2)
  /-- UART_DATA_WRITE (R382): A write of UART DATA queues a byte for sending. -/
  | uartDataWrite (r : ReqArg) (u : Fin 2) (b : W8)
  /-- GPIO_EDGE (R383): An enabled GPIO edge sets EDGE_PEND and raises event 167. -/
  | gpioEdge (n : Fin 32) (level : Bool)
  /-- MDIO_ADDRESS (R384): MDIO command that sends an address frame. -/
  | mdioAddress (r : ReqArg) (m : Fin 2) (c45 : Bool) (prtad devad : BitVec 5) (data : W16)
  /-- MDIO_WRITE (R384): MDIO command that sends a write frame. -/
  | mdioWrite (r : ReqArg) (m : Fin 2) (c45 : Bool) (prtad devad : BitVec 5) (data : W16)
  /-- MDIO_READ (R384): MDIO command that performs a read frame. -/
  | mdioRead (r : ReqArg) (m : Fin 2) (c45 : Bool) (prtad devad : BitVec 5)
  /-- MDIO_DONE (R384): An MDIO frame completes and BUSY clears. -/
  | mdioDone (m : Fin 2) (data : W16)
  /-- DBGACC (R409): A JTAG scan performs one 32-bit set-up read or write. -/
  | dbgacc (write : Bool) (off : BitVec 24) (v : W32)
  /-- POWER_ON_RESET (R386): VDD_AON rising starts a reset of the whole device. -/
  | powerOnReset
  /-- POWER_ON_RESET_END (R415): 200 µs after the supplies and reference are good the power-on reset ends. -/
  | powerOnResetEnd
  /-- SUPPLY_DROP (R415): A core supply below 90 % of nominal for 1 µs starts a new power-on reset. -/
  | supplyDrop
  /-- RESET_N_LOW (R416): RESET_N low for 1 µs starts a device reset. -/
  | resetNLow
  /-- RESET_CMD_DEVICE (R386): A RESET_CMD write with DEVICE and the right KEY starts a device reset. -/
  | resetCmdDevice (r : ReqArg)
  /-- PLL_LOCK_LOSS (R386): Loss of root PLL lock starts a device reset. -/
  | pllLockLoss
  /-- REFERENCE_LOSS (R386): Loss of the reference for 1 µs starts a device reset. -/
  | referenceLoss
  /-- HEARTH_SOFT_RESET (R281): A hearth drains its write buffers, cleans its cache and resets its threads. -/
  | hearthSoftReset (r : ReqArg) (h : Fin 16) (hold : Bool)
  /-- HEARTH_HARD_RESET (R281): A hearth discards its write buffers and cache and resets its threads. -/
  | hearthHardReset (r : ReqArg) (h : Fin 16) (hold : Bool)
  /-- HEARTH_RESET_END (R389): A hearth leaves reset and its warden starts, unless HOLD is 1. -/
  | hearthResetEnd (h : Fin 16)
  /-- HEARTH_HOLD_RELEASE (R389): A write of HOLD = 0 lets a held hearth leave reset. -/
  | hearthHoldRelease (r : ReqArg) (h : Fin 16)
  /-- RESET_RELEASE (R391): At the end of a reset BOOT_SEL is sampled and the boot sequencer starts. -/
  | resetRelease (bootSel : BitVec 2)
  /-- BOOT_SECTION (R394): An image section arrives and is written, held or recorded by its kind. -/
  | bootSection (data : Bytes)
  /-- BOOT_CHECK (R393): After the last image byte the CRC and signature are checked. -/
  | bootCheck
  /-- BOOT_TIMEOUT (R396): No boot command or data arrives within 10 s and the boot fails. -/
  | bootTimeout
  /-- BOOT_CMD_GO (R396): Restarts the boot from the named source in WAIT or FAILED. -/
  | bootCmdGo (r : ReqArg) (src : BitVec 2)
  /-- BOOT_DATA_WRITE (R391): A write of BOOT_DATA delivers four image bytes. -/
  | bootDataWrite (r : ReqArg) (v : W32)
  /-- POWER_ON_REQUEST (R398): Queues a power-on request for a domain. -/
  | powerOnRequest (r : ReqArg) (dom : BitVec 6) (clear : Bool)
  /-- POWER_OFF_REQUEST (R399): Queues a power-down request that drains the domain. -/
  | powerOffRequest (r : ReqArg) (dom : BitVec 6) (force : Bool)
  /-- DOMAIN_WAKE (R398): The power controller, under its pacing, powers a domain on. -/
  | domainWake
  /-- DOMAIN_ON (R398): A woken domain, filled if CLEAR, turns ON and raises event 168. -/
  | domainOn (dom : Fin 40)
  /-- DRAIN_COMPLETE (R399): A draining domain's channels pause and accesses end, and it turns OFF. -/
  | drainComplete (dom : Fin 40)
  /-- DRAIN_TIMEOUT (R399): A drain not complete within DRAIN_TIMEOUT ends BUSY with the domain ON. -/
  | drainTimeout (dom : Fin 40)
  /-- LOG_WRITE (R405): The log writer writes a waiting record, or a LOST record, to the log book. -/
  | logWrite
  /-- CLR_ERR (R407): Clears every error counter of a block. -/
  | clrErr (r : ReqArg) (mask : BitVec 20)
  /-- COUNTER_LOW_READ (R408): A read of a 64-bit counter's low half latches its high half for the requester. -/
  | counterLowRead (r : ReqArg) (off : BitVec 24)
  /-- DEBUG_STOP (R410): Debug command that sets a thread's STOP flag. -/
  | debugStop (r : ReqArg) (h : Fin 16) (i : Fin 128)
  /-- DEBUG_RUN (R410): Debug command that clears a thread's STOP flag. -/
  | debugRun (r : ReqArg) (h : Fin 16) (i : Fin 128)
  /-- DEBUG_STEP (R410): Debug command that runs one unit or one REP_I iteration and stops again. -/
  | debugStep (r : ReqArg) (h : Fin 16) (i : Fin 128)
  /-- GROUP_STOP (R410): Sets STOP in every thread of the masked hearths. -/
  | groupStop (r : ReqArg) (mask : W16)
  /-- GROUP_RUN (R410): Clears STOP in every thread of the masked hearths. -/
  | groupRun (r : ReqArg) (mask : W16)
  /-- STOP_TAKES_EFFECT (R410): A set STOP flag halts the thread at its next restart point. -/
  | stopTakesEffect (g : Thr)
  /-- BREAKPOINT_MATCH (R411): A selected thread's next unit begins at a breakpoint PC and the thread stops before it. -/
  | breakpointMatch (g : Thr)
  /-- OTP_PROGRAM (R412): Starts programming a fuse word, or is refused. -/
  | otpProgram (word : Fin 32) (vddOtp : Bool)
  /-- OTP_PROGRAM_DONE (R412): A fuse word finishes programming after 100 µs. -/
  | otpProgramDone
  /-- TEMP_SAMPLE (R427): The sensors are sampled, TEMP updated and ALARM set on a threshold crossing. -/
  | tempSample (t : BitVec 11)
  /-- SETUP_WRITE (R428): A write of a set-up register without a row of its own, applying protected-field, reserved-value and lock rules. -/
  | setupWrite (r : ReqArg) (off : BitVec 24) (v : W32)
  /-- BAD_CRC_FLIT (R353): A flit arrives with a bad CRC, is discarded and answered with one NAK of E minus 1, counting in CRC_ERR. -/
  | badCrcFlit (x : Flit)
  /-- VERIFY_MPACKET (R164): A received IEEE 802.3br verify mPacket is answered with a respond mPacket. -/
  | verifyMpacket (p : Fin 32)
  /-- RESPOND_MPACKET (R240): A received respond mPacket ends verification with STATUS SUCCEEDED, making preemption active. -/
  | respondMpacket (p : Fin 32)
  /-- VICTIM_WRITEBACK_DONE (R275): A victim-buffer writeback is accepted, freeing its entry and making a re-installed line clean. -/
  | victimWritebackDone (h : Fin 16)
  /-- ROOT_PLL_LOCK (R391): The root PLL locks to the reference and the boot sequencer proceeds to its header read. -/
  | rootPllLock
  /-- CAN_RX_ERROR (R375): A frame in reception fails under the standard's error rules, freeing its buffer and counting in RX_ERR. -/
  | canRxError (c : Fin 32) (eight : Bool)
  /-- UART_TX_BYTE_SENT (R382): A UART finishes sending a byte and frees a place in its transmit FIFO. -/
  | uartTxByteSent (u : Fin 2)
deriving DecidableEq, Repr

end Sys2Proof
end

