-- ==== Sys2Proof/Decode.lean ====
section
/-!
DEFINITION. Table words. The operation table gives no row any bits, so no word spells a command.
-/
namespace Sys2Proof

/-- The command that a word of the operation table spells: none, as no row of the table has bits. -/
def decodeTableWord (_nbits _w : Nat) : Option Instr := none

end Sys2Proof
end

