-- ==== Sys2Proof/Machine/State.lean ====
section
/-!
DEFINITION. The state of the block as plain data: everything the spec gives the machine, and the queue of the commands
that wait.
-/
namespace Sys2Proof.Machine

/-- Why a step stops as a fault. No meaning of this model raises one: an error of the device is part of its state. -/
inductive Fault where
  /-- Raised by nobody; kept so that the type has the shape the host reads. Safe. -/
  | none
deriving DecidableEq, Repr

/-- Why a step is refused. -/
inductive Refusal where
  /-- The command has no meaning yet: raised by an arm of `exec` that is not modelled. Safe: the machine stops. -/
  | notModelled (mnemonic : String)
deriving DecidableEq, Repr

/-- A requester of set-up accesses (R402, R408): the boot sequencer, the host, the SPI slave, JTAG, or the engine thread
with global number `g`. -/
inductive Req where
  | boot | host | spi | jtag
  | thread (g : Nat)
deriving DecidableEq, Repr

/-- What a requester's low-half reads latched: the counter latch (R408) and the time latch (R249). -/
structure Latch where
  ctrHi : W32
  timeHi : W32
  timeFrac : W32
deriving DecidableEq, Repr

/-- Time and the model's own free-value index. `ns` and `frac` are the 64-bit device time and its fraction in 2^-32 ns
(R247); `tick` counts TICKCLK edges since power-on, on which every elapsed time of the model is measured. `rate` is ADJ as the last advance
used it, and `breaks` the edges at which the time jumped or its rate changed in the last 2^32 ns, newest first: the tick, the jump in 2^-32
ns and the ADJ before it. From them follows the device time of an instant that has passed (R162). -/
structure TimeSt where
  ns : W64
  frac : W32
  tick : Nat
  setPend : Option W64
  stepPend : Option W64
  free : Nat
  rate : W32
  breaks : List (Nat × Int × W32)
deriving DecidableEq, Repr

/-- A log record before it is written (R401); `coal` is COALESCED. -/
structure LogRec where
  sev : Nat
  block : Nat
  code : Nat
  inst : Nat
  d2 : W16
  d3 : W16
  d4 : W16
  time : W64
  coal : Bool
deriving DecidableEq, Repr

/-- A log source's first and last unwritten records, and the count of those that arose while it held any (R404). -/
structure LogSrc where
  first : Option LogRec
  last : Option LogRec
  pend : Nat
deriving DecidableEq, Repr

/-- The log writer: the sources that hold records, by block * 1024 + instance; the records lost per severity since the
last LOST record (R405); the source served last; and the FABCLK from which the writer accepts the next record (R404). -/
structure LogSt where
  srcs : Map LogSrc
  lost : Map Nat
  served : Nat
  nextAt : Nat
deriving DecidableEq, Repr

/-- A range of word addresses that last became wholly PLAIN zero (`zero`) or wholly POISON (a power-up, R283): of its 4 KiB pages,
those whose number is `r` modulo `n` (an interleaved channel, R285). -/
structure Fill where
  lo : Nat
  hi : Nat
  zero : Bool
  n : Nat
  r : Nat
deriving DecidableEq, Repr

/-- The range holds a word address. -/
def Fill.has (f : Fill) (wa : Nat) : Bool := decide (f.lo ≤ wa ∧ wa < f.hi ∧ wa / 2048 % f.n = f.r)

/-- One word of a write-buffer entry, which of its bytes the entry holds, and whether a store of the whole word is among its stores: bytes
alone leave a POISON word POISON (R31). -/
structure WbWord where
  slot : Nat
  w : Word
  hi : Bool
  lo : Bool
  whole : Bool
deriving DecidableEq, Repr

/-- The stores of R44 that are memory: the written words by word address (byte address / 2), the ranges filled since, the
check units that hold an error (R41: 1 corrected, 2 uncorrectable), the regions being filled, the stores of agents that wait for them, by
8-byte unit, oldest first (R287), and the 14-bit program-store words by
hearth * 32768 + address (R59). -/
structure MemSt where
  cells : Map Word
  fills : List Fill
  ecc : Map Nat
  init : Map Bool
  held : List (Nat × List WbWord)
  prog : Map (BitVec 14)
deriving DecidableEq, Repr

/-- FLAGS (R52). -/
structure Flags where
  c : Bool
  z : Bool
  n : Bool
  v : Bool
  pm : Bool
  rm : Bool
deriving DecidableEq, Repr

/-- The four thread states (R109). -/
inductive ThState where
  | off | ready | blocked | held
deriving DecidableEq, Repr

/-- The repeat state of a thread state record (R129 word 17). -/
inductive RepState where
  | none | repI | repU
deriving DecidableEq, Repr

/-- A warden-held fault's cause, subcause and detail words (R299, R301). -/
structure FaultInfo where
  cause : Nat
  sub : Nat
  store : Bool
  d4 : W16
  d5 : W16
  d6 : W16
deriving DecidableEq, Repr

/-- What a fabric response will write (R56): words of registers, flags, or the fault of a failing response. -/
structure Pend where
  regs : List (Nat × Word)
  fl : Option Flags
  fault : Option FaultInfo
deriving DecidableEq, Repr

/-- A page attribute (R293). -/
inductive Attr where
  | wb | uc | pkt
deriving DecidableEq, Repr

/-- A write-buffer entry (R270): an aligned 8-byte unit (physical address / 8), its attribute, its words, and the
thread that stored last. -/
structure WbEntry where
  unit : Nat
  attr : Attr
  words : List WbWord
  g : Nat
deriving DecidableEq, Repr

/-- Why a thread issues nothing: `resp`, a fabric response is on its way with these results; `far`, those of a load from a physical address,
with the fault that it raises if its target reports an error (R399); `retry`, its instruction is
run again, with the physical addresses and attributes that it translated before, if it did (R298); `walk`, a table walk for the virtual address is in flight for it (`stale`: an
invalidation passed it, R298); `host`, a host read under this tag and of this
physical address is outstanding, with what the write buffer held of its bytes (R75); `lock`, an acquiring load of lock `n`
into pair `p`, with the register that takes the status for `LOCK`, or the base pair
to update and its offset for an `LDP` that updates it; `recv`, `sende`, `take` and `tc`, the waits of R109;
`line`, a line fetch of which it needs the first or the second half, with these results, and the fault as of `far` (R273);
`copy`, a `BCOPY` into pair `p` by copy-engine job `job`; `drain`, a release operation that takes effect when the engine's
write buffer has drained the stores accepted before number `upto` (R76). -/
inductive Wait where
  | none
  | resp (p : Pend)
  | far (p : Pend) (pa : Nat) (f : FaultInfo)
  | line (la : Nat) (second : Bool) (p : Pend) (f : FaultInfo)
  | retry (i : Instr) (at_ : List (Nat × Attr))
  | walk (i : Instr) (va : Nat) (stale : Bool)
  | host (i : Instr) (tag pa : Nat) (buf : List WbEntry)
  | lock (n p : Nat) (wb : Option Nat) (upd : Option (Nat × Nat))
  | recv (a flue : Nat)
  | sende (flue : Nat)
  | take (a : Nat)
  | tc
  | copy (p job : Nat)
  | drain (i : Instr) (upto : Nat)
deriving DecidableEq, Repr

/-- One hardware thread (R51, R98, R109, R129). `w` holds the general words by number. `stop` is the STOP flag and
`stopped` says it has taken effect (R410); `step` says a STEP lets one unit run. `blockSeq` is the order in which blocked
threads blocked. `wdog` is the watchdog count in ENGCLK and `wdDue` a watchdog fault held back under R303. `locks` is the
hearth's record of held locks with their generations and `lockStat` the status latch of R323. `ulen` is the length in words
of the unit being executed. `stallTick` is the TICKCLK in which it last stalled for a cycle (R112), `tcTick` the one in which TC was armed (R118), and `bkpt` the n of the `BKPT n` that stopped the
thread (R88). -/
structure Thread where
  st : ThState
  stop : Bool
  stopped : Bool
  step : Bool
  cause : Nat
  w : Map Word
  pc : BitVec 15
  fl : Flags
  rc : W16
  hc : W16
  tc : BitVec 36
  tcArmed : Bool
  tcTick : Nat
  ctxH : Word
  ctxL : Word
  segh : W16
  segl : W16
  inTrap : Bool
  rep : RepState
  credit : Int
  boost : Bool
  yielded : Bool
  staged : List Word
  stagedName : W16
  bindName : W16
  blockSeq : Nat
  wdog : Nat
  wdDue : Bool
  locks : List (Nat × Nat)
  lockStat : W16
  ulen : Nat
  stallTick : Option Nat
  bkpt : Option Nat
  wait : Wait
deriving DecidableEq, Repr

/-- A prefetch stream (R274): its newest line and when it was last used, in ENGCLK. -/
structure Stream where
  line : Nat
  used : Nat
deriving DecidableEq, Repr

/-- One engine (R111–R116, R75, R269, R274): the current patient thread and when it became current; the slot table and
swift mask in effect, where the slot pointer stood at power-on, and the swift thread that the third branch of R112 chose last;
the write buffer, how many entries it has accepted and drained; the line addresses in its line
buffers, newest first; its streams, and the lines it missed with the time of each, in ENGCLK, newest first; and the thread that holds the engine in a `REP.U`. -/
structure Engine where
  cur : Option Nat
  curSince : Nat
  slotLo : W32
  slotHi : W32
  swift : W8
  phase : Nat
  lastSwift : Option Nat
  wb : List WbEntry
  wbIn : Nat
  wbOut : Nat
  lines : List Nat
  streams : List Stream
  lastMiss : List (Nat × Nat)
  repU : Option Nat
deriving DecidableEq, Repr

/-- A mailbox message in a report queue (R124), and what it reports: a thread's global number, or 2048 + hearth for a
stillness report. -/
structure Report where
  words : List W16
  src : Nat
deriving DecidableEq, Repr

/-- One message of a flue (R121): its undelivered words and the thread bound to it. -/
structure FlueMsg where
  words : List Word
  reader : Option Nat
deriving DecidableEq, Repr

/-- A translation cached in a TLB (R296): its context, whether it is a block, its virtual and physical block or page
number, its attribute and W. -/
structure TlbEntry where
  ctx : Nat
  block : Bool
  vnum : Nat
  pnum : Nat
  attr : Attr
  w : Bool
deriving DecidableEq, Repr

/-- A line of the cluster cache or the victim buffer (R271, R272): its line address (physical address / 64), dirty state,
written mask of its 8-byte units, the bytes written in units that were not written whole, the words stored whole in them, whether it was
fetched whole, its words by number, and the words whose check bits hold an error (1 corrected, 2 uncorrectable, R41). `issued` belongs to the victim
buffer: the writeback has issued. `clean` marks a re-installed line whose issued writeback will make it clean (R275). -/
structure Line where
  addr : Nat
  dirty : Bool
  mask : W8
  part : BitVec 64
  full : BitVec 32
  whole : Bool
  words : Map Word
  err : Map Nat
  issued : Bool
  clean : Bool
deriving DecidableEq, Repr

/-- A line fetch in progress (R272–R274): the line, whether the second half comes first, whether the first to come has come, whether
it is a prefetch, the words fetched (none while their region is being filled, R287), and the engines whose loads it serves (R269). -/
structure Fetch where
  line : Nat
  second : Bool
  got : Bool
  pre : Bool
  words : List Word
  users : List Nat
deriving DecidableEq, Repr

/-- A key slot of the smithy (R340): the key as a number and whether it is AES-256. -/
structure KeySlot where
  key : Nat
  big : Bool
deriving DecidableEq, Repr

/-- A pattern of the pattern store (R340): its CFG and DATA words. -/
structure Pattern where
  cfg : W32
  data : List W32
deriving DecidableEq, Repr

/-- A table walk in flight for a smithy operation (R296): its virtual address, its place in the order of misses, whether it is for a write,
whether an invalidation has passed it (R298), and the fault of the walk that it joined. -/
structure SmWalk where
  va : Nat
  seq : Nat
  store : Bool
  stale : Bool
  failed : Option Nat
deriving DecidableEq, Repr

/-- How far the present block of a smithy operation has come while it waits: the pieces of its source and of its destination that are
translated (R298), each with its physical address, attribute and length; the source bytes, once they are read; the walk in flight for it;
`tags` the host reads that are out, with the offsets of what they read, `parts` what they have brought, and `lost` that one failed. -/
structure SmBlock where
  rd : List (Nat × Attr × Nat)
  wr : List (Nat × Attr × Nat)
  got : Option (List (W8 × Bool))
  walk : Option SmWalk
  tags : List (Nat × Nat)
  parts : List (Nat × List (W8 × Bool))
  lost : Bool
deriving DecidableEq, Repr

/-- A block of which nothing has been done. -/
def SmBlock.fresh : SmBlock := ⟨[], [], none, none, [], [], false⟩

/-- A smithy operation, queued or run (R335): its thread, unit operation code, RESUME bit, latched c0–c6 (fourteen words,
high word first) and the write-buffer entries of its engine that must drain first (R336). `out` is what its completion
writes, once it has run: c7's two words, and c4 when the operation writes it. `began` is the ENGCLK in which it started, and `blk` how far
its present block has come. -/
structure SmOp where
  g : Nat
  op : Nat
  resume : Bool
  c : List Word
  upto : Nat
  out : Option (Word × Word × Option (Word × Word))
  began : Option Nat
  blk : SmBlock
deriving DecidableEq, Repr

/-- The partial state a smithy unit keeps for a thread (R339): the operation, its latched operands, the key and the patterns it started with
(R340; the Toeplitz key stands among them as number 0),
and the source bytes processed so far with the offset of the first that was poisoned, of which every GHASH, CMAC and
CRC state is a function; and the matches found, by their last byte and pattern number. -/
structure Kept where
  op : Nat
  c : List Word
  key : Option KeySlot
  pats : List (Nat × List W8)
  bytes : List W8
  poisonAt : Option Nat
  found : List (Nat × Nat)
deriving DecidableEq, Repr

/-- One hearth: its report queue, reset state (0 running, 1 soft, 2 hard, 3 held), how long it has been still and whether
it has reported that stillness (R127), its TLB, its cluster cache by set * 8 + way, the seven bits of each set's pseudo-LRU tree (R272), the line fetches in progress, its
victim buffer, oldest first, its smithy's key
slots, patterns, and unit queues by unit number. -/
structure Hearth where
  repq : List Report
  reset : Nat
  still : Nat
  stillRep : Bool
  tlb : List TlbEntry
  cache : Map (Option Line)
  plru : Map (BitVec 7)
  fetches : List Fetch
  victim : List Line
  keys : Map (Option KeySlot)
  pats : Map (Option Pattern)
  smq : Map (List SmOp)
deriving DecidableEq, Repr

/-- The engines, threads and hearths (R109): threads by global number, engines by hearth * 16 + engine, hearths by number;
local flues by hearth * 256 + number and long flues by 4096 + number (R120); coprocessor registers c0–c7 by
thread * 16 + 2 * register (high word) or + 1 (low word); the partial state kept by smithy units by thread * 4 + unit, and whether
the unit's last completion for the thread was an error; and
the number given to the next thread that blocks. -/
structure EngSt where
  threads : Map Thread
  engines : Map Engine
  hearths : Map Hearth
  flues : Map (List FlueMsg)
  cregs : Map Word
  kept : Map (Option Kept)
  cerr : Map Bool
  seq : Nat
deriving DecidableEq, Repr

/-- Where a task is (R137–R144). -/
inductive TaskLoc where
  | ready (h : Nat)
  | delayed (list : Nat) (expire : W64)
  | staged (g : Nat)
  | held (g : Nat)
deriving DecidableEq, Repr

/-- A task in a task slot (R130, R133): its record as the dispatcher holds it, its banked verdict words 2–3 and 7–10 as
formed, where it is, when it reached its ready list and when it was last staged (in TICKCLK), whether that was on its affine
engine, its hearth-set mask and its affine engine as its last placement read them (R139, R141, R142), its ticket
number while HELD, whether a deadline is pending, and whether it was overtaken or cancelled. -/
structure Task where
  words : List Word
  banked : List Word
  loc : TaskLoc
  since : Nat
  stagedAt : Nat
  aff : Bool
  set : W16
  home : Option Nat
  ticket : Option Nat
  deadline : Bool
  overtaken : Bool
  cancelled : Bool
deriving DecidableEq, Repr

/-- An event source at the dispatcher (R146): the events held for want of a slot, the latest payload, and the slot of the
task that is formed and not yet taken. -/
structure EvtSrc where
  held : Nat
  payload : W16
  slot : Option Nat
deriving DecidableEq, Repr

/-- The dispatcher (R130–R147): tasks by slot and slot generations; the ready lists by hearth * 8 + class, oldest first;
the delay lists, each sorted by expiry; the tick in force on each delay list and the boundary at which a new one takes
over (R143); the open threads; the flow table (engine + 1, 0 invalid) and the clear in progress; event sources by
number; the hearth last chosen for a set, and the hearth that last received a move from each hearth; when each hearth
became starved, in TICKCLK; the tally's eligible events, its lost records, and the MILLCLK from which its writer accepts the next record. -/
structure DspSt where
  tasks : Map (Option Task)
  gens : Map Nat
  ready : Map (List Nat)
  delay : Map (List Nat)
  tick : Map Nat
  tickNext : Map (Option (W64 × Nat))
  open_ : List Nat
  flow : Map Nat
  flowClear : Option (Option Nat)
  evts : Map EvtSrc
  lastChosen : Map Nat
  lastMoved : Map Nat
  starved : Map Nat
  tallyN : Nat
  tallyLost : Nat
  tallyAt : Nat
deriving DecidableEq, Repr, Inhabited

/-- A frame handed to the chimney: its buffer handle's two words, verdict word A, queue and port set (R136). -/
structure RelFrame where
  hH : Word
  hL : Word
  a : W16
  queue : W16
  ports : W32
deriving DecidableEq, Repr

/-- The states of a ticket number (R150). -/
inductive TktState where
  | free | held | released | skipped
deriving DecidableEq, Repr

/-- A ticket number: its state, epoch, domain, the order in which it was minted, and the frame it was released with. -/
structure Ticket where
  st : TktState
  epoch : Nat
  dom : Nat
  minted : Nat
  frame : Option RelFrame
deriving DecidableEq, Repr

/-- The release unit (R149–R154): ticket numbers; each domain's tickets that are not FREE, oldest first; the first number
never yet minted and the FREE numbers that have been, oldest first; the next minting; the frames without a ticket, in
release order; and the deadline entries in use. -/
structure RelSt where
  tickets : Map Ticket
  doms : Map (List Nat)
  fresh : Nat
  freed : List Nat
  mint : Nat
  loose : List RelFrame
  deadlines : Nat
deriving DecidableEq, Repr, Inhabited

/-- A request waiting for a lock (R327, R330): its thread, its priority, and when it reached the lock unit (TICKCLK). -/
structure LockWaiter where
  g : Nat
  prio : Nat
  since : Nat
deriving DecidableEq, Repr

/-- One lock (R325–R332): its owner when HELD with the owner's priority at the grant, its generation, the ABANDONED mark
and PREV, and its queue, first to be granted first. -/
structure Lock where
  owner : Option Nat
  ownPrio : Nat
  gen : Nat
  abandoned : Bool
  prev : Nat
  queue : List LockWaiter
deriving DecidableEq, Repr

/-- Messages between hearths and the lock unit (R328): a request, a release (with CLR), an abandonment, a grant with its
handle generation and status word. -/
inductive LockMsg where
  | request (n g prio : Nat)
  | release (n g gen : Nat) (clr : Bool)
  | abandon (n g gen : Nat)
  | grant (n g gen : Nat) (stat : W16)
deriving DecidableEq, Repr

/-- The lock unit: its locks, the messages on their way, oldest first, and the releases that leave an engine when it has drained the
stores that it accepted before a number (R331), as engine, number and message. -/
structure LckSt where
  locks : Map Lock
  msgs : List LockMsg
  unsent : List (Nat × Nat × LockMsg)
deriving DecidableEq, Repr, Inhabited

/-- The MMU's invalidation in progress (R297, R298) and the bellows TLB (R296), most recently used first. -/
structure MmuSt where
  tlbi : Bool
  blwTlb : List TlbEntry
deriving DecidableEq, Repr

/-- Who waits for a device read on the link (R354): an engine thread, a bellows channel, a smithy unit of a hearth, a ring's descriptor fetch,
the boot sequencer (R391), or nobody any more (a ring that was disabled, a channel that was reset). -/
inductive RdAgent where
  | thread (g : Nat)
  | bellows (ch : Nat)
  | smithy (h x : Nat)
  | fetch (r : Nat)
  | boot
  | nobody
deriving DecidableEq, Repr

/-- A read outstanding under a tag (R350, R354): who waits, the host address and length, and when it was sent. -/
structure RdOut where
  agent : RdAgent
  addr : W64
  len : Nat
  since : Nat
deriving DecidableEq, Repr

/-- What a flit from the device carries (R347, R350): a memory write's header, a memory read, a completion's header, a data
flit's words (bytes travel as PLAIN words), an interrupt vector, or a link-control subtype with a type and a count. -/
inductive FlitBody where
  | mwr (addr : W64) (len : Nat)
  | mrd (addr : W64) (len tag : Nat)
  | cpl (status len tag : Nat)
  | data (wordForm last : Bool) (words : List Word)
  | msi (vec : Nat)
  | lctl (sub typ count : Nat)
deriving DecidableEq, Repr

/-- A flit kept in the replay buffer (R352): its sequence number, body, credit type (0 posted, 1 non-posted, 2 completion,
3 none), when it was last sent and in how many passes it was resent. -/
structure TxFlit where
  seq : Nat
  body : FlitBody
  ct : Nat
  since : Nat
  passes : Nat
deriving DecidableEq, Repr

/-- A frame queued for an RX ring (R364). -/
structure RxFrame where
  pool : Nat
  idx : Nat
  gen : Nat
deriving DecidableEq, Repr

/-- The transfer of a TX or RX descriptor (R363, R364), which the ring's bellows channel carries: the frame's buffer and length, whether
the link went down in it, and the status with which its bellows descriptor completed. -/
structure RingXfer where
  pool : Nat
  idx : Nat
  gen : Nat
  len : Nat
  failed : Bool
  done : Option Nat
deriving DecidableEq, Repr

/-- What a host ring holds beside its registers (R359–R367): the phase; the queue of an RX ring; whether a doorbell to it while
it was disabled has been logged; the descriptors fetched from CONS on, none where the read is outstanding; the transfer
in progress; and the code of a stop whose completion waits for that transfer's, or for the link. -/
structure Ring where
  phase : Bool
  rxq : List RxFrame
  dbLogged : Bool
  fetched : List (Option (List Word))
  xfer : Option RingXfer
  stopDue : Option Nat
deriving DecidableEq, Repr

/-- A vector's moderation (R368): raises pending and when the first was made. -/
structure VecMod where
  pending : Nat
  since : Nat
deriving DecidableEq, Repr

/-- What has arrived of a message (R350, R354): nothing, its header flit and its DATA flits so far, or a discarded message whose last
flit is still to come. -/
inductive FlitAsm where
  | none
  | msg (head : Flit) (data : List Flit)
  | drop
deriving DecidableEq, Repr

/-- The link: when the training state was entered; full trainings failed in a row; reads by tag; the messages that wait to be
sent; the replay buffer, oldest first; the next sequence number; the credits left to send with, by type; the sequence number
expected of the card, and whether a NAK is out; the message that arrives; an acknowledgement and a NAK that the device owes; whether every
kept flit is to be resent; the flits sent since the last NOP; the flits put on the lanes by the last tick that sent any; the credits that the card
has spent and not had back, by type; rings; the rings whose descriptor fetch waits for a tag or the link; by virtual port, the ring after
the one whose frame entered last; vectors;
the host event entries that wait and those lost; and the violations counted in the window of R355 with the window's
number. -/
structure LnkSt where
  since : Nat
  fails : Nat
  reads : Map (Option RdOut)
  waiting : List (FlitBody × Nat)
  replay : List TxFlit
  nextSeq : Nat
  txCredit : Map Nat
  expect : Nat
  nakSent : Bool
  asm : FlitAsm
  ackDue : Bool
  nakDue : Bool
  again : Bool
  sinceNop : Nat
  laneOut : List Flit
  rxSpent : Map Nat
  rings : Map Ring
  due : List Nat
  turn : Map Nat
  vecs : Map VecMod
  evtq : List (List W16)
  evtLost : Nat
  viol : Nat
  violWin : Nat
deriving DecidableEq, Repr

/-- A buffer's state entry (R254): its generation, whether it is allocated, the port whose lossless account it is charged
to, the copies still reading it, and whether it was freed while being read (R261). -/
structure Buf where
  gen : Nat
  alloc : Bool
  charge : Option Nat
  reading : Nat
  freed : Bool
deriving DecidableEq, Repr, Inhabited

/-- Where a frame or a replica goes (R226, R228): chimney queue `q` for destination port `p`, or an RX ring. -/
inductive Dest where
  | queue (p q : Nat)
  | ring (r : Nat)
deriving DecidableEq, Repr

/-- Who asked for a copy: the chimney for a replica, or a thread's `BCOPY` into a pair. -/
inductive CopyFor where
  | chimney (d : Dest)
  | thread (g p : Nat)
deriving DecidableEq, Repr

/-- A copy (R262): the source and destination buffers (pool and index), the destination's generation, and the frame's
length and offset as its head gave them at the start. -/
structure CopyJob where
  id : Nat
  who : CopyFor
  srcPool : Nat
  srcIdx : Nat
  dstPool : Nat
  dstIdx : Nat
  dstGen : Nat
  len : Nat
  dofs : Nat
deriving DecidableEq, Repr

/-- A copy asked for and not yet started (R263). -/
structure CopyReq where
  id : Nat
  who : CopyFor
  srcPool : Nat
  srcIdx : Nat
deriving DecidableEq, Repr

/-- The buffer pool manager: state entries by pool * 65536 + index; pools being initialised; free buffers by pool; lossless
bytes by port; the PFC frame each port has to send (1 with QUANTA, 2 with zero time) and when it last sent one; copies in
flight, oldest first; copies waiting; whether the last taken was the chimney's; and the next job number. -/
structure BpmSt where
  bufs : Map Buf
  init : Map Bool
  free : Map Nat
  used : Map Nat
  pfcDue : Map Nat
  pfcLast : Map Nat
  copies : List CopyJob
  copyWait : List CopyReq
  lastChm : Bool
  nextJob : Nat
deriving DecidableEq, Repr

/-- A queued power request (R398). -/
structure PwrReq where
  dom : Nat
  on : Bool
  force : Bool
  clear : Bool
deriving DecidableEq, Repr

/-- What the boot sequencer is doing (R391): waiting for root PLL lock, reading the header or the sections from a source,
waiting for `TOP.BOOT_CMD` or `TOP.BOOT_DATA`, verifying, or finished. -/
inductive BootPhase where
  | idle | pll | header | load | verify | wait | done | failed
deriving DecidableEq, Repr

/-- The boot sequencer (R390–R396): its phase, the source in use (0 flash, 1 host, 2 stream) and the sources still to try,
the straps sampled, whether the fallback image is in use, the image bytes received of the header and in all, the CRC over
the bytes before END, the running content for the SHA-512 prehash, the SETUP entries held, the START mask, when the
wait began, when the reset was released, the fuses as read then, whether a link read of the image is out, and the bytes that the last one
brought (none at all when it failed). -/
structure BootSt where
  phase : BootPhase
  src : Nat
  left : List Nat
  strap : Nat
  fallback : Bool
  bytes : List W8
  pos : Nat
  setups : List (Nat × W32)
  start : Option Nat
  ended : Bool
  since : Nat
  released : Nat
  fuses : Map W32
  reading : Bool
  got : Option (List W8)
deriving DecidableEq, Repr

/-- Reset, power and debug state: whether the device is held in reset, and the pins and monitors that hold it there; the
channels kept in self-refresh with their CFG, and those with saved training results (R388); power requests waiting; the
ticks from which the next wake of each pace may be made; when a drain began, by domain, whether its wake fills with
zero, and when it began; the boot sequencer; a fuse word being programmed (since which
tick, its number, its bits); TOP.FUSE as the last power-on reset left it; and whether the temperature
alarm may be set again (R427). -/
structure TopSt where
  inReset : Bool
  porHold : Bool
  kept : Map (Option W32)
  saved : Map Bool
  pwrq : List PwrReq
  lastWake : Nat
  lastPort : Nat
  drain : Map Nat
  fill : Map Bool
  woke : Map Nat
  boot : BootSt
  otpBusy : Option (Nat × Nat × W32)
  fuseSeen : W32
  tempArmed : Bool
  tempCross : Option Nat
deriving DecidableEq, Repr

/-- The frame that holds the enqueue stage (R228, R229): the frame with its buffer, and the length and data offset read from
its head; once its destinations are tested, its FRER sequence number, where the original goes when its copies are done, and
the copies still to be made or in flight. `unread` says that its head lies in a region that is being filled and is still to be read (R287). -/
structure Stage where
  frame : RelFrame
  pool : Nat
  idx : Nat
  gen : Nat
  len : Nat
  dofs : Nat
  seqNo : Option W16
  orig : Option Dest
  left : Nat
  unread : Bool
deriving DecidableEq, Repr

/-- A frame on a chimney queue (R225): its buffer, its length and data offset, and the number of its R-TAG (R242). -/
structure QFrame where
  pool : Nat
  idx : Nat
  gen : Nat
  len : Nat
  dofs : Nat
  seqNo : Option W16
deriving DecidableEq, Repr

/-- One chimney queue's frames, oldest first, with its deficit (R231) and token bucket (R232): `tok` in 2^-10 bytes below full
and the device time it was last refilled. -/
structure ChmQ where
  frames : List QFrame
  deficit : Nat
  short : Nat
  last : W64
deriving DecidableEq, Repr

/-- A frame in transmission by a MAC (R230): its buffer, queue and class, the bytes on the line from the destination address
through the FCS, whether it is preempted, whether a fragment of it has ended, when its present fragment began (ns since reset), the bytes
sent in its earlier fragments, whether it is to end at the next permitted preemption point after an overrun, and whether a list change or a
change of the time took effect after it began (R239). -/
structure TxFrame where
  pool : Nat
  idx : Nat
  gen : Nat
  queue : Nat
  cls : Nat
  line : List W8
  preempted : Bool
  cut : Bool
  since : Nat
  sent : Nat
  due : Bool
  moved : Bool
deriving DecidableEq, Repr

/-- The chimney and the MACs' transmit side: the enqueue stage; the queues and the entries they use in all; the queue whose
turn it is for each port and class, by port * 8 + class; the credits of the credit-based shapers in 2^-10 bytes (R233); the
gate list entries by (port * 2 + bank) * 1024 + index as HI:LO, the operational bank of each port with the time from which its list is
operational, and its open gates; the
frames in transmission by port * 2 + MAC (1 the preemptable one); hold, and when it was last asserted and for the closing gate of which
class (that class plus 1; 0 for a list entry); the verify attempts and when the last began; the
two-step timestamp FIFOs; the earliest time of the next rise of each TS_IO output, and when one that is high rose; the tick to which each port's credits are kept; and when
the inter-frame gap of a class's last transmission ends (ns since reset), by port * 8 + class. -/
structure ChmSt where
  stage : Option Stage
  queues : Map ChmQ
  entries : Nat
  turn : Map Nat
  credit : Map Int
  gcl : Map W64
  bank : Map Bool
  operAt : Map Nat
  gates : Map W8
  tx : Map (Option TxFrame)
  hold : Map Bool
  holdBy : Map (Nat × Nat)
  tries : Map Nat
  verSince : Map Nat
  txts : Map (List (W16 × W64))
  tsNext : Map Nat
  tsRose : Map (Option Nat)
  cbsLast : Map Nat
  gap : Map Nat
deriving DecidableEq, Repr

/-- The chimney after reset: every queue empty, every gate open. -/
def ChmSt.init : ChmSt :=
  { stage := none, queues := Map.empty, entries := 0, turn := Map.empty, credit := Map.empty, gcl := Map.empty,
    bank := Map.empty, operAt := Map.empty, gates := Map.empty, tx := Map.empty, hold := Map.empty, holdBy := Map.empty, tries := Map.empty,
    verSince := Map.empty, txts := Map.empty, tsNext := Map.empty, tsRose := Map.empty, cbsLast := Map.empty, gap := Map.empty }

/-- A frame that has passed station 1 and waits for its mill (R166), or is in it: its bytes with their poison, its source
port, the bytes it takes in the receive FIFO and the tick in which it was complete there, its arrival timestamp, its ingress status word and the other metadata words
of R184, and its buffer, if it found one (R8, R9). -/
structure RxEntry where
  bytes : List (W8 × Bool)
  src : Nat
  fifo : Nat
  since : Nat
  ts : W64
  status : W16
  meta3 : W16
  meta4 : W16
  meta5 : W16
  buf : Option (Nat × Nat × Nat)
deriving DecidableEq, Repr

/-- A MACsec SC (R173): its SCI and control word. -/
structure MsecSc where
  sci : W64
  ctrl : W32
deriving DecidableEq, Repr

/-- A MACsec SA (R173): its control word, 256-bit key (128-bit keys in the high half), salt, SSCI and next PN, and whether
its threshold event was raised (R172). -/
structure MsecSa where
  ctrl : W32
  key : Nat
  salt : Nat
  ssci : W32
  pn : W64
  pnUsedUp : Bool
  threshTold : Bool
deriving DecidableEq, Repr

/-- The ports and MACsec: completed frames by source port (R6), oldest first; the frames that have left a receive FIFO while another
arrived, as the tick, the tick of their entry and the bytes of each (R160); the tick until which a mode change keeps LINK at
0, and that tick of the last mode change that found LINK 1 (R158); received stops by port and by port * 8 + priority, as the tick at which they end (R163); the respond mPackets sent
by each port (R164) and the last PFC frame it sent (R265), as its priority vector and quanta; and the SCs and SAs, by
(port * 2 + direction) * 32 + SC and by that * 4 + AN. -/
structure PrtSt where
  rxq : Map (List RxEntry)
  left : Map (List (Nat × Nat × Nat))
  downUntil : Map Nat
  cut : Map Nat
  pause : Map (Option Nat)
  pfc : Map (Option Nat)
  responds : Map Nat
  pfcSent : Map (W8 × W16)
  scs : Map MsecSc
  sas : Map MsecSa
deriving DecidableEq, Repr

/-- What a parse hands over (R184): the field vector's 48 words, PM, the twelve header-offset words, the failure code, and the
steps used. -/
structure Parse where
  fv : List W16
  pm : W32
  hdrs : List W16
  code : Nat
  deep : Bool
  steps : Nat
deriving DecidableEq, Repr

/-- A kindler at work (R176): its cursor, k registers, field vector, PM, header slots, steps and program counter. -/
structure Kindler where
  cursor : Nat
  k : List W16
  fv : List W16
  pm : W32
  hdrs : List W16
  steps : Nat
  pc : BitVec 12
deriving DecidableEq, Repr

/-- A frame in a mill: the frame, the kindler that parses it, what its parse handed over, and, from hand-over on, the tick and
the bank and activity selection it met (R200, R223). -/
structure MillFrame where
  rx : RxEntry
  kindler : Option (Nat × Kindler)
  parse : Option Parse
  handed : Option Nat
  bank : W8
  actSel : Bool
deriving DecidableEq, Repr

/-- An admitted frame that waits for its task (R13): its record, ordered-flow domain and window. -/
structure Banked where
  words : List Word
  dom : Option Nat
  deadline : Bool
  window : List (W8 × Bool)
deriving DecidableEq, Repr

/-- A TCAM entry (R191): its value and mask words, and whether it is valid. -/
structure Tcam where
  valid : Bool
  value : List W16
  mask : List W16
deriving DecidableEq, Repr

/-- A stream gate's list (R204): its entries as (interval, open, IPV), cycle, base time. -/
structure GateList where
  entries : List (Nat × Bool × Option Nat)
  cycle : Nat
  base : Nat
deriving DecidableEq, Repr

/-- A stream gate (R204): the admin entries as written, its header words, a permanent close, the running list with the one before
it, and the list whose change instant is fixed. -/
structure Gate where
  admin : Map (W32 × W32)
  hdr : W32
  cycle : W32
  base : W64
  closed : Bool
  oper : Option GateList
  operAt : Nat
  prev : Option GateList
  next : Option (Nat × GateList)
deriving DecidableEq, Repr

/-- A flow meter (R203, R204): its five record words and its buckets in 2^-10 bytes, when it last ran, and the mark. -/
structure Meter where
  cfg : List W32
  c : Nat
  e : Nat
  last : W64
  red : Bool
deriving DecidableEq, Repr

/-- A recovery instance (R205): its record words, its recovery state (take any, newest number, history, newest first), when a
frame last passed (tick), and the seven counters. -/
structure Recov where
  d0 : W32
  d1 : W32
  takeAny : Bool
  seqNo : Nat
  hist : List Bool
  since : Nat
  counts : List W64
deriving DecidableEq, Repr

/-- An update-port command that runs (R199): its operation, stone, bank and CLR, as UPD_CMD was written. -/
structure Update where
  op : Nat
  stone : Nat
  bank : Bool
  clr : Bool
deriving DecidableEq, Repr

/-- An entry of the recent-gossip filter (R211): its key, port, and when it was written (tick). -/
structure Sighted where
  key : List W16
  port : Nat
  at_ : Nat
deriving DecidableEq, Repr

/-- Gossip that waits for the ring (R214, R215): a record, with the filter entry its sighting wrote and the entries that this took from the
filter; or a LOST record and its number. -/
inductive Gossip where
  | sighting (ws : List W16) (put : Sighted) (out : List Sighted)
  | lost (n : Nat)
deriving DecidableEq, Repr

/-- One mill: its frames in order of entry; the source it last chose and when it last took a frame (tick, and frames in that
tick); admitted frames that wait for tasks; the hash memory by word (line * 8 + word); the TCAM; stream budgets; stream
filters as (DATA0, DATA1) with their five counters; gates; meters; the update command that runs; the rotation counter; the
recent-gossip filter, oldest first; gossip records that wait; gossip lost; the throttling window and the records in it; and
the order in which failed-list entries were placed. -/
structure Mill where
  frames : List MillFrame
  lastSrc : Nat
  lastTick : Nat
  inTick : Nat
  banked : List Banked
  hash : Map W16
  tcam : Map (Option Tcam)
  streams : Map Nat
  filters : Map (W32 × W32)
  fcounts : Map W64
  gates : Map Gate
  meters : Map Meter
  upd : Option Update
  rot : Nat
  seen : List Sighted
  gossip : List Gossip
  gossipLost : Nat
  window : Nat
  inWindow : Nat
  failOrder : List Nat
deriving DecidableEq, Repr

/-- The mills by number, the kindling stores by mill * 4096 + address, and the recovery instances (R205). -/
structure MilSt where
  mills : Map Mill
  prog : Map (BitVec 36)
  recov : Map Recov
deriving DecidableEq, Repr

/-- A mill after reset. -/
def Mill.init : Mill :=
  { frames := [], lastSrc := 127, lastTick := 0, inTick := 0, banked := [], hash := Map.empty, tcam := Map.empty,
    streams := Map.empty, filters := Map.empty, fcounts := Map.empty, gates := Map.empty, meters := Map.empty,
    upd := none, rot := 0, seen := [], gossip := [], gossipLost := 0, window := 0, inWindow := 0, failOrder := [] }

/-- A burst that was started (R312): its element, the offset of its first byte in the element, its length, where it goes
(physical address), its words (whole words between tagged regions) or bytes, whether its data has arrived (a host read is
answered later: the tags still out, with the offset of what they read), the segments of its source that are still to be read where a region
being filled or the want of a tag holds them up, and the status of an error that it met. -/
structure Burst where
  elem : Nat
  ofs : Nat
  len : Nat
  dst : Nat
  words : Option (List Word)
  bytes : List (W8 × Bool)
  ready : Bool
  tags : List (Nat × Nat)
  segs : List (Nat × Nat)
  failed : Option Nat
deriving DecidableEq, Repr

/-- A channel's work (R307–R319): words 0–4 of the descriptor it processes; the next burst's element and offset, that
element's words once they are read (or the tag of the read from a host window), and the bytes that the elements before it
total; bursts started and not complete, oldest first; the FABCLK at which the next burst may start; a status that ends the
descriptor once its bursts are complete; the cause of a pause asked for, and the tick of the last translation fault (R322); and a table walk in flight (virtual address and
whether an invalidation passed it); the host ring whose transfer the descriptor in progress carries (R320, R359); and the domains for whose power-down it
pauses (R321). -/
structure BlwCh where
  desc : Option (List W16)
  elem : Nat
  ofs : Nat
  item : Option (List Word)
  itemTag : Option Nat
  total : Nat
  bursts : List Burst
  nextAt : Nat
  ending : Option Nat
  pausing : Nat
  faultTick : Nat
  walk : Option (Nat × Bool)
  feed : Option Nat
  waits : List Nat
deriving DecidableEq, Repr

/-- The bellows: its channels, the channel of each priority served last, and the channels whose walks are in flight, in the order in which
they started (R296). -/
structure BlwSt where
  chs : Map BlwCh
  last : Map Nat
  walks : List Nat
deriving DecidableEq, Repr

def BlwCh.init : BlwCh :=
  { desc := none, elem := 0, ofs := 0, item := none, itemTag := none, total := 0, bursts := [], nextAt := 0,
    ending := none, pausing := 0, faultTick := 0, walk := none, feed := none, waits := [] }

/-- A frame that a CAN controller sends (R377): its buffer, its failures through errors, whether it is an XL frame, and
whether it is in transmission: after a lost arbitration or an error it waits to be repeated. -/
structure CanTx where
  pool : Nat
  idx : Nat
  gen : Nat
  fails : Nat
  xl : Bool
  going : Bool
deriving DecidableEq, Repr

/-- A CAN controller (R371–R378): the buffer of the frame in reception with the length it was allocated for (`drop`: it found
none); drops since the last delivered frame; the frame in transmission; whether CTRL.EN = 0 has yet to
take effect (`on`: the controller is on the bus); the transceiver's mode (0 slow, 1 fast transmit, 2 fast receive), the fast mode it was put in
last (0 none yet) and the PWM register that shaped TXD in its last fast transmission (R373); and the error counters TEC and REC. -/
structure CanCtl where
  on : Bool
  rx : Option (Option (Nat × Nat × Nat) × Nat)
  drops : Nat
  tx : Option CanTx
  mode : Nat
  lastFast : Nat
  pwm : W32
  txErrs : Nat
  rxErrs : Nat
deriving DecidableEq, Repr

/-- The local interfaces: CAN controllers; UART receive and transmit FIFOs; the frames that run on the MDIO masters (operation
and fields as their CMD register held them); and the xSPI transfer in progress (direction, granary address, length) with the
bytes of the last transfer to the flash. -/
structure LocSt where
  can : Map CanCtl
  uartRx : Map (List W8)
  uartTx : Map (List W8)
  mdio : Map (Option W32)
  xspi : Option (Bool × Nat × Nat)
  xspiOut : List W8
deriving DecidableEq, Repr

def CanCtl.init : CanCtl :=
  { on := false, rx := none, drops := 0, tx := none, mode := 0, lastFast := 0, pwm := 0, txErrs := 0, rxErrs := 0 }

/-- Time at reset: the device time is 0 (R247, R387). -/
def TimeSt.init : TimeSt := ⟨0, 0, 0, none, none, 0, 0, []⟩

/-- A thread after reset: OFF with the register values of R110. -/
def Thread.init : Thread :=
  { st := .off, stop := false, stopped := false, step := false, cause := 0, w := Map.empty, pc := 0,
    fl := ⟨false, false, false, false, false, false⟩, rc := 0, hc := 0, tc := 0, tcArmed := false, tcTick := 0,
    ctxH := Word.zero, ctxL := Word.zero, segh := 0, segl := 0, inTrap := false, rep := .none, credit := 0,
    boost := false, yielded := false, staged := [], stagedName := 0, bindName := 0, blockSeq := 0, wdog := 0,
    wdDue := false, locks := [], lockStat := 0, ulen := 1, stallTick := none, bkpt := none, wait := .none }

/-- An engine after reset (R111, the reset values of the slot table and swift mask); `e` is its number in its hearth. -/
def Engine.init (e : Nat) : Engine :=
  { cur := none, curSince := 0, slotLo := 0xFEDCBA98, slotHi := 0xFEDCBA98, swift := if e = 0 then 1 else 0,
    phase := 0, lastSwift := none, wb := [], wbIn := 0, wbOut := 0, lines := [], streams := [], lastMiss := [], repU := none }

/-- A hearth after a device reset: in reset until the boot sequencer's START (R395). -/
def Hearth.init : Hearth :=
  { repq := [], reset := 3, still := 0, stillRep := false, tlb := [], cache := Map.empty, plru := Map.empty, fetches := [], victim := [],
    keys := Map.empty, pats := Map.empty, smq := Map.empty }

/-- The dispatcher after reset: no task, no flow, every list empty. -/
def DspSt.init : DspSt :=
  { tasks := Map.empty, gens := Map.empty, ready := Map.empty, delay := Map.empty, tick := Map.empty,
    tickNext := Map.empty, open_ := [], flow := Map.empty, flowClear := none, evts := Map.empty,
    lastChosen := Map.empty, lastMoved := Map.empty, starved := Map.empty, tallyN := 0, tallyLost := 0, tallyAt := 0 }

/-- The link after reset: DOWN, nothing outstanding. -/
def LnkSt.init : LnkSt :=
  { since := 0, fails := 0, reads := Map.empty, waiting := [], replay := [], nextSeq := 0, txCredit := Map.empty,
    expect := 0, nakSent := false, asm := .none, ackDue := false, nakDue := false, again := false, sinceNop := 0, laneOut := [],
    rxSpent := Map.empty, rings := Map.empty, due := [], turn := Map.empty, vecs := Map.empty, evtq := [],
    evtLost := 0, viol := 0, violWin := 0 }

/-- The boot sequencer before it starts. -/
def BootSt.init : BootSt :=
  { phase := .idle, src := 0, left := [], strap := 0, fallback := false, bytes := [], pos := 0, setups := [],
    start := none, ended := false, since := 0, released := 0, fuses := Map.empty, reading := false, got := none }

/-- The device held in its reset, before RESET_RELEASE. -/
def TopSt.init : TopSt :=
  { inReset := true, porHold := false, kept := Map.empty, saved := Map.empty, pwrq := [], lastWake := 0, lastPort := 0,
    drain := Map.empty, fill := Map.empty, woke := Map.empty, boot := BootSt.init, otpBusy := none, fuseSeen := 0,
    tempArmed := false, tempCross := none }

/-- Uncorrectable errors of the structures that cannot carry POISON (R403), each as the structure's code, its instance and the index in it:
`latent` those whose check bits no access has met yet, `lost` those reported, whose contents are undefined. -/
structure Damage where
  latent : List (Nat × Nat × Nat)
  lost : List (Nat × Nat × Nat)
deriving DecidableEq, Repr

/-- Everything the spec gives the block, but the fuses, which nothing clears (R412), and the queue. -/
structure Dev where
  /-- device time (R247) and the model's tick -/
  time : TimeSt
  /-- set-up registers by offset, where they differ from their reset values (R47) -/
  regs : Map W32
  /-- counters by offset (R407) -/
  ctrs : Map W64
  /-- the requesters' latches (R249, R408), by requester word -/
  latches : Map Latch
  /-- the data of the last set-up read that each requester made, by requester word -/
  answers : Map W32
  /-- the log writer (R404) -/
  log : LogSt
  /-- the stores of R44 -/
  mem : MemSt
  /-- engines, threads, hearths, flues and smithies -/
  eng : EngSt
  /-- the dispatcher -/
  dsp : DspSt
  /-- the release unit -/
  rel : RelSt
  /-- the lock unit -/
  lck : LckSt
  /-- invalidation in progress and the bellows TLB -/
  mmu : MmuSt
  /-- the Fupaul link and the host rings -/
  lnk : LnkSt
  /-- the buffer pool manager and the copy engine -/
  bpm : BpmSt
  /-- reset, boot, power, OTP -/
  top : TopSt
  /-- the ports and MACsec -/
  prt : PrtSt
  /-- the mills and their kindlers -/
  mil : MilSt
  /-- the chimney -/
  chm : ChmSt
  /-- the bellows -/
  blw : BlwSt
  /-- CAN and the local interfaces -/
  loc : LocSt
  /-- uncorrectable errors of the device's own structures (R403) -/
  damage : Damage
deriving DecidableEq, Repr

/-- The block after a power-on reset, its fuses apart (R386, R387). -/
def Dev.init : Dev :=
  { time := TimeSt.init,
    regs := Map.empty,
    ctrs := Map.empty,
    latches := Map.empty,
    answers := Map.empty,
    log := ⟨Map.empty, Map.empty, 0, 0⟩,
    mem := ⟨Map.empty, [], Map.empty, Map.empty, [], Map.empty⟩,
    eng := ⟨Map.empty, Map.empty, Map.empty, Map.empty, Map.empty, Map.empty, Map.empty, 0⟩,
    dsp := DspSt.init,
    rel := ⟨Map.empty, Map.empty, 0, [], 0, [], 0⟩,
    lck := ⟨Map.empty, [], []⟩,
    mmu := ⟨false, []⟩,
    lnk := LnkSt.init,
    bpm := ⟨Map.empty, Map.empty, Map.empty, Map.empty, Map.empty, Map.empty, [], [], false, 0⟩,
    top := TopSt.init,
    prt := ⟨Map.empty, Map.empty, Map.empty, Map.empty, Map.empty, Map.empty, Map.empty, Map.empty, Map.empty, Map.empty⟩,
    mil := ⟨Map.empty, Map.empty, Map.empty⟩,
    chm := ChmSt.init,
    blw := ⟨Map.empty, Map.empty, []⟩,
    loc := ⟨Map.empty, Map.empty, Map.empty, Map.empty, none, []⟩,
    damage := ⟨[], []⟩ }

/-- The state of the model: the fuse words (R412), the device, and the commands that wait, first in first out. -/
structure State where
  fuses : Map W32
  dev : Dev
  pending : List Instr
deriving DecidableEq, Repr

/-- The block after a power-on reset with no fuse programmed, held in reset until RESET_RELEASE, and no command waiting. -/
def State.reset : State := { fuses := Map.empty, dev := Dev.init, pending := [] }

end Sys2Proof.Machine
end

