-- ==== Sys2Proof/Machine/Flags.lean ====
section
/-!
DEFINITION. The values and flags that the arithmetic instructions compute (R71–R73), over the value bits of their operands.
-/
namespace Sys2Proof.Machine

/-- A 16-bit result with the C and V it gives (R71). -/
structure AluRes where
  r : W16
  c : Bool
  v : Bool
deriving DecidableEq, Repr

/-- a + b + cin. -/
def aluAdd (cin : Bool) (a b : W16) : AluRes :=
  let t := a.toNat + b.toNat + (if cin then 1 else 0)
  let r := BitVec.ofNat 16 t
  ⟨r, decide (65536 ≤ t), a.msb == b.msb && r.msb != a.msb⟩
/-- a − b − cin; C is the borrow. -/
def aluSub (cin : Bool) (a b : W16) : AluRes :=
  let s := b.toNat + (if cin then 1 else 0)
  let r := BitVec.ofNat 16 (a.toNat + 131072 - s)
  ⟨r, decide (a.toNat < s), a.msb != b.msb && r.msb != a.msb⟩
/-- A bitwise result: C and V are clear. -/
def aluBits (r : W16) : AluRes := ⟨r, false, false⟩
/-- The folded one's-complement sum. -/
def aluCsum (a b : W16) : AluRes :=
  let t := a.toNat + b.toNat
  ⟨BitVec.ofNat 16 (t % 65536 + t / 65536), decide (65536 ≤ t), false⟩
/-- The low half of the product; C and V say that the high half is not zero. -/
def aluMul (a b : W16) : AluRes :=
  let t := a.toNat * b.toNat
  ⟨BitVec.ofNat 16 t, decide (65536 ≤ t), decide (65536 ≤ t)⟩
/-- The high half of the product. -/
def aluMulh (a b : W16) : AluRes := ⟨BitVec.ofNat 16 (a.toNat * b.toNat / 65536), false, false⟩
/-- Shift left by s; C is the last bit shifted out. -/
def aluShl (s : Nat) (a : W16) : AluRes := ⟨a <<< s, decide (0 < s) && a.getLsbD (16 - s), false⟩
/-- Logical shift right by s. -/
def aluShr (s : Nat) (a : W16) : AluRes := ⟨a >>> s, decide (0 < s) && a.getLsbD (s - 1), false⟩
/-- Arithmetic shift right by s. -/
def aluSar (s : Nat) (a : W16) : AluRes := ⟨a.sshiftRight s, decide (0 < s) && a.getLsbD (s - 1), false⟩
/-- Rotate left by s; C is bit 0 of the result. -/
def aluRol (s : Nat) (a : W16) : AluRes :=
  let r := a.rotateLeft s
  ⟨r, decide (0 < s) && r.getLsbD 0, false⟩

/-- The flags of an instruction that sets all of them (R71), with its marks (R29). -/
def AluRes.flags (x : AluRes) (pm rm : Bool) : Flags := ⟨x.c, x.r == 0, x.r.msb, x.v, pm, rm⟩

/-- The flags of `CMP` (R72): Z also needs equal tags; the marks record a POISON and a HANDLE or TICKET operand. -/
def cmpFlags (a b : Word) : Flags :=
  let x := aluSub false a.v b.v
  ⟨x.c, a == b, x.r.msb, x.v, a.isPoison || b.isPoison, a.isRef || b.isRef⟩

/-- A branch condition of R69 over the flags, by its number. -/
def condHolds (c : Nat) (f : Flags) : Bool :=
  match c with
  | 0 => f.z
  | 1 => !f.z
  | 2 => f.c
  | 3 => !f.c
  | 4 => f.n
  | 5 => !f.n
  | 6 => f.v
  | 7 => !f.v
  | 8 => !f.c && !f.z
  | 9 => f.c || f.z
  | 10 => f.n != f.v
  | 11 => f.n == f.v
  | 12 => !f.z && f.n == f.v
  | 13 => f.z || f.n != f.v
  | _ => true

end Sys2Proof.Machine
end

