-- ==== Sys2Proof/Config.lean ====
section
/-!
DEFINITION. The values the manual leaves open, as constants without a body: nothing can be proved of one, so a claim about
the model holds whatever it is. Each is applied to the model's free-value counter or to what it depends on.
-/
namespace Sys2Proof.Config

/-- A choice the manual leaves open, made by number: which free task slot a task takes, which free buffer an allocation takes
(R259), which idle clock groups are gated (R397). -/
opaque freeChoice : Nat → Nat

/-- The words that a read of the buffer state area returns to another agent (R254), by word address and free-value index. -/
opaque stateAreaWord : Nat → Nat → W16

/-- The subcause of a bus fault where R299 names none for the case: 0 an access to a shadow (R286), 1 an access to a granary
bank or larder whose domain is off (R283). The model takes it modulo 7, as one of the subcauses 1 to 7. -/
opaque busSubcause : Nat → BitVec 4

/-- Words 2–4 of a descriptor that the link feeds to a bellows channel's ring: the address of an element list that the spec does not give
(R320), by free-value index and number. -/
opaque linkDescWord : Nat → Nat → W16

end Sys2Proof.Config
end

