-- ==== Sys2Proof/Machine/Map.lean ====
section
/-!
DEFINITION. Reading and writing the sparse arrays of State, and the canonical form that writing keeps: keys strictly
rising, no entry equal to what an unlisted index reads as.
-/
namespace Sys2Proof

/-- The value at `k` in a list of entries, `dflt` where none is listed. -/
def Map.look {α : Type} (dflt : α) (k : Nat) : List (Nat × α) → α
  | [] => dflt
  | (j, v) :: r => if j = k then v else Map.look dflt k r

/-- The value at index `k`; `dflt` is what an unlisted index reads as. -/
def Map.get {α : Type} (m : Map α) (dflt : α) (k : Nat) : α := Map.look dflt k m.entries

/-- The entries without those at `k`. -/
def Map.drop {α : Type} (k : Nat) : List (Nat × α) → List (Nat × α)
  | [] => []
  | (j, v) :: r => if j = k then Map.drop k r else (j, v) :: Map.drop k r

/-- An entry put before the first of a higher key. -/
def Map.ins {α : Type} (k : Nat) (x : α) : List (Nat × α) → List (Nat × α)
  | [] => [(k, x)]
  | (j, v) :: r => if k < j then (k, x) :: (j, v) :: r else (j, v) :: Map.ins k x r

/-- Index `k` now holds `x`: a value equal to the default leaves no entry. -/
def Map.set {α : Type} [DecidableEq α] (m : Map α) (dflt : α) (k : Nat) (x : α) : Map α :=
  if x = dflt then ⟨Map.drop k m.entries⟩ else ⟨Map.ins k x (Map.drop k m.entries)⟩

/-- Apply `f` to the value at `k`. -/
def Map.upd {α : Type} [DecidableEq α] (m : Map α) (dflt : α) (k : Nat) (f : α → α) : Map α :=
  m.set dflt k (f (m.get dflt k))

/-- Index `k` reads as its default again. -/
def Map.erase {α : Type} (m : Map α) (k : Nat) : Map α := ⟨Map.drop k m.entries⟩

/-- The listed indexes. -/
def Map.keys {α : Type} (m : Map α) : List Nat := m.entries.map Prod.fst

/-- Keep only the entries that `p` holds of. -/
def Map.filter {α : Type} (m : Map α) (p : Nat → α → Bool) : Map α := ⟨m.entries.filter (fun e => p e.1 e.2)⟩

/-- Apply `f` to every listed entry; one that becomes the default of its index is unlisted. -/
def Map.mapAll {α : Type} [DecidableEq α] (m : Map α) (dflt : Nat → α) (f : Nat → α → α) : Map α :=
  ⟨(m.entries.map (fun e => (e.1, f e.1 e.2))).filter (fun e => e.2 ≠ dflt e.1)⟩

/-- Keys strictly rising, all above `lo`. -/
def Map.rising {α : Type} : List (Nat × α) → Bool
  | [] => true
  | [_] => true
  | (j, _) :: (k, w) :: r => decide (j < k) && Map.rising ((k, w) :: r)

/-- The canonical form: rising keys and no entry equal to its default. -/
def Map.wf {α : Type} [DecidableEq α] (m : Map α) (dflt : Nat → α) : Bool :=
  Map.rising m.entries && m.entries.all (fun e => e.2 ≠ dflt e.1)

end Sys2Proof
end

