-- ==== Sys2Proof/Machine/Regs.lean ====
section
/-!
DEFINITION. The set-up registers (R47, R48): for each kind of register its name in the manual, its offset, how many copies
it has, and its fields with their access codes and reset values; and the same for the counters of R407 and R408.
Bits that no field covers are rsv.
-/
namespace Sys2Proof.Machine

/-- Access codes (R3). `w1s` is TOP.SETUP_LOCK: a 1 is kept until a device reset, a written 0 changes nothing (R50). -/
inductive Acc where
  | rw | ro | w1c | w1p | rcl | lck | w1s
deriving DecidableEq, Repr

/-- One field of a set-up register: bits hi:lo, its access code and its reset value. -/
structure Field where
  hi : Nat
  lo : Nat
  acc : Acc
  reset : Nat
deriving DecidableEq, Repr

/-- Bits hi:lo with an access code and a reset value. -/
def fd (hi lo : Nat) (acc : Acc) (reset : Nat) : Field := ⟨hi, lo, acc, reset⟩

/-- Bits hi:lo of a 32-bit register value, as a number. -/
def bits (v : W32) (hi lo : Nat) : Nat := (v.toNat >>> lo) % 2 ^ (hi + 1 - lo)

/-- `v` with bits hi:lo replaced by `x`. -/
def setBits (v : W32) (hi lo x : Nat) : W32 :=
  let m := (2 ^ (hi + 1 - lo) - 1) <<< lo
  BitVec.ofNat 32 (((v.toNat ||| m) ^^^ m) ||| ((x <<< lo) &&& m))

/-- The kinds of set-up register, by block in the order of R47. -/
inductive RegKind where
  | topDeviceId | topSetupLock | topResetCause | topResetCmd | topResetCtrl | topBootStatus | topBootTime
  | topBootSrcHi | topBootSrcLo | topBootCmd | topBootData | topFuse | topTemp | topTempAlarm | clkStatus
  | clkAutogate | clkGated | pwrCmd | pwrDrainTimeout | pwrStatus | pwrDom | errLogCfg | errLogBaseHi | errLogBaseLo
  | errLogProd | errLogCons | errFault | errIrqEn | errIrqPend | errSat | errClrErr | errFirstFatal | dbgCtrl
  | dbgThrCmd | dbgGroup | dbgStopped | dbgBp | dbgWp | dbgWpHi | dbgWpLo | dbgWpMask | dbgOtpCmd | dbgOtpData
  | prtMode | prtRxctrl | prtStatus | prtTsAdj | prtFc | msecPortCtrl | msecByp01 | msecByp23 | msecTxmap
  | msecReplayWin | msecSel | msecSciHi | msecSciLo | msecScCtrl | msecSaCtrl | msecSaKey | msecSaSalt | msecSaSsci
  | msecSaPnHi | msecSaPnLo | msecCmd | msecPnThreshHi | msecPnThreshLo | kndCtrl | kndProgAddr | kndProgHi
  | kndProgLo | kndEntry | milCtrl | milMalf | milMalfQ | milSrc0 | milSrc1 | milSrc23 | milBank | milQciCtrl
  | milStoneCfg | milStoneSel | milStoneRegion | milStoneMask | milUpdCmd | milUpdIdx | milUpdStat | milUpdKey
  | milUpdMask | milUpdData | milLearn | milLearnSel | milLearnPorts | milHashSeed | milGossipCfg | milGossipBaseHi
  | milGossipBaseLo | milGossipProd | milGossipCons | milActBase | milFailqKey01 | milFailqKey23 | milFailqCount
  | milFailqValid | dspCtrl | dspLimits | dspWinBase | dspHset | dspTallyCfg | dspTallyFilt | dspTallyBaseHi
  | dspTallyBaseLo | dspTallyProd | dspTallyCons | dspFlowSel | dspFlowStat | dspFlowCmd | dspHearth | dspDlist
  | dspEvt | relCtrl | relStatus | relDomSel | relDomStat | chmCtrl | chmGclAddr | chmGclDataHi | chmGclDataLo
  | chmPctrl | chmGateCtrl | chmAdminCycle | chmAdminBaseHi | chmAdminBaseLo | chmAdminCte | chmOperCycle
  | chmOperBaseHi | chmOperBaseLo | chmChgTimeHi | chmChgTimeLo | chmPreempt | chmHoldAdv | chmPtp | chmCbs | chmPcq
  | chmGen | chmQmap | chmQrate | chmQburst | chmQlimit | bpmStateBase | bpmPoolCfg | bpmPoolBaseHi | bpmPoolBaseLo
  | bpmPoolCount | bpmPoolStat | bpmPoolReserve | bpmLlCfg | bpmLlThresh | bpmLlUsed | bpmLlStat | blwCtrl | blwCfg
  | blwRingHi | blwRingLo | blwHead | blwTail | blwCmd | blwStat | blwPosElem | blwPosOfs | blwFaddrHi | blwFaddrLo
  | lckCtrl | lckTmo | lckState | lckCfg | mmuTlbiCmd | mmuTlbiTgt | mmuTlbiVaHi | mmuTlbiVaLo | mmuTlbiStat
  | mmuHsel | mmuCtxCfg | mmuCtxRootHi | mmuCtxRootLo | memCtrl | memMcCfg | memMcStatus | memMcTrain | memRegCtrl
  | memRegBase | memRegSize | memRegShadow | lnkCtrl | lnkStatus | lnkTimers | lnkMsiSend | lnkHwinCtrl
  | lnkHwinBaseHi | lnkHwinBaseLo | lnkVport | lnkVec | lnkRingCfg | lnkRingAux | lnkRingDescLo | lnkRingDescHi
  | lnkRingCplLo | lnkRingCplHi | lnkRingIdx | lnkRingStat | lnkDoorbell | canEvtPend | canCtrl | canBt | canTdc
  | canPwm | canStatus | canCmd | mdioCmd | mdioDiv | uartCtrl | uartData | uartStat | gpioOut | gpioOe | gpioIn
  | gpioRiseEn | gpioFallEn | gpioEdgePend | xspiCfg | xspiFlash | xspiGran | xspiCmd | timeNowLo | timeNowHi
  | timeNowFrac | timeRate | timeSetHi | timeSetLo | timeStepHi | timeStepLo | timeCmd | timeTxtsStat | timeTxtsHi
  | timeTxtsLo | timeTxtsPop | tsioCtrl | tsioStartHi | tsioStartLo | tsioPeriod | tsioWidth | tsioCapHi | tsioCapLo
  | hthWardenPc | hthThrCmd | hthWdog | hthStill | hthRepq | hthHeld | hthSlotLo | hthSlotHi | hthSwift | hthTsr
  | hthCacheCfg | hthCacheLock | hthRngBaseHi | hthRngBaseLo | hthRngLen | hthRngCmd | hthRngStat | hthPreempt
  | hthKeySel | hthKey | hthKeyCmd | hthTpzKey | hthPatSel | hthPatCfg | hthPatData | hthPatCmd | hthReset
deriving DecidableEq, Repr

/-- The kinds of counter. -/
inductive CtrKind where
  | errRecords | errLost | prtRxFrames | prtRxBytes | prtTxFrames | prtTxBytes | prtRxPause | prtTxPause
  | prtRxFcsErr | prtRxRunt | prtRxOversize | prtRxPcsErr | prtRxOverrun | prtRxAbort | prtRxFragErr | msecRxOk
  | msecRxUntagged | msecRxBypass | msecTxProtected | msecTxEncrypted | msecRxNotag | msecRxBadtag | msecRxNosci
  | msecRxUnknownsci | msecRxNotusingsa | msecRxUnusedsa | msecRxLate | msecRxNotvalid | msecRxInvalid
  | msecTxToolong | msecTxPnExhausted | kndFrames | kndDeep | kndSteps | kndFail | milStoneHits | milStoneMisses
  | milFrames | milDrop | milForward | milHost | milMirror | milMalformed | milUndecided | milEmptyDrop
  | milRsvAction | milQciDrop | milRcvDrop | milFloodUcast | milFloodFailed | milGossipNew | milGossipMoved
  | milGossipMove | milGossipFiltered | milLearnGroup | milGossipThrottled | milGossipLost | milInsertFull | dspTasks
  | dspAffHits | dspMoves | dspWithdrawn | dspPostRefused | dspStallSlot | dspTallyLost | relReleased | relSkipped
  | relOvertaken | relStallTicket | relStallDeadline | chmEnq | chmPreemptFrags | chmTailDrop | chmQmemDrop
  | chmCopyNobuf | chmLinkdownDrop | chmTxAbort | chmTxPoison | chmTxToolong | chmTsLost | chmTsOnestepMiss | chmHold
  | chmTxOverrun | chmEmptyDrop | bpmAlloc | bpmFallback | bpmNobuf | bpmNobufPort | bpmCopies | bpmCopyBytes
  | bpmLlDrop | bpmBadHead | blwDescs | blwSnoopHits | blwErrors | blwBytes | lckAcquires | lckContended
  | lckTimeouts | lckAbandons | lckInherit | mmuBlwTlbMisses | mmuBlwWalkFaults | memCorr | memUncorr | memBytes
  | lnkFlitsTx | lnkFlitsRx | lnkCrcErr | lnkSeqErr | lnkDup | lnkProtoErr | lnkCreditErr | lnkCplErr | lnkCplTmo
  | lnkBarErr | lnkDbErr | lnkPoisonRx | lnkReplays | lnkRetrains | lnkWrLost | lnkEvtLost | canRxFrames
  | canTxFrames | canRxErr | canRxNobuf | canRxOverrun | canTxBad | canTxAbandon | canBusoff | spiErr
  | hthFlueDiscard | hthRngSkipped | hthRngLockFail | hthCacheHits | hthCacheMisses | hthWritebacks | hthVictimHits
  | hthPrefetches | hthCacheDiscard | hthLarderCorr | hthLarderUncorr | hthTlbMisses | hthPreempts | hthWalkFaults
  | hthSmithyOps | hthSmithyErr
deriving DecidableEq, Repr

/-- Where the copies of a register lie: copy (i, j) is at base + i * s1 + (j / c) * s2 + (j % c) * s3. -/
structure Place where
  base : Nat
  n1 : Nat
  s1 : Nat
  n2 : Nat
  c : Nat
  s2 : Nat
  s3 : Nat
deriving DecidableEq, Repr

def Place.off (p : Place) (i j : Nat) : Nat := p.base + i * p.s1 + (j / p.c) * p.s2 + (j % p.c) * p.s3

/-- The copy at an offset, if the offset is one of this register's. -/
def Place.find (p : Place) (off : Nat) : Option (Nat × Nat) :=
  if off < p.base then none else
  let rel := off - p.base
  let i := if p.n1 = 1 then 0 else rel / p.s1
  let r := rel - i * p.s1
  let j := if p.n2 = 1 then 0 else (r / p.s2) * p.c + (if p.c = 1 then 0 else (r % p.s2) / p.s3)
  if i < p.n1 ∧ j < p.n2 ∧ p.off i j = off then some (i, j) else none

/-- Where each register lies (the chapters' register tables). -/
def RegKind.place : RegKind → Place
  | .topDeviceId => ⟨0x000000, 1, 0, 1, 1, 0, 0⟩
  | .topSetupLock => ⟨0x000010, 1, 0, 1, 1, 0, 0⟩
  | .topResetCause => ⟨0x000020, 1, 0, 1, 1, 0, 0⟩
  | .topResetCmd => ⟨0x000024, 1, 0, 1, 1, 0, 0⟩
  | .topResetCtrl => ⟨0x000028, 1, 0, 1, 1, 0, 0⟩
  | .topBootStatus => ⟨0x000030, 1, 0, 1, 1, 0, 0⟩
  | .topBootTime => ⟨0x000034, 1, 0, 1, 1, 0, 0⟩
  | .topBootSrcHi => ⟨0x000038, 1, 0, 1, 1, 0, 0⟩
  | .topBootSrcLo => ⟨0x00003C, 1, 0, 1, 1, 0, 0⟩
  | .topBootCmd => ⟨0x000040, 1, 0, 1, 1, 0, 0⟩
  | .topBootData => ⟨0x000044, 1, 0, 1, 1, 0, 0⟩
  | .topFuse => ⟨0x000050, 1, 0, 1, 1, 0, 0⟩
  | .topTemp => ⟨0x000060, 1, 0, 1, 1, 0, 0⟩
  | .topTempAlarm => ⟨0x000064, 1, 0, 1, 1, 0, 0⟩
  | .clkStatus => ⟨0x010000, 1, 0, 1, 1, 0, 0⟩
  | .clkAutogate => ⟨0x010004, 1, 0, 1, 1, 0, 0⟩
  | .clkGated => ⟨0x010100, 11, 4, 1, 1, 0, 0⟩
  | .pwrCmd => ⟨0x020000, 1, 0, 1, 1, 0, 0⟩
  | .pwrDrainTimeout => ⟨0x020004, 1, 0, 1, 1, 0, 0⟩
  | .pwrStatus => ⟨0x020008, 1, 0, 1, 1, 0, 0⟩
  | .pwrDom => ⟨0x020100, 40, 4, 1, 1, 0, 0⟩
  | .errLogCfg => ⟨0x030000, 1, 0, 1, 1, 0, 0⟩
  | .errLogBaseHi => ⟨0x030004, 1, 0, 1, 1, 0, 0⟩
  | .errLogBaseLo => ⟨0x030008, 1, 0, 1, 1, 0, 0⟩
  | .errLogProd => ⟨0x03000C, 1, 0, 1, 1, 0, 0⟩
  | .errLogCons => ⟨0x030010, 1, 0, 1, 1, 0, 0⟩
  | .errFault => ⟨0x030020, 1, 0, 1, 1, 0, 0⟩
  | .errIrqEn => ⟨0x030024, 1, 0, 1, 1, 0, 0⟩
  | .errIrqPend => ⟨0x030028, 1, 0, 1, 1, 0, 0⟩
  | .errSat => ⟨0x030030, 1, 0, 1, 1, 0, 0⟩
  | .errClrErr => ⟨0x030034, 1, 0, 1, 1, 0, 0⟩
  | .errFirstFatal => ⟨0x030040, 4, 4, 1, 1, 0, 0⟩
  | .dbgCtrl => ⟨0x040000, 1, 0, 1, 1, 0, 0⟩
  | .dbgThrCmd => ⟨0x040004, 1, 0, 1, 1, 0, 0⟩
  | .dbgGroup => ⟨0x040008, 1, 0, 1, 1, 0, 0⟩
  | .dbgStopped => ⟨0x040010, 1, 0, 1, 1, 0, 0⟩
  | .dbgBp => ⟨0x041000, 16, 0x100, 8, 1, 4, 0⟩
  | .dbgWp => ⟨0x041040, 16, 0x100, 4, 1, 0x10, 0⟩
  | .dbgWpHi => ⟨0x041044, 16, 0x100, 4, 1, 0x10, 0⟩
  | .dbgWpLo => ⟨0x041048, 16, 0x100, 4, 1, 0x10, 0⟩
  | .dbgWpMask => ⟨0x04104C, 16, 0x100, 4, 1, 0x10, 0⟩
  | .dbgOtpCmd => ⟨0x04F000, 1, 0, 1, 1, 0, 0⟩
  | .dbgOtpData => ⟨0x04F004, 1, 0, 1, 1, 0, 0⟩
  | .prtMode => ⟨0x080000, 32, 0x1000, 1, 1, 0, 0⟩
  | .prtRxctrl => ⟨0x080004, 32, 0x1000, 1, 1, 0, 0⟩
  | .prtStatus => ⟨0x080008, 32, 0x1000, 1, 1, 0, 0⟩
  | .prtTsAdj => ⟨0x08000C, 32, 0x1000, 1, 1, 0, 0⟩
  | .prtFc => ⟨0x080010, 32, 0x1000, 1, 1, 0, 0⟩
  | .msecPortCtrl => ⟨0x0A0000, 32, 0x10, 1, 1, 0, 0⟩
  | .msecByp01 => ⟨0x0A0004, 32, 0x10, 1, 1, 0, 0⟩
  | .msecByp23 => ⟨0x0A0008, 32, 0x10, 1, 1, 0, 0⟩
  | .msecTxmap => ⟨0x0A000C, 32, 0x10, 1, 1, 0, 0⟩
  | .msecReplayWin => ⟨0x0A0200, 32, 4, 1, 1, 0, 0⟩
  | .msecSel => ⟨0x0A1000, 1, 0, 1, 1, 0, 0⟩
  | .msecSciHi => ⟨0x0A1004, 1, 0, 1, 1, 0, 0⟩
  | .msecSciLo => ⟨0x0A1008, 1, 0, 1, 1, 0, 0⟩
  | .msecScCtrl => ⟨0x0A100C, 1, 0, 1, 1, 0, 0⟩
  | .msecSaCtrl => ⟨0x0A1010, 1, 0, 1, 1, 0, 0⟩
  | .msecSaKey => ⟨0x0A1020, 8, 4, 1, 1, 0, 0⟩
  | .msecSaSalt => ⟨0x0A1040, 3, 4, 1, 1, 0, 0⟩
  | .msecSaSsci => ⟨0x0A104C, 1, 0, 1, 1, 0, 0⟩
  | .msecSaPnHi => ⟨0x0A1050, 1, 0, 1, 1, 0, 0⟩
  | .msecSaPnLo => ⟨0x0A1054, 1, 0, 1, 1, 0, 0⟩
  | .msecCmd => ⟨0x0A1060, 1, 0, 1, 1, 0, 0⟩
  | .msecPnThreshHi => ⟨0x0A1070, 1, 0, 1, 1, 0, 0⟩
  | .msecPnThreshLo => ⟨0x0A1074, 1, 0, 1, 1, 0, 0⟩
  | .kndCtrl => ⟨0x100000, 4, 0x40000, 1, 1, 0, 0⟩
  | .kndProgAddr => ⟨0x100010, 4, 0x40000, 1, 1, 0, 0⟩
  | .kndProgHi => ⟨0x100014, 4, 0x40000, 1, 1, 0, 0⟩
  | .kndProgLo => ⟨0x100018, 4, 0x40000, 1, 1, 0, 0⟩
  | .kndEntry => ⟨0x100100, 4, 0x40000, 128, 1, 4, 0⟩
  | .milCtrl => ⟨0x110000, 4, 0x40000, 1, 1, 0, 0⟩
  | .milMalf => ⟨0x110004, 4, 0x40000, 1, 1, 0, 0⟩
  | .milMalfQ => ⟨0x110008, 4, 0x40000, 1, 1, 0, 0⟩
  | .milSrc0 => ⟨0x110010, 4, 0x40000, 1, 1, 0, 0⟩
  | .milSrc1 => ⟨0x110014, 4, 0x40000, 1, 1, 0, 0⟩
  | .milSrc23 => ⟨0x110018, 4, 0x40000, 2, 1, 4, 0⟩
  | .milBank => ⟨0x110020, 4, 0x40000, 1, 1, 0, 0⟩
  | .milQciCtrl => ⟨0x110024, 4, 0x40000, 1, 1, 0, 0⟩
  | .milStoneCfg => ⟨0x110100, 4, 0x40000, 8, 1, 0x80, 0⟩
  | .milStoneSel => ⟨0x110104, 4, 0x40000, 40, 5, 0x80, 4⟩
  | .milStoneRegion => ⟨0x110118, 4, 0x40000, 16, 2, 0x80, 4⟩
  | .milStoneMask => ⟨0x110120, 4, 0x40000, 80, 10, 0x80, 4⟩
  | .milUpdCmd => ⟨0x111000, 4, 0x40000, 1, 1, 0, 0⟩
  | .milUpdIdx => ⟨0x111004, 4, 0x40000, 1, 1, 0, 0⟩
  | .milUpdStat => ⟨0x111008, 4, 0x40000, 1, 1, 0, 0⟩
  | .milUpdKey => ⟨0x111010, 4, 0x40000, 10, 1, 4, 0⟩
  | .milUpdMask => ⟨0x111040, 4, 0x40000, 10, 1, 4, 0⟩
  | .milUpdData => ⟨0x111080, 4, 0x40000, 8, 1, 4, 0⟩
  | .milLearn => ⟨0x113000, 4, 0x40000, 1, 1, 0, 0⟩
  | .milLearnSel => ⟨0x113004, 4, 0x40000, 1, 1, 0, 0⟩
  | .milLearnPorts => ⟨0x113008, 4, 0x40000, 1, 1, 0, 0⟩
  | .milHashSeed => ⟨0x11300C, 4, 0x40000, 1, 1, 0, 0⟩
  | .milGossipCfg => ⟨0x113010, 4, 0x40000, 1, 1, 0, 0⟩
  | .milGossipBaseHi => ⟨0x113014, 4, 0x40000, 1, 1, 0, 0⟩
  | .milGossipBaseLo => ⟨0x113018, 4, 0x40000, 1, 1, 0, 0⟩
  | .milGossipProd => ⟨0x11301C, 4, 0x40000, 1, 1, 0, 0⟩
  | .milGossipCons => ⟨0x113020, 4, 0x40000, 1, 1, 0, 0⟩
  | .milActBase => ⟨0x113024, 4, 0x40000, 2, 1, 4, 0⟩
  | .milFailqKey01 => ⟨0x113100, 4, 0x40000, 16, 1, 0x10, 0⟩
  | .milFailqKey23 => ⟨0x113104, 4, 0x40000, 16, 1, 0x10, 0⟩
  | .milFailqCount => ⟨0x113108, 4, 0x40000, 16, 1, 0x10, 0⟩
  | .milFailqValid => ⟨0x11310C, 4, 0x40000, 16, 1, 0x10, 0⟩
  | .dspCtrl => ⟨0x200000, 1, 0, 1, 1, 0, 0⟩
  | .dspLimits => ⟨0x200004, 1, 0, 1, 1, 0, 0⟩
  | .dspWinBase => ⟨0x200008, 1, 0, 1, 1, 0, 0⟩
  | .dspHset => ⟨0x200010, 4, 4, 1, 1, 0, 0⟩
  | .dspTallyCfg => ⟨0x200040, 1, 0, 1, 1, 0, 0⟩
  | .dspTallyFilt => ⟨0x200044, 1, 0, 1, 1, 0, 0⟩
  | .dspTallyBaseHi => ⟨0x200048, 1, 0, 1, 1, 0, 0⟩
  | .dspTallyBaseLo => ⟨0x20004C, 1, 0, 1, 1, 0, 0⟩
  | .dspTallyProd => ⟨0x200050, 1, 0, 1, 1, 0, 0⟩
  | .dspTallyCons => ⟨0x200054, 1, 0, 1, 1, 0, 0⟩
  | .dspFlowSel => ⟨0x200060, 1, 0, 1, 1, 0, 0⟩
  | .dspFlowStat => ⟨0x200064, 1, 0, 1, 1, 0, 0⟩
  | .dspFlowCmd => ⟨0x200068, 1, 0, 1, 1, 0, 0⟩
  | .dspHearth => ⟨0x200100, 16, 4, 1, 1, 0, 0⟩
  | .dspDlist => ⟨0x200400, 64, 4, 1, 1, 0, 0⟩
  | .dspEvt => ⟨0x200800, 256, 4, 1, 1, 0, 0⟩
  | .relCtrl => ⟨0x240000, 1, 0, 1, 1, 0, 0⟩
  | .relStatus => ⟨0x240004, 1, 0, 1, 1, 0, 0⟩
  | .relDomSel => ⟨0x240010, 1, 0, 1, 1, 0, 0⟩
  | .relDomStat => ⟨0x240014, 1, 0, 1, 1, 0, 0⟩
  | .chmCtrl => ⟨0x280000, 1, 0, 1, 1, 0, 0⟩
  | .chmGclAddr => ⟨0x280010, 1, 0, 1, 1, 0, 0⟩
  | .chmGclDataHi => ⟨0x280014, 1, 0, 1, 1, 0, 0⟩
  | .chmGclDataLo => ⟨0x280018, 1, 0, 1, 1, 0, 0⟩
  | .chmPctrl => ⟨0x280100, 32, 0x40, 1, 1, 0, 0⟩
  | .chmGateCtrl => ⟨0x280104, 32, 0x40, 1, 1, 0, 0⟩
  | .chmAdminCycle => ⟨0x280108, 32, 0x40, 1, 1, 0, 0⟩
  | .chmAdminBaseHi => ⟨0x28010C, 32, 0x40, 1, 1, 0, 0⟩
  | .chmAdminBaseLo => ⟨0x280110, 32, 0x40, 1, 1, 0, 0⟩
  | .chmAdminCte => ⟨0x280114, 32, 0x40, 1, 1, 0, 0⟩
  | .chmOperCycle => ⟨0x280118, 32, 0x40, 1, 1, 0, 0⟩
  | .chmOperBaseHi => ⟨0x28011C, 32, 0x40, 1, 1, 0, 0⟩
  | .chmOperBaseLo => ⟨0x280120, 32, 0x40, 1, 1, 0, 0⟩
  | .chmChgTimeHi => ⟨0x280124, 32, 0x40, 1, 1, 0, 0⟩
  | .chmChgTimeLo => ⟨0x280128, 32, 0x40, 1, 1, 0, 0⟩
  | .chmPreempt => ⟨0x28012C, 32, 0x40, 1, 1, 0, 0⟩
  | .chmHoldAdv => ⟨0x280130, 32, 0x40, 1, 1, 0, 0⟩
  | .chmPtp => ⟨0x280134, 32, 0x40, 1, 1, 0, 0⟩
  | .chmCbs => ⟨0x281000, 32, 0x20, 8, 1, 4, 0⟩
  | .chmPcq => ⟨0x281400, 32, 0x20, 8, 1, 4, 0⟩
  | .chmGen => ⟨0x281800, 512, 4, 1, 1, 0, 0⟩
  | .chmQmap => ⟨0x2C0000, 16384, 0x10, 1, 1, 0, 0⟩
  | .chmQrate => ⟨0x2C0004, 16384, 0x10, 1, 1, 0, 0⟩
  | .chmQburst => ⟨0x2C0008, 16384, 0x10, 1, 1, 0, 0⟩
  | .chmQlimit => ⟨0x2C000C, 16384, 0x10, 1, 1, 0, 0⟩
  | .bpmStateBase => ⟨0x300000, 1, 0, 1, 1, 0, 0⟩
  | .bpmPoolCfg => ⟨0x300100, 8, 0x20, 1, 1, 0, 0⟩
  | .bpmPoolBaseHi => ⟨0x300104, 8, 0x20, 1, 1, 0, 0⟩
  | .bpmPoolBaseLo => ⟨0x300108, 8, 0x20, 1, 1, 0, 0⟩
  | .bpmPoolCount => ⟨0x30010C, 8, 0x20, 1, 1, 0, 0⟩
  | .bpmPoolStat => ⟨0x300110, 8, 0x20, 1, 1, 0, 0⟩
  | .bpmPoolReserve => ⟨0x300114, 8, 0x20, 1, 1, 0, 0⟩
  | .bpmLlCfg => ⟨0x300400, 32, 0x10, 1, 1, 0, 0⟩
  | .bpmLlThresh => ⟨0x300404, 32, 0x10, 1, 1, 0, 0⟩
  | .bpmLlUsed => ⟨0x300408, 32, 0x10, 1, 1, 0, 0⟩
  | .bpmLlStat => ⟨0x30040C, 32, 0x10, 1, 1, 0, 0⟩
  | .blwCtrl => ⟨0x340000, 1, 0, 1, 1, 0, 0⟩
  | .blwCfg => ⟨0x341000, 64, 0x40, 1, 1, 0, 0⟩
  | .blwRingHi => ⟨0x341004, 64, 0x40, 1, 1, 0, 0⟩
  | .blwRingLo => ⟨0x341008, 64, 0x40, 1, 1, 0, 0⟩
  | .blwHead => ⟨0x34100C, 64, 0x40, 1, 1, 0, 0⟩
  | .blwTail => ⟨0x341010, 64, 0x40, 1, 1, 0, 0⟩
  | .blwCmd => ⟨0x341014, 64, 0x40, 1, 1, 0, 0⟩
  | .blwStat => ⟨0x341018, 64, 0x40, 1, 1, 0, 0⟩
  | .blwPosElem => ⟨0x34101C, 64, 0x40, 1, 1, 0, 0⟩
  | .blwPosOfs => ⟨0x341020, 64, 0x40, 1, 1, 0, 0⟩
  | .blwFaddrHi => ⟨0x341024, 64, 0x40, 1, 1, 0, 0⟩
  | .blwFaddrLo => ⟨0x341028, 64, 0x40, 1, 1, 0, 0⟩
  | .lckCtrl => ⟨0x380000, 1, 0, 1, 1, 0, 0⟩
  | .lckTmo => ⟨0x380010, 8, 4, 1, 1, 0, 0⟩
  | .lckState => ⟨0x388000, 4096, 8, 1, 1, 0, 0⟩
  | .lckCfg => ⟨0x388004, 4096, 8, 1, 1, 0, 0⟩
  | .mmuTlbiCmd => ⟨0x3C0000, 1, 0, 1, 1, 0, 0⟩
  | .mmuTlbiTgt => ⟨0x3C0004, 1, 0, 1, 1, 0, 0⟩
  | .mmuTlbiVaHi => ⟨0x3C0008, 1, 0, 1, 1, 0, 0⟩
  | .mmuTlbiVaLo => ⟨0x3C000C, 1, 0, 1, 1, 0, 0⟩
  | .mmuTlbiStat => ⟨0x3C0010, 1, 0, 1, 1, 0, 0⟩
  | .mmuHsel => ⟨0x3C0040, 16, 4, 1, 1, 0, 0⟩
  | .mmuCtxCfg => ⟨0x3C0100, 32, 0x10, 1, 1, 0, 0⟩
  | .mmuCtxRootHi => ⟨0x3C0104, 32, 0x10, 1, 1, 0, 0⟩
  | .mmuCtxRootLo => ⟨0x3C0108, 32, 0x10, 1, 1, 0, 0⟩
  | .memCtrl => ⟨0x400000, 1, 0, 1, 1, 0, 0⟩
  | .memMcCfg => ⟨0x400100, 4, 0x40, 1, 1, 0, 0⟩
  | .memMcStatus => ⟨0x400104, 4, 0x40, 1, 1, 0, 0⟩
  | .memMcTrain => ⟨0x400108, 4, 0x40, 1, 1, 0, 0⟩
  | .memRegCtrl => ⟨0x401000, 16, 0x20, 1, 1, 0, 0⟩
  | .memRegBase => ⟨0x401004, 16, 0x20, 1, 1, 0, 0⟩
  | .memRegSize => ⟨0x401008, 16, 0x20, 1, 1, 0, 0⟩
  | .memRegShadow => ⟨0x40100C, 16, 0x20, 1, 1, 0, 0⟩
  | .lnkCtrl => ⟨0x480000, 1, 0, 1, 1, 0, 0⟩
  | .lnkStatus => ⟨0x480004, 1, 0, 1, 1, 0, 0⟩
  | .lnkTimers => ⟨0x480008, 1, 0, 1, 1, 0, 0⟩
  | .lnkMsiSend => ⟨0x48000C, 1, 0, 1, 1, 0, 0⟩
  | .lnkHwinCtrl => ⟨0x480100, 16, 0x10, 1, 1, 0, 0⟩
  | .lnkHwinBaseHi => ⟨0x480104, 16, 0x10, 1, 1, 0, 0⟩
  | .lnkHwinBaseLo => ⟨0x480108, 16, 0x10, 1, 1, 0, 0⟩
  | .lnkVport => ⟨0x480200, 64, 4, 1, 1, 0, 0⟩
  | .lnkVec => ⟨0x480400, 256, 4, 1, 1, 0, 0⟩
  | .lnkRingCfg => ⟨0x484000, 1024, 0x20, 1, 1, 0, 0⟩
  | .lnkRingAux => ⟨0x484004, 1024, 0x20, 1, 1, 0, 0⟩
  | .lnkRingDescLo => ⟨0x484008, 1024, 0x20, 1, 1, 0, 0⟩
  | .lnkRingDescHi => ⟨0x48400C, 1024, 0x20, 1, 1, 0, 0⟩
  | .lnkRingCplLo => ⟨0x484010, 1024, 0x20, 1, 1, 0, 0⟩
  | .lnkRingCplHi => ⟨0x484014, 1024, 0x20, 1, 1, 0, 0⟩
  | .lnkRingIdx => ⟨0x484018, 1024, 0x20, 1, 1, 0, 0⟩
  | .lnkRingStat => ⟨0x48401C, 1024, 0x20, 1, 1, 0, 0⟩
  | .lnkDoorbell => ⟨0x490000, 16384, 4, 1, 1, 0, 0⟩
  | .canEvtPend => ⟨0x500000, 1, 0, 1, 1, 0, 0⟩
  | .canCtrl => ⟨0x501000, 32, 0x100, 1, 1, 0, 0⟩
  | .canBt => ⟨0x501004, 32, 0x100, 3, 1, 4, 0⟩
  | .canTdc => ⟨0x501010, 32, 0x100, 1, 1, 0, 0⟩
  | .canPwm => ⟨0x501014, 32, 0x100, 1, 1, 0, 0⟩
  | .canStatus => ⟨0x501018, 32, 0x100, 1, 1, 0, 0⟩
  | .canCmd => ⟨0x50101C, 32, 0x100, 1, 1, 0, 0⟩
  | .mdioCmd => ⟨0x540000, 2, 0x10, 1, 1, 0, 0⟩
  | .mdioDiv => ⟨0x540004, 2, 0x10, 1, 1, 0, 0⟩
  | .uartCtrl => ⟨0x540100, 2, 0x20, 1, 1, 0, 0⟩
  | .uartData => ⟨0x540104, 2, 0x20, 1, 1, 0, 0⟩
  | .uartStat => ⟨0x540108, 2, 0x20, 1, 1, 0, 0⟩
  | .gpioOut => ⟨0x540200, 1, 0, 1, 1, 0, 0⟩
  | .gpioOe => ⟨0x540204, 1, 0, 1, 1, 0, 0⟩
  | .gpioIn => ⟨0x540208, 1, 0, 1, 1, 0, 0⟩
  | .gpioRiseEn => ⟨0x54020C, 1, 0, 1, 1, 0, 0⟩
  | .gpioFallEn => ⟨0x540210, 1, 0, 1, 1, 0, 0⟩
  | .gpioEdgePend => ⟨0x540214, 1, 0, 1, 1, 0, 0⟩
  | .xspiCfg => ⟨0x540400, 1, 0, 1, 1, 0, 0⟩
  | .xspiFlash => ⟨0x540404, 1, 0, 1, 1, 0, 0⟩
  | .xspiGran => ⟨0x540408, 1, 0, 1, 1, 0, 0⟩
  | .xspiCmd => ⟨0x54040C, 1, 0, 1, 1, 0, 0⟩
  | .timeNowLo => ⟨0x580000, 1, 0, 1, 1, 0, 0⟩
  | .timeNowHi => ⟨0x580004, 1, 0, 1, 1, 0, 0⟩
  | .timeNowFrac => ⟨0x580008, 1, 0, 1, 1, 0, 0⟩
  | .timeRate => ⟨0x580010, 1, 0, 1, 1, 0, 0⟩
  | .timeSetHi => ⟨0x580020, 1, 0, 1, 1, 0, 0⟩
  | .timeSetLo => ⟨0x580024, 1, 0, 1, 1, 0, 0⟩
  | .timeStepHi => ⟨0x580028, 1, 0, 1, 1, 0, 0⟩
  | .timeStepLo => ⟨0x58002C, 1, 0, 1, 1, 0, 0⟩
  | .timeCmd => ⟨0x580030, 1, 0, 1, 1, 0, 0⟩
  | .timeTxtsStat => ⟨0x580100, 32, 0x10, 1, 1, 0, 0⟩
  | .timeTxtsHi => ⟨0x580104, 32, 0x10, 1, 1, 0, 0⟩
  | .timeTxtsLo => ⟨0x580108, 32, 0x10, 1, 1, 0, 0⟩
  | .timeTxtsPop => ⟨0x58010C, 32, 0x10, 1, 1, 0, 0⟩
  | .tsioCtrl => ⟨0x580400, 4, 0x20, 1, 1, 0, 0⟩
  | .tsioStartHi => ⟨0x580404, 4, 0x20, 1, 1, 0, 0⟩
  | .tsioStartLo => ⟨0x580408, 4, 0x20, 1, 1, 0, 0⟩
  | .tsioPeriod => ⟨0x58040C, 4, 0x20, 1, 1, 0, 0⟩
  | .tsioWidth => ⟨0x580410, 4, 0x20, 1, 1, 0, 0⟩
  | .tsioCapHi => ⟨0x580414, 4, 0x20, 1, 1, 0, 0⟩
  | .tsioCapLo => ⟨0x580418, 4, 0x20, 1, 1, 0, 0⟩
  | .hthWardenPc => ⟨0x800000, 16, 0x80000, 1, 1, 0, 0⟩
  | .hthThrCmd => ⟨0x800004, 16, 0x80000, 1, 1, 0, 0⟩
  | .hthWdog => ⟨0x800008, 16, 0x80000, 1, 1, 0, 0⟩
  | .hthStill => ⟨0x80000C, 16, 0x80000, 1, 1, 0, 0⟩
  | .hthRepq => ⟨0x800010, 16, 0x80000, 1, 1, 0, 0⟩
  | .hthHeld => ⟨0x800020, 16, 0x80000, 4, 1, 4, 0⟩
  | .hthSlotLo => ⟨0x800100, 16, 0x80000, 16, 1, 0x10, 0⟩
  | .hthSlotHi => ⟨0x800104, 16, 0x80000, 16, 1, 0x10, 0⟩
  | .hthSwift => ⟨0x800108, 16, 0x80000, 16, 1, 0x10, 0⟩
  | .hthTsr => ⟨0x810000, 16, 0x80000, 4096, 1, 4, 0⟩
  | .hthCacheCfg => ⟨0x820000, 16, 0x80000, 1, 1, 0, 0⟩
  | .hthCacheLock => ⟨0x820004, 16, 0x80000, 1, 1, 0, 0⟩
  | .hthRngBaseHi => ⟨0x820010, 16, 0x80000, 1, 1, 0, 0⟩
  | .hthRngBaseLo => ⟨0x820014, 16, 0x80000, 1, 1, 0, 0⟩
  | .hthRngLen => ⟨0x820018, 16, 0x80000, 1, 1, 0, 0⟩
  | .hthRngCmd => ⟨0x82001C, 16, 0x80000, 1, 1, 0, 0⟩
  | .hthRngStat => ⟨0x820020, 16, 0x80000, 1, 1, 0, 0⟩
  | .hthPreempt => ⟨0x830000, 16, 0x80000, 1, 1, 0, 0⟩
  | .hthKeySel => ⟨0x840000, 16, 0x80000, 1, 1, 0, 0⟩
  | .hthKey => ⟨0x840010, 16, 0x80000, 8, 1, 4, 0⟩
  | .hthKeyCmd => ⟨0x840030, 16, 0x80000, 1, 1, 0, 0⟩
  | .hthTpzKey => ⟨0x840040, 16, 0x80000, 10, 1, 4, 0⟩
  | .hthPatSel => ⟨0x840080, 16, 0x80000, 1, 1, 0, 0⟩
  | .hthPatCfg => ⟨0x840084, 16, 0x80000, 1, 1, 0, 0⟩
  | .hthPatData => ⟨0x840090, 16, 0x80000, 8, 1, 4, 0⟩
  | .hthPatCmd => ⟨0x8400B0, 16, 0x80000, 1, 1, 0, 0⟩
  | .hthReset => ⟨0x850000, 16, 0x80000, 1, 1, 0, 0⟩

/-- The fields of copy (i, j) of each register (the chapters' register tables). -/
def RegKind.fields (k : RegKind) (i j : Nat) : List Field :=
  match k with
  -- TOP.DEVICE_ID (R2): PART, FAMILY, MAJOR, MINOR
  | .topDeviceId => [fd 31 20 Acc.ro 0x256, fd 19 16 Acc.ro 1, fd 15 12 Acc.ro 2, fd 11 8 Acc.ro 0]
  -- TOP.SETUP_LOCK (R50): LOCK
  | .topSetupLock => [fd 19 0 Acc.w1s 0]
  -- TOP.RESET_CAUSE (R386): CAUSE
  | .topResetCause => [fd 4 0 Acc.w1c 0]
  -- TOP.RESET_CMD (R386): KEY, DEVICE
  | .topResetCmd => [fd 31 16 Acc.rw 0, fd 0 0 Acc.w1p 0]
  -- TOP.RESET_CTRL (R388): KEEP_MEM
  | .topResetCtrl => [fd 0 0 Acc.rw 0]
  -- TOP.BOOT_STATUS (R396): STATE, SOURCE, FALLBACK, AUTH, ERR
  | .topBootStatus => [fd 31 28 Acc.ro 1, fd 25 24 Acc.ro 0, fd 20 20 Acc.ro 0, fd 19 19 Acc.ro 0, fd 3 0 Acc.ro 0]
  -- TOP.BOOT_TIME (R391): BOOT_TIME
  | .topBootTime => [fd 31 0 Acc.ro 0]
  -- TOP.BOOT_SRC_HI (R391): ADDR
  | .topBootSrcHi => [fd 31 0 Acc.rw 0]
  -- TOP.BOOT_SRC_LO (R391): ADDR
  | .topBootSrcLo => [fd 31 0 Acc.rw 0]
  -- TOP.BOOT_CMD (R396): GO, SRC
  | .topBootCmd => [fd 31 31 Acc.w1p 0, fd 1 0 Acc.rw 0]
  -- TOP.BOOT_DATA (R391): BOOT_DATA
  | .topBootData => [fd 31 0 Acc.w1p 0]
  -- TOP.FUSE (R412): AUTH_EN, KEY_SET
  | .topFuse => [fd 31 31 Acc.ro 0, fd 30 30 Acc.ro 0]
  -- TOP.TEMP (R427): ALARM, TEMP
  | .topTemp => [fd 31 31 Acc.w1c 0, fd 10 0 Acc.ro 0]
  -- TOP.TEMP_ALARM (R427): EN, TH
  | .topTempAlarm => [fd 31 31 Acc.rw 0, fd 10 0 Acc.rw 0x1CC]
  -- CLK.STATUS (R397): LANE_LOCK, REF_OK, ROOT_LOCK
  | .clkStatus => [fd 2 2 Acc.ro 0, fd 1 1 Acc.ro 0, fd 0 0 Acc.ro 0]
  -- CLK.AUTOGATE (R397): GROUPS
  | .clkAutogate => [fd 7 0 Acc.rw 0xFF]
  -- CLK.GATED[n] (R397): GATED
  | .clkGated => [fd 31 0 Acc.ro 0]
  -- PWR.CMD (R398): GO, CLEAR, FORCE, OP, DOMAIN
  | .pwrCmd => [fd 31 31 Acc.w1p 0, fd 9 9 Acc.rw 0, fd 8 8 Acc.rw 0, fd 7 7 Acc.rw 0, fd 5 0 Acc.rw 0]
  -- PWR.DRAIN_TIMEOUT (R399): US
  | .pwrDrainTimeout => [fd 15 0 Acc.rw 100]
  -- PWR.STATUS (R398): QUEUED
  | .pwrStatus => [fd 5 0 Acc.ro 0]
  -- PWR.DOM[d] (R398): STATE, RESULT
  | .pwrDom => [fd 31 30 Acc.ro (if i < 2 then 2 else 0), fd 26 24 Acc.ro 0]
  -- ERR.LOG_CFG (R405): SIZE, EN
  | .errLogCfg => [fd 8 4 Acc.lck 0, fd 0 0 Acc.rw 0]
  -- ERR.LOG_BASE_HI (R405): ADDR_HI
  | .errLogBaseHi => [fd 3 0 Acc.lck 0]
  -- ERR.LOG_BASE_LO (R405): ADDR_LO
  | .errLogBaseLo => [fd 31 4 Acc.lck 0]
  -- ERR.LOG_PROD (R405): INDEX
  | .errLogProd => [fd 15 0 Acc.ro 0]
  -- ERR.LOG_CONS (R405): INDEX
  | .errLogCons => [fd 15 0 Acc.rw 0]
  -- ERR.FAULT (R406): ASSERTED, FORCE, BOOT, HOST_REPORT, FATAL
  | .errFault => [fd 31 31 Acc.ro 0, fd 3 3 Acc.rw 0, fd 2 2 Acc.w1c 0, fd 1 1 Acc.w1c 0, fd 0 0 Acc.w1c 0]
  -- ERR.IRQ_EN (R406): IRQ_SEV, EN
  | .errIrqEn => [fd 5 4 Acc.rw 0, fd 3 0 Acc.rw 0]
  -- ERR.IRQ_PEND (R406): DBG, SAT, LOST, RECORD
  | .errIrqPend => [fd 3 3 Acc.w1c 0, fd 2 2 Acc.w1c 0, fd 1 1 Acc.w1c 0, fd 0 0 Acc.w1c 0]
  -- ERR.SAT (R407): SAT
  | .errSat => [fd 19 0 Acc.w1c 0]
  -- ERR.CLR_ERR (R407): CLR
  | .errClrErr => [fd 19 0 Acc.w1p 0]
  -- ERR.FIRST_FATAL[n] (R406): WORDS
  | .errFirstFatal => [fd 31 0 Acc.ro 0]
  -- DBG.CTRL (R409): JTAG_EN, ATTACH
  | .dbgCtrl => [fd 31 31 Acc.lck 1, fd 15 0 Acc.rw 0]
  -- DBG.THR_CMD (R410): HEARTH, ACTION, THREAD
  | .dbgThrCmd => [fd 19 16 Acc.rw 0, fd 10 8 Acc.rw 0, fd 6 0 Acc.rw 0]
  -- DBG.GROUP (R410): STOP, RUN, MASK
  | .dbgGroup => [fd 31 31 Acc.w1p 0, fd 30 30 Acc.w1p 0, fd 15 0 Acc.rw 0]
  -- DBG.STOPPED (R410): STOPPED
  | .dbgStopped => [fd 15 0 Acc.w1c 0]
  -- DBG.BP[h][k] (R411): EN, ALL, THREAD, PC
  | .dbgBp => [fd 31 31 Acc.rw 0, fd 30 30 Acc.rw 0, fd 22 16 Acc.rw 0, fd 14 0 Acc.rw 0]
  -- DBG.WP[h][k] (R411): EN, LOAD, STORE, ALL, THREAD, CTX
  | .dbgWp => [fd 31 31 Acc.rw 0, fd 30 30 Acc.rw 0, fd 29 29 Acc.rw 0, fd 28 28 Acc.rw 0, fd 22 16 Acc.rw 0,
      fd 12 8 Acc.rw 0]
  -- DBG.WP_HI[h][k] (R411): ADDR_HI
  | .dbgWpHi => [fd 3 0 Acc.rw 0]
  -- DBG.WP_LO[h][k] (R411): ADDR_LO
  | .dbgWpLo => [fd 31 0 Acc.rw 0]
  -- DBG.WP_MASK[h][k] (R411): MASK
  | .dbgWpMask => [fd 31 0 Acc.rw 0xFFFFFFFF]
  -- DBG.OTP_CMD (R412): PROGRAM, BUSY, ERR, WORD
  | .dbgOtpCmd => [fd 31 31 Acc.w1p 0, fd 30 30 Acc.ro 0, fd 29 29 Acc.w1c 0, fd 4 0 Acc.rw 0]
  -- DBG.OTP_DATA (R412): DATA
  | .dbgOtpData => [fd 31 0 Acc.rw 0]
  -- PRT.MODE[p] (R157): ANEG, FEC, SPEED, IF
  | .prtMode => [fd 12 12 Acc.rw 1, fd 9 8 Acc.rw 0, fd 6 4 Acc.rw 0, fd 2 0 Acc.lck 0]
  -- PRT.RXCTRL[p] (R159): PREEMPT_EN, PFC_EN, PAUSE_EN, MAXLEN
  | .prtRxctrl => [fd 18 18 Acc.rw 0, fd 17 17 Acc.rw 0, fd 16 16 Acc.rw 0, fd 13 0 Acc.rw 1554]
  -- PRT.STATUS[p] (R165): LINK_CHG, PCS_LOCK, SPEED, REMOTE_FAULT, LOCAL_FAULT, LINK
  | .prtStatus => [fd 8 8 Acc.w1c 0, fd 7 7 Acc.ro 0, fd 6 4 Acc.ro 0, fd 2 2 Acc.ro 0, fd 1 1 Acc.ro 0,
      fd 0 0 Acc.ro 0]
  -- PRT.TS_ADJ[p] (R162): TX_ADJ, RX_ADJ
  | .prtTsAdj => [fd 31 16 Acc.rw 0, fd 15 0 Acc.rw 0]
  -- PRT.FC[p] (R163): QUANTA, PFC_TX
  | .prtFc => [fd 31 16 Acc.rw 0xFFFF, fd 7 0 Acc.rw 0]
  -- MSEC.PORT_CTRL[p] (R168): BYP_EN, REPLAY, MODE
  | .msecPortCtrl => [fd 11 8 Acc.rw 3, fd 2 2 Acc.rw 1, fd 1 0 Acc.lck 0]
  -- MSEC.PORT_BYP01[p] (R168): ETYPE1, ETYPE0
  | .msecByp01 => [fd 31 16 Acc.rw 0x88F7, fd 15 0 Acc.rw 0x888E]
  -- MSEC.PORT_BYP23[p] (R168): ETYPE3, ETYPE2
  | .msecByp23 => [fd 31 16 Acc.rw 0, fd 15 0 Acc.rw 0]
  -- MSEC.PORT_TXMAP[p] (R171): TXMAP
  | .msecTxmap => [fd 31 0 Acc.rw 0]
  -- MSEC.REPLAY_WIN[p] (R167): WINDOW
  | .msecReplayWin => [fd 31 0 Acc.rw 0]
  -- MSEC.SEL (R173): PORT, DIR, SC, AN
  | .msecSel => [fd 12 8 Acc.rw 0, fd 7 7 Acc.rw 0, fd 6 2 Acc.rw 0, fd 1 0 Acc.rw 0]
  -- MSEC.SCI_HI (R173): SCI
  | .msecSciHi => [fd 31 0 Acc.rw 0]
  -- MSEC.SCI_LO (R173): SCI
  | .msecSciLo => [fd 31 0 Acc.rw 0]
  -- MSEC.SC_CTRL (R173): CONF_OFS, E, INCL_SCI, ENC_AN, EN
  | .msecScCtrl => [fd 6 5 Acc.rw 0, fd 4 4 Acc.rw 0, fd 3 3 Acc.rw 0, fd 2 1 Acc.rw 0, fd 0 0 Acc.rw 0]
  -- MSEC.SA_CTRL (R173): SUITE, EN
  | .msecSaCtrl => [fd 2 1 Acc.rw 0, fd 0 0 Acc.rw 0]
  -- MSEC.SA_KEY[n] (R173): KEY
  | .msecSaKey => [fd 31 0 Acc.rw 0]
  -- MSEC.SA_SALT[n] (R173): SALT
  | .msecSaSalt => [fd 31 0 Acc.rw 0]
  -- MSEC.SA_SSCI (R173): SSCI
  | .msecSaSsci => [fd 31 0 Acc.rw 0]
  -- MSEC.SA_PN_HI (R173): PN
  | .msecSaPnHi => [fd 31 0 Acc.rw 0]
  -- MSEC.SA_PN_LO (R173): PN
  | .msecSaPnLo => [fd 31 0 Acc.rw 0]
  -- MSEC.CMD (R173): BUSY, READ, COMMIT_SA, COMMIT_SC
  | .msecCmd => [fd 8 8 Acc.ro 0, fd 2 2 Acc.w1p 0, fd 1 1 Acc.w1p 0, fd 0 0 Acc.w1p 0]
  -- MSEC.PN_THRESH_HI (R172): THRESH
  | .msecPnThreshHi => [fd 31 0 Acc.rw 0]
  -- MSEC.PN_THRESH_LO (R172): THRESH
  | .msecPnThreshLo => [fd 31 0 Acc.rw 0xC0000000]
  -- KND.CTRL[m] (R181): BUDGET
  | .kndCtrl => [fd 14 8 Acc.lck 96]
  -- KND.PROG_ADDR[m] (R180): AUTO_INC, ADDR
  | .kndProgAddr => [fd 31 31 Acc.rw 0, fd 11 0 Acc.rw 0]
  -- KND.PROG_HI[m] (R180): BITS_HI
  | .kndProgHi => [fd 3 0 Acc.rw 0]
  -- KND.PROG_LO[m] (R180): BITS_LO
  | .kndProgLo => [fd 31 0 Acc.rw 0]
  -- KND.ENTRY[m][s] (R176): VALID, ADDR
  | .kndEntry => [fd 31 31 Acc.rw 0, fd 11 0 Acc.rw 0]
  -- MIL.CTRL[m] (R196): UNDEC_RING, UNDEC, CLASS, PRUNE_SRC, EN
  | .milCtrl => [fd 25 16 Acc.rw 0, fd 9 8 Acc.rw 0, fd 6 4 Acc.rw 0, fd 1 1 Acc.rw 1, fd 0 0 Acc.lck 1]
  -- MIL.MALF[m] (R197): RING, PORT, CLASS, ACTION
  | .milMalf => [fd 25 16 Acc.rw 0, fd 12 8 Acc.rw 0, fd 6 4 Acc.rw 0, fd 1 0 Acc.rw 0]
  -- MIL.MALF_Q[m] (R197): QUEUE
  | .milMalfQ => [fd 13 0 Acc.rw 0]
  -- MIL.SRC0[m] (R185): MASK
  | .milSrc0 => [fd 31 0 Acc.rw ([0x0300003F, 0x0C000FC0, 0x3003F000, 0xC0FC0000].getD i 0)]
  -- MIL.SRC1[m] (R185): MASK
  | .milSrc1 => [fd 31 0 Acc.rw ([0x000000FF, 0x0000FF00, 0x00FF0000, 0xFF000000].getD i 0)]
  -- MIL.SRC2-3[m][n] (R185): MASK
  | .milSrc23 => [fd 31 0 Acc.ro 0]
  -- MIL.BANK[m] (R200): SEL
  | .milBank => [fd 7 0 Acc.rw 0]
  -- MIL.QCI_CTRL[m] (R203): IPV_Q, YMARK, PCP_FV
  | .milQciCtrl => [fd 9 9 Acc.rw 0, fd 8 8 Acc.rw 0, fd 5 0 Acc.rw 0]
  -- MIL.STONE[s].CFG[m] (R189): EN, KIND, AWIDTH, KEY_LEN
  | .milStoneCfg => [fd 31 31 Acc.lck 0, fd 29 28 Acc.lck 0, fd 27 27 Acc.lck 0, fd 20 16 Acc.lck 1]
  -- MIL.STONE[s].SEL[m][s*5+n] (R189): SEL3, SEL2, SEL1, SEL0
  | .milStoneSel => [fd 31 24 Acc.lck 0, fd 23 16 Acc.lck 0, fd 15 8 Acc.lck 0, fd 7 0 Acc.lck 0]
  -- MIL.STONE[s].REGION[m][s*2+b] (R190): BASE, SIZE
  | .milStoneRegion => [fd 29 16 Acc.lck 0, fd 13 0 Acc.lck 4]
  -- MIL.STONE[s].MASK[m][s*10+n] (R189): MASKHI, MASKLO
  | .milStoneMask => [fd 31 16 Acc.lck 0xFFFF, fd 15 0 Acc.lck 0xFFFF]
  -- MIL.UPD_CMD[m] (R198): STONE, CLR, BANK, OP
  | .milUpdCmd => [fd 10 8 Acc.rw 0, fd 7 7 Acc.rw 0, fd 4 4 Acc.rw 0, fd 3 0 Acc.rw 0]
  -- MIL.UPD_IDX[m] (R198): PLEN, CKIND, SUB, INDEX
  | .milUpdIdx => [fd 31 24 Acc.rw 0, fd 23 22 Acc.rw 0, fd 21 16 Acc.rw 0, fd 15 0 Acc.rw 0]
  -- MIL.UPD_STAT[m] (R199): BUSY, MOVES, STATUS
  | .milUpdStat => [fd 31 31 Acc.ro 0, fd 12 8 Acc.ro 0, fd 3 0 Acc.ro 0]
  -- MIL.UPD_KEY[m][n] (R198): KEY
  | .milUpdKey => [fd 31 0 Acc.rw 0]
  -- MIL.UPD_MASK[m][n] (R198): MASK
  | .milUpdMask => [fd 31 0 Acc.rw 0]
  -- MIL.UPD_DATA[m][n] (R198): DATA
  | .milUpdData => [fd 31 0 Acc.rw 0]
  -- MIL.LEARN[m] (R207): EN, STONE, ACT_SEL, ACT_EN, LIMIT, FILT_AGE
  | .milLearn => [fd 31 31 Acc.rw 0, fd 30 28 Acc.lck 0, fd 26 26 Acc.rw 0, fd 25 25 Acc.rw 0,
      fd 23 16 Acc.rw 0, fd 15 8 Acc.rw 64]
  -- MIL.LEARN_SEL[m] (R207): SEL3, SEL2, SEL1, SEL0
  | .milLearnSel => [fd 31 24 Acc.lck 0, fd 23 16 Acc.lck 0, fd 15 8 Acc.lck 0, fd 7 0 Acc.lck 0]
  -- MIL.LEARN_PORTS[m] (R208): MASK
  | .milLearnPorts => [fd 31 0 Acc.rw 0xFFFFFFFF]
  -- MIL.HASH_SEED[m] (R209): SEED
  | .milHashSeed => [fd 31 0 Acc.lck (0x5EED0000 + i)]
  -- MIL.GOSSIP_CFG[m] (R214): SIZE, EN
  | .milGossipCfg => [fd 8 4 Acc.lck 0, fd 0 0 Acc.rw 0]
  -- MIL.GOSSIP_BASE_HI[m] (R214): ADDR_HI
  | .milGossipBaseHi => [fd 3 0 Acc.lck 0]
  -- MIL.GOSSIP_BASE_LO[m] (R214): ADDR_LO
  | .milGossipBaseLo => [fd 31 4 Acc.lck 0]
  -- MIL.GOSSIP_PROD[m] (R214): INDEX
  | .milGossipProd => [fd 15 0 Acc.ro 0]
  -- MIL.GOSSIP_CONS[m] (R214): INDEX
  | .milGossipCons => [fd 15 0 Acc.rw 0]
  -- MIL.ACT_BASE[m][n] (R222): ADDR
  | .milActBase => [fd 24 6 Acc.lck 0]
  -- MIL.FAILQ[i].KEY01[m] (R220): KEY01
  | .milFailqKey01 => [fd 31 0 Acc.ro 0]
  -- MIL.FAILQ[i].KEY23[m] (R220): KEY23
  | .milFailqKey23 => [fd 31 0 Acc.ro 0]
  -- MIL.FAILQ[i].COUNT[m] (R221): COUNT
  | .milFailqCount => [fd 31 0 Acc.ro 0]
  -- MIL.FAILQ[i].VALID[m] (R220): VALID
  | .milFailqValid => [fd 31 31 Acc.w1c 0]
  -- DSP.CTRL (R139): STEAL_WAIT, AFF_WAIT, STEAL_EN, AFF_EN, EN
  | .dspCtrl => [fd 23 16 Acc.rw 0x20, fd 15 8 Acc.rw 0x20, fd 2 2 Acc.rw 1, fd 1 1 Acc.rw 1, fd 0 0 Acc.lck 1]
  -- DSP.LIMITS (R138): OFFER_TIMEOUT, POST_LIMIT
  | .dspLimits => [fd 31 16 Acc.rw 0x1000, fd 13 0 Acc.lck 0x400]
  -- DSP.WIN_BASE (R134): BASE
  | .dspWinBase => [fd 24 22 Acc.lck 7]
  -- DSP.HSET[m] (R142): MASK
  | .dspHset => [fd 15 0 Acc.lck (0xF <<< (4 * i))]
  -- DSP.TALLY_CFG (R155): CLASSES, RATE, SIZE, EN
  | .dspTallyCfg => [fd 23 16 Acc.rw 0xFF, fd 15 12 Acc.rw 0, fd 8 4 Acc.lck 0, fd 0 0 Acc.rw 0]
  -- DSP.TALLY_FILT (R156): HEARTHS, EVENTS
  | .dspTallyFilt => [fd 31 16 Acc.rw 0xFFFF, fd 15 0 Acc.rw 0x3FF]
  -- DSP.TALLY_BASE_HI (R155): ADDR_HI
  | .dspTallyBaseHi => [fd 3 0 Acc.lck 0]
  -- DSP.TALLY_BASE_LO (R155): ADDR_LO
  | .dspTallyBaseLo => [fd 31 3 Acc.lck 0]
  -- DSP.TALLY_PROD (R155): INDEX
  | .dspTallyProd => [fd 15 0 Acc.ro 0]
  -- DSP.TALLY_CONS (R155): INDEX
  | .dspTallyCons => [fd 15 0 Acc.rw 0]
  -- DSP.FLOW_SEL (R141): FLOW
  | .dspFlowSel => [fd 15 0 Acc.rw 0]
  -- DSP.FLOW_STAT (R141): VALID, ENGINE
  | .dspFlowStat => [fd 31 31 Acc.ro 0, fd 7 0 Acc.ro 0]
  -- DSP.FLOW_CMD (R141): BUSY, HEARTH, CLR_HEARTH, CLR_ALL, INVAL
  | .dspFlowCmd => [fd 31 31 Acc.ro 0, fd 11 8 Acc.rw 0, fd 2 2 Acc.w1p 0, fd 1 1 Acc.w1p 0, fd 0 0 Acc.w1p 0]
  -- DSP.HEARTH[h] (R144): READY, OPEN, DEFER_LIST
  | .dspHearth => [fd 29 16 Acc.ro 0, fd 15 8 Acc.ro 0, fd 5 0 Acc.rw (4 * i)]
  -- DSP.DLIST[d] (R143): TICK
  | .dspDlist => [fd 16 0 Acc.rw 100]
  -- DSP.EVT[n] (R146): EN, CLASS, HSET
  | .dspEvt => [fd 31 31 Acc.rw 0, fd 18 16 Acc.rw 0, fd 15 0 Acc.rw 1]
  -- REL.CTRL (R151): DL_EN, EN
  | .relCtrl => [fd 1 1 Acc.lck 1, fd 0 0 Acc.lck 1]
  -- REL.STATUS (R154): DL_FREE, TKT_FREE
  | .relStatus => [fd 29 16 Acc.ro 8192, fd 13 0 Acc.ro 8192]
  -- REL.DOM_SEL (R151): DOMAIN
  | .relDomSel => [fd 11 0 Acc.rw 0]
  -- REL.DOM_STAT (R151): HEAD_STATE, PENDING, HEAD
  | .relDomStat => [fd 31 30 Acc.ro 0, fd 29 16 Acc.ro 0, fd 15 0 Acc.ro 0]
  -- CHM.CTRL (R226): MIRROR_CLASS, EN
  | .chmCtrl => [fd 10 8 Acc.rw 0, fd 0 0 Acc.lck 1]
  -- CHM.GCL_ADDR (R235): AUTO_INC, PORT, OPER, INDEX
  | .chmGclAddr => [fd 31 31 Acc.rw 0, fd 20 16 Acc.rw 0, fd 12 12 Acc.rw 0, fd 9 0 Acc.rw 0]
  -- CHM.GCL_DATA_HI (R235): HI
  | .chmGclDataHi => [fd 31 0 Acc.rw 0]
  -- CHM.GCL_DATA_LO (R235): LO
  | .chmGclDataLo => [fd 31 0 Acc.rw 0]
  -- CHM.PORT[p].PCTRL (R243): LINKDOWN_DISCARD, SHAPE_OVH
  | .chmPctrl => [fd 31 31 Acc.rw 1, fd 15 8 Acc.rw 24]
  -- CHM.PORT[p].GATE_CTRL (R237): GATE_EN, CONFIG_CHANGE, CANCEL, PENDING, OPER_LEN, ADMIN_LEN
  | .chmGateCtrl => [fd 31 31 Acc.rw 0, fd 30 30 Acc.w1p 0, fd 29 29 Acc.w1p 0, fd 28 28 Acc.ro 0,
      fd 26 16 Acc.ro 0, fd 10 0 Acc.rw 1]
  -- CHM.PORT[p].ADMIN_CYCLE (R237): CYCLE
  | .chmAdminCycle => [fd 31 0 Acc.rw 0xF4240]
  -- CHM.PORT[p].ADMIN_BASE_HI (R237): BASE
  | .chmAdminBaseHi => [fd 31 0 Acc.rw 0]
  -- CHM.PORT[p].ADMIN_BASE_LO (R237): BASE
  | .chmAdminBaseLo => [fd 31 0 Acc.rw 0]
  -- CHM.PORT[p].ADMIN_CTE (R237): CTE
  | .chmAdminCte => [fd 31 0 Acc.rw 0]
  -- CHM.PORT[p].OPER_CYCLE (R237): CYCLE
  | .chmOperCycle => [fd 31 0 Acc.ro 0]
  -- CHM.PORT[p].OPER_BASE_HI (R237): BASE
  | .chmOperBaseHi => [fd 31 0 Acc.ro 0]
  -- CHM.PORT[p].OPER_BASE_LO (R237): BASE
  | .chmOperBaseLo => [fd 31 0 Acc.ro 0]
  -- CHM.PORT[p].CHG_TIME_HI (R237): TIME
  | .chmChgTimeHi => [fd 31 0 Acc.ro 0]
  -- CHM.PORT[p].CHG_TIME_LO (R237): TIME
  | .chmChgTimeLo => [fd 31 0 Acc.ro 0]
  -- CHM.PORT[p].PREEMPT (R240): EN, VERIFY_DIS, STATUS, ADD_FRAG, EXPRESS, VERIFY_TIME
  | .chmPreempt => [fd 31 31 Acc.rw 0, fd 30 30 Acc.rw 0, fd 29 27 Acc.ro 4, fd 25 24 Acc.rw 0,
      fd 23 16 Acc.rw 0xFF, fd 15 8 Acc.rw 10]
  -- CHM.PORT[p].HOLD_ADV (R241): RELEASE_ADVANCE, HOLD_ADVANCE
  | .chmHoldAdv => [fd 31 16 Acc.rw 0, fd 15 0 Acc.rw 0]
  -- CHM.PORT[p].PTP (R245): TAG_OFS, TS_OFS
  | .chmPtp => [fd 24 16 Acc.rw 44, fd 8 0 Acc.rw 48]
  -- CHM.CBS[p][c] (R233): EN, IDLE_SLOPE
  | .chmCbs => [fd 31 31 Acc.rw 0, fd 21 0 Acc.rw 0]
  -- CHM.PCQ[p][c] (R226): QUEUE
  | .chmPcq => [fd 13 0 Acc.rw (512 * i + j)]
  -- CHM.GEN[i] (R242): EN, RESET, SEQ
  | .chmGen => [fd 31 31 Acc.rw 0, fd 30 30 Acc.w1p 0, fd 15 0 Acc.rw 0]
  -- CHM.Q[q].QMAP (R225): EN, PORT, CLASS, TS, GEN_EN, GEN
  | .chmQmap => [fd 31 31 Acc.rw 1, fd 28 24 Acc.rw (i / 512), fd 22 20 Acc.rw (i % 8), fd 19 18 Acc.rw 0,
      fd 17 17 Acc.rw 0, fd 8 0 Acc.rw 0]
  -- CHM.Q[q].RATE (R232): RATE
  | .chmQrate => [fd 21 0 Acc.rw 0]
  -- CHM.Q[q].BURST (R231): QUANTUM, BURST
  | .chmQburst => [fd 31 24 Acc.rw 24, fd 23 0 Acc.rw 0x600]
  -- CHM.Q[q].LIMIT (R227): DEPTH, LIMIT
  | .chmQlimit => [fd 31 16 Acc.ro 0, fd 15 0 Acc.rw 0]
  -- BPM.STATE_BASE (R254): BASE
  | .bpmStateBase => [fd 24 21 Acc.lck 0xD]
  -- BPM.POOL[n].CFG (R253): EN, PAD
  | .bpmPoolCfg => [fd 31 31 Acc.lck 0, fd 7 0 Acc.lck 0]
  -- BPM.POOL[n].BASE_HI (R253): ADDR_HI
  | .bpmPoolBaseHi => [fd 3 0 Acc.lck 0]
  -- BPM.POOL[n].BASE_LO (R253): ADDR_LO
  | .bpmPoolBaseLo => [fd 31 6 Acc.lck 0]
  -- BPM.POOL[n].COUNT (R253): COUNT
  | .bpmPoolCount => [fd 16 0 Acc.lck 0]
  -- BPM.POOL[n].STAT (R254): READY, FREE
  | .bpmPoolStat => [fd 31 31 Acc.ro 0, fd 16 0 Acc.ro 0]
  -- BPM.POOL[n].RESERVE (R259): RESERVE
  | .bpmPoolReserve => [fd 16 0 Acc.rw 0]
  -- BPM.LL[p].CFG (R264): PRIO, DEFPRIO
  | .bpmLlCfg => [fd 15 8 Acc.rw 0, fd 2 0 Acc.rw 0]
  -- BPM.LL[p].THRESH (R265): XOFF, XON
  | .bpmLlThresh => [fd 31 16 Acc.rw 0xFFFF, fd 15 0 Acc.rw 0xFFFF]
  -- BPM.LL[p].USED (R264): USED
  | .bpmLlUsed => [fd 25 0 Acc.ro 0]
  -- BPM.LL[p].STAT (R265): XOFF
  | .bpmLlStat => [fd 31 31 Acc.ro 0]
  -- BLW.CTRL (R314): EN
  | .blwCtrl => [fd 0 0 Acc.lck 1]
  -- BLW.CH[n].CFG (R307): SIZE, SHARE, STAGE, PRIO, LINK, HALT_ON_ERR, EN
  | .blwCfg => [fd 31 28 Acc.rw 4, fd 23 16 Acc.rw 0xFF, fd 12 8 Acc.rw 8, fd 5 4 Acc.rw 0, fd 3 3 Acc.rw 0,
      fd 1 1 Acc.rw 1, fd 0 0 Acc.rw 0]
  -- BLW.CH[n].RING_HI (R307): ADDR_HI
  | .blwRingHi => [fd 3 0 Acc.rw 0]
  -- BLW.CH[n].RING_LO (R307): ADDR_LO
  | .blwRingLo => [fd 31 5 Acc.rw 0]
  -- BLW.CH[n].HEAD (R307): HEAD
  | .blwHead => [fd 15 0 Acc.rw 0]
  -- BLW.CH[n].TAIL (R307): TAIL
  | .blwTail => [fd 15 0 Acc.rw 0]
  -- BLW.CH[n].CMD (R319): RESET, ABORT, RESUME, PAUSE
  | .blwCmd => [fd 3 3 Acc.w1p 0, fd 2 2 Acc.w1p 0, fd 1 1 Acc.w1p 0, fd 0 0 Acc.w1p 0]
  -- BLW.CH[n].STAT (R317): STATE, PCAUSE, FAULT_DST, SUBCAUSE, LAST_STATUS
  | .blwStat => [fd 31 29 Acc.ro 0, fd 28 27 Acc.ro 0, fd 26 26 Acc.ro 0, fd 11 8 Acc.ro 0, fd 7 0 Acc.ro 0]
  -- BLW.CH[n].POS_ELEM (R317): POS_ELEM
  | .blwPosElem => [fd 15 0 Acc.ro 0]
  -- BLW.CH[n].POS_OFS (R317): POS_OFS
  | .blwPosOfs => [fd 31 0 Acc.ro 0]
  -- BLW.CH[n].FADDR_HI (R317): CTX, ADDR_HI
  | .blwFaddrHi => [fd 12 8 Acc.ro 0, fd 3 0 Acc.ro 0]
  -- BLW.CH[n].FADDR_LO (R317): ADDR_LO
  | .blwFaddrLo => [fd 31 0 Acc.ro 0]
  -- LCK.CTRL (R329): INHERIT_EN
  | .lckCtrl => [fd 1 1 Acc.lck 1]
  -- LCK.TMO[k] (R330): US
  | .lckTmo => [fd 19 0 Acc.rw (if i = 0 then 500 else 0)]
  -- LCK.STATE[n] (R332): HELD, ABANDONED, PREV, WAITERS, OWNER
  | .lckState => [fd 31 31 Acc.ro 0, fd 30 30 Acc.ro 0, fd 26 16 Acc.ro 0, fd 15 11 Acc.ro 0, fd 10 0 Acc.ro 0]
  -- LCK.CFG[n] (R330): TMO_SEL
  | .lckCfg => [fd 2 0 Acc.rw 0]
  -- MMU.TLBI_CMD (R297): GO, CTX, EVT, OP
  | .mmuTlbiCmd => [fd 31 31 Acc.w1p 0, fd 12 8 Acc.rw 0, fd 7 7 Acc.rw 0, fd 1 0 Acc.rw 0]
  -- MMU.TLBI_TGT (R297): BLW, HEARTHS
  | .mmuTlbiTgt => [fd 16 16 Acc.rw 0, fd 15 0 Acc.rw 0]
  -- MMU.TLBI_VA_HI (R297): VA_HI
  | .mmuTlbiVaHi => [fd 3 0 Acc.rw 0]
  -- MMU.TLBI_VA_LO (R297): VA_LO
  | .mmuTlbiVaLo => [fd 31 16 Acc.rw 0]
  -- MMU.TLBI_STAT (R298): BUSY, DONE
  | .mmuTlbiStat => [fd 31 31 Acc.ro 0, fd 30 30 Acc.w1c 0]
  -- MMU.HSEL[h] (R290): CTX
  | .mmuHsel => [fd 4 0 Acc.lck (i)]
  -- MMU.CTX[n].CFG (R290): MODE
  | .mmuCtxCfg => [fd 1 0 Acc.lck 0]
  -- MMU.CTX[n].ROOT_HI (R290): ADDR_HI
  | .mmuCtxRootHi => [fd 3 0 Acc.lck 0]
  -- MMU.CTX[n].ROOT_LO (R290): ADDR_LO
  | .mmuCtxRootLo => [fd 31 13 Acc.lck 0]
  -- MEM.CTRL (R288): TRAIN_MODE
  | .memCtrl => [fd 1 0 Acc.lck 0]
  -- MEM.MC[c].CFG (R285): EN, BASE, INTLV, RANKS, SIZE
  | .memMcCfg => [fd 31 31 Acc.lck 0, fd 23 16 Acc.lck 0, fd 9 8 Acc.lck 0, fd 4 4 Acc.lck 0, fd 3 0 Acc.lck 0]
  -- MEM.MC[c].STATUS (R288): READY, TRAIN_FAIL, RESTORED
  | .memMcStatus => [fd 31 31 Acc.ro 0, fd 30 30 Acc.ro 0, fd 29 29 Acc.ro 0]
  -- MEM.MC[c].TRAIN (R288): PERIOD
  | .memMcTrain => [fd 15 0 Acc.rw 100]
  -- MEM.REGION[r].CTRL (R286): EN, KIND, INIT, INIT_DONE
  | .memRegCtrl => [fd 31 31 Acc.lck 0, fd 30 30 Acc.lck 0, fd 29 29 Acc.w1p 0, fd 28 28 Acc.ro 0]
  -- MEM.REGION[r].BASE (R286): BASE
  | .memRegBase => [fd 9 0 Acc.lck 0]
  -- MEM.REGION[r].SIZE (R286): SIZE
  | .memRegSize => [fd 9 0 Acc.lck 0]
  -- MEM.REGION[r].SHADOW (R286): SHADOW
  | .memRegShadow => [fd 12 0 Acc.lck 0]
  -- LNK.CTRL (R343): EN, RETRAIN, MAXW, EVT_RING, EVT_EN, ERR_LIMIT
  | .lnkCtrl => [fd 31 31 Acc.lck 0, fd 30 30 Acc.w1p 0, fd 29 28 Acc.lck 0, fd 25 16 Acc.rw 0,
      fd 15 15 Acc.rw 0, fd 7 0 Acc.rw 16]
  -- LNK.STATUS (R343): UP, CHG, WIDTH, STATE, LANES_OK
  | .lnkStatus => [fd 31 31 Acc.ro 0, fd 30 30 Acc.w1c 0, fd 29 28 Acc.ro 0, fd 27 24 Acc.ro 0, fd 19 16 Acc.ro 0]
  -- LNK.TIMERS (R352): REPLAY_TMO, CPL_TMO
  | .lnkTimers => [fd 31 24 Acc.rw 40, fd 15 0 Acc.rw 50]
  -- LNK.MSI_SEND (R369): SEND, VEC
  | .lnkMsiSend => [fd 31 31 Acc.w1p 0, fd 7 0 Acc.rw 0]
  -- LNK.HWIN[w].CTRL (R357): EN
  | .lnkHwinCtrl => [fd 31 31 Acc.rw 0]
  -- LNK.HWIN[w].BASE_HI (R357): BASE
  | .lnkHwinBaseHi => [fd 31 0 Acc.rw 0]
  -- LNK.HWIN[w].BASE_LO (R357): BASE
  | .lnkHwinBaseLo => [fd 31 16 Acc.rw 0]
  -- LNK.VPORT[v] (R363): EN, MILL
  | .lnkVport => [fd 31 31 Acc.rw 0, fd 1 0 Acc.rw 0]
  -- LNK.VEC[v] (R368): TIME, COUNT
  | .lnkVec => [fd 25 16 Acc.rw 0, fd 7 0 Acc.rw 1]
  -- LNK.RING[r].CFG (R359): EN, KIND, SIZE, IRQ_ALL, CHAN, VEC
  | .lnkRingCfg => [fd 31 31 Acc.rw 0, fd 30 28 Acc.rw 0, fd 27 23 Acc.rw 6, fd 22 22 Acc.rw 0,
      fd 21 16 Acc.rw 0, fd 15 8 Acc.rw 0]
  -- LNK.RING[r].AUX (R359): VPORT, LIMIT
  | .lnkRingAux => [fd 21 16 Acc.rw 0, fd 15 0 Acc.rw 64]
  -- LNK.RING[r].DESC_LO (R359): DESC
  | .lnkRingDescLo => [fd 31 12 Acc.rw 0]
  -- LNK.RING[r].DESC_HI (R359): DESC
  | .lnkRingDescHi => [fd 31 0 Acc.rw 0]
  -- LNK.RING[r].CPL_LO (R359): CPL
  | .lnkRingCplLo => [fd 31 12 Acc.rw 0]
  -- LNK.RING[r].CPL_HI (R359): CPL
  | .lnkRingCplHi => [fd 31 0 Acc.rw 0]
  -- LNK.RING[r].IDX (R359): PROD, CONS
  | .lnkRingIdx => [fd 31 16 Acc.ro 0, fd 15 0 Acc.ro 0]
  -- LNK.RING[r].STAT (R367): ERROR, ERRCODE, DROPS
  | .lnkRingStat => [fd 31 31 Acc.ro 0, fd 23 16 Acc.ro 0, fd 15 0 Acc.ro 0]
  -- LNK doorbell page (R360): DOORBELL
  | .lnkDoorbell => [fd 31 0 Acc.w1p 0]
  -- CAN.EVT_PEND (R378): PEND
  | .canEvtPend => [fd 31 0 Acc.w1c 0]
  -- CAN.C[c].CTRL (R371): EN, FD_EN, XL_EN, MSW, ERRS_XL, AUTO_REC, LISTEN, TXF_EN, RETRY, TXFLUE
  | .canCtrl => [fd 31 31 Acc.rw 0, fd 30 30 Acc.rw 0, fd 29 29 Acc.rw 0, fd 28 28 Acc.rw 0, fd 27 27 Acc.rw 0,
      fd 26 26 Acc.rw 1, fd 25 25 Acc.rw 0, fd 24 24 Acc.lck 0, fd 23 16 Acc.rw 0, fd 9 0 Acc.lck 0]
  -- CAN.C[c].NBT/DBT/XBT[n] (R372): BRP, TSEG1, TSEG2, SJW
  | .canBt => [fd 31 24 Acc.rw 0x13, fd 23 16 Acc.rw 0x4E, fd 14 8 Acc.rw 0x13, fd 6 0 Acc.rw 0x13]
  -- CAN.C[c].TDC (R371): EN, OFFSET
  | .canTdc => [fd 31 31 Acc.rw 0, fd 7 0 Acc.rw 0]
  -- CAN.C[c].PWM (R373): PWMO, PWML, PWMS
  | .canPwm => [fd 23 16 Acc.rw 0, fd 15 8 Acc.rw 0, fd 7 0 Acc.rw 0]
  -- CAN.C[c].STATUS (R378): STATE, TEC, REC
  | .canStatus => [fd 31 30 Acc.ro 0, fd 23 16 Acc.ro 0, fd 7 0 Acc.ro 0]
  -- CAN.C[c].CMD (R378): TX_FLUSH, REC_GO
  | .canCmd => [fd 1 1 Acc.w1p 0, fd 0 0 Acc.w1p 0]
  -- MDIO[m].CMD (R384): BUSY, C45, OP, PRTAD, DEVAD, DATA
  | .mdioCmd => [fd 31 31 Acc.ro 0, fd 30 30 Acc.rw 0, fd 29 28 Acc.rw 0, fd 27 23 Acc.rw 0, fd 22 18 Acc.rw 0,
      fd 15 0 Acc.rw 0]
  -- MDIO[m].DIV (R384): DIV
  | .mdioDiv => [fd 7 0 Acc.rw 10]
  -- UART[u].CTRL (R382): EN, DIV, PAR_EN, PAR_ODD, STOP2
  | .uartCtrl => [fd 31 31 Acc.rw 0, fd 19 4 Acc.rw 136, fd 2 2 Acc.rw 0, fd 1 1 Acc.rw 0, fd 0 0 Acc.rw 0]
  -- UART[u].DATA (R382): VALID, BYTE
  | .uartData => [fd 8 8 Acc.rcl 0, fd 7 0 Acc.rcl 0]
  -- UART[u].STAT (R382): OVR, RX_COUNT, TX_FREE
  | .uartStat => [fd 31 31 Acc.w1c 0, fd 20 16 Acc.ro 0, fd 4 0 Acc.ro 0]
  -- GPIO.OUT (R383): OUT
  | .gpioOut => [fd 31 0 Acc.rw 0]
  -- GPIO.OE (R383): OE
  | .gpioOe => [fd 31 0 Acc.rw 0]
  -- GPIO.IN (R383): IN
  | .gpioIn => [fd 31 0 Acc.ro 0]
  -- GPIO.RISE_EN (R383): EN
  | .gpioRiseEn => [fd 31 0 Acc.rw 0]
  -- GPIO.FALL_EN (R383): EN
  | .gpioFallEn => [fd 31 0 Acc.rw 0]
  -- GPIO.EDGE_PEND (R383): PEND
  | .gpioEdgePend => [fd 31 0 Acc.w1c 0]
  -- XSPI.CFG (R380): PROTO, DIV
  | .xspiCfg => [fd 9 8 Acc.lck 0, fd 7 0 Acc.lck 25]
  -- XSPI.FLASH_ADDR (R380): ADDR
  | .xspiFlash => [fd 31 0 Acc.rw 0]
  -- XSPI.GRANARY_ADDR (R380): ADDR
  | .xspiGran => [fd 24 0 Acc.rw 0]
  -- XSPI.CMD (R380): GO, BUSY, DIR, LEN
  | .xspiCmd => [fd 31 31 Acc.w1p 0, fd 30 30 Acc.ro 0, fd 29 29 Acc.rw 0, fd 15 0 Acc.rw 0]
  -- TIME.NOW_LO (R249): NOW
  | .timeNowLo => [fd 31 0 Acc.ro 0]
  -- TIME.NOW_HI (R249): NOW
  | .timeNowHi => [fd 31 0 Acc.ro 0]
  -- TIME.NOW_FRAC (R249): FRAC
  | .timeNowFrac => [fd 15 0 Acc.ro 0]
  -- TIME.RATE (R247): ADJ
  | .timeRate => [fd 31 0 Acc.rw 0]
  -- TIME.SET_HI (R248): SET
  | .timeSetHi => [fd 31 0 Acc.rw 0]
  -- TIME.SET_LO (R248): SET
  | .timeSetLo => [fd 31 0 Acc.rw 0]
  -- TIME.STEP_HI (R248): STEP
  | .timeStepHi => [fd 31 0 Acc.rw 0]
  -- TIME.STEP_LO (R248): STEP
  | .timeStepLo => [fd 31 0 Acc.rw 0]
  -- TIME.CMD (R248): BUSY, STEP, SET
  | .timeCmd => [fd 8 8 Acc.ro 0, fd 1 1 Acc.w1p 0, fd 0 0 Acc.w1p 0]
  -- TIME.TXTS[p].STAT (R245): VALID, COUNT, TAG
  | .timeTxtsStat => [fd 31 31 Acc.ro 0, fd 20 16 Acc.ro 0, fd 15 0 Acc.ro 0]
  -- TIME.TXTS[p].TS_HI (R245): TS
  | .timeTxtsHi => [fd 31 0 Acc.ro 0]
  -- TIME.TXTS[p].TS_LO (R245): TS
  | .timeTxtsLo => [fd 31 0 Acc.ro 0]
  -- TIME.TXTS[p].POP (R245): POP
  | .timeTxtsPop => [fd 0 0 Acc.w1p 0]
  -- TIME.TSIO[n].CTRL (R250): LEVEL, CAP_OVF, CAP_VALID, MODE
  | .tsioCtrl => [fd 16 16 Acc.ro 0, fd 9 9 Acc.w1c 0, fd 8 8 Acc.w1c 0, fd 2 0 Acc.rw 0]
  -- TIME.TSIO[n].START_HI (R250): START
  | .tsioStartHi => [fd 31 0 Acc.rw 0]
  -- TIME.TSIO[n].START_LO (R250): START
  | .tsioStartLo => [fd 31 0 Acc.rw 0]
  -- TIME.TSIO[n].PERIOD (R250): PERIOD
  | .tsioPeriod => [fd 31 0 Acc.rw 0]
  -- TIME.TSIO[n].WIDTH (R250): WIDTH
  | .tsioWidth => [fd 31 0 Acc.rw 0]
  -- TIME.TSIO[n].CAP_HI (R250): CAP
  | .tsioCapHi => [fd 31 0 Acc.ro 0]
  -- TIME.TSIO[n].CAP_LO (R250): CAP
  | .tsioCapLo => [fd 31 0 Acc.ro 0]
  -- HTH.WARDEN_PC[h] (R110): PC
  | .hthWardenPc => [fd 14 0 Acc.lck 0x40]
  -- HTH.THR_CMD[h] (R125): PC, ACTION, THREAD
  | .hthThrCmd => [fd 29 15 Acc.rw 0, fd 10 8 Acc.rw 0, fd 6 0 Acc.rw 0]
  -- HTH.WDOG[h] (R119): LIMIT
  | .hthWdog => [fd 7 0 Acc.lck 0x80]
  -- HTH.STILL[h] (R127): HOST, ESC, PENDING, EN
  | .hthStill => [fd 10 10 Acc.w1c 0, fd 9 9 Acc.w1c 0, fd 8 8 Acc.ro 0, fd 0 0 Acc.lck 1]
  -- HTH.REPQ[h] (R124): COUNT
  | .hthRepq => [fd 7 0 Acc.ro 0]
  -- HTH.HELD[h][n] (R109): HELD
  | .hthHeld => [fd 31 0 Acc.ro 0]
  -- HTH.SLOT_LO[h][e] (R111): SLOTS
  | .hthSlotLo => [fd 31 0 Acc.rw 0xFEDCBA98]
  -- HTH.SLOT_HI[h][e] (R111): SLOTS
  | .hthSlotHi => [fd 31 0 Acc.rw 0xFEDCBA98]
  -- HTH.SWIFT[h][e] (R116): MASK
  | .hthSwift => [fd 7 0 Acc.rw (if j = 0 then 1 else 0)]
  -- HTH.TSR[h][i*32+word] (R129): TAG, V
  | .hthTsr => [fd 17 16 Acc.rw 0, fd 15 0 Acc.rw 0]
  -- HTH.CACHE_CFG[h] (R274): PF_EN, PF_DEPTH
  | .hthCacheCfg => [fd 8 8 Acc.rw 1, fd 2 0 Acc.rw 2]
  -- HTH.CACHE_LOCK[h] (R279): WAYS
  | .hthCacheLock => [fd 7 0 Acc.lck 0]
  -- HTH.RNG_BASE_HI[h] (R276): ADDR_HI
  | .hthRngBaseHi => [fd 3 0 Acc.rw 0]
  -- HTH.RNG_BASE_LO[h] (R276): ADDR_LO
  | .hthRngBaseLo => [fd 31 6 Acc.rw 0]
  -- HTH.RNG_LEN[h] (R276): LINES
  | .hthRngLen => [fd 25 0 Acc.rw 0]
  -- HTH.RNG_CMD[h] (R276): GO, EVT, ALL, FORCE, OP
  | .hthRngCmd => [fd 31 31 Acc.w1p 0, fd 9 9 Acc.rw 0, fd 8 8 Acc.rw 0, fd 4 4 Acc.rw 0, fd 2 0 Acc.rw 0]
  -- HTH.RNG_STAT[h] (R277): BUSY, ABORT, DONE, ERR, REMAIN
  | .hthRngStat => [fd 31 31 Acc.ro 0, fd 30 30 Acc.w1c 0, fd 29 29 Acc.w1c 0, fd 28 28 Acc.w1c 0, fd 25 0 Acc.ro 0]
  -- HTH.PREEMPT[h] (R305): QUANTUM
  | .hthPreempt => [fd 7 0 Acc.rw 16]
  -- HTH.KEY_SEL[h] (R340): SIZE, SLOT
  | .hthKeySel => [fd 8 8 Acc.rw 0, fd 4 0 Acc.rw 0]
  -- HTH.KEY[h][n] (R340): KEY
  | .hthKey => [fd 31 0 Acc.rw 0]
  -- HTH.KEY_CMD[h] (R340): BUSY, ERASE, COMMIT
  | .hthKeyCmd => [fd 8 8 Acc.ro 0, fd 1 1 Acc.w1p 0, fd 0 0 Acc.w1p 0]
  -- HTH.TPZ_KEY[h][n] (R337): KEY
  | .hthTpzKey => [fd 31 0 Acc.rw 0]
  -- HTH.PAT_SEL[h] (R340): PATTERN
  | .hthPatSel => [fd 9 0 Acc.rw 0]
  -- HTH.PAT_CFG[h] (R340): VALID, LEN
  | .hthPatCfg => [fd 31 31 Acc.rw 0, fd 5 0 Acc.rw 0]
  -- HTH.PAT_DATA[h][n] (R340): BYTES
  | .hthPatData => [fd 31 0 Acc.rw 0]
  -- HTH.PAT_CMD[h] (R340): BUSY, READ, COMMIT
  | .hthPatCmd => [fd 8 8 Acc.ro 0, fd 1 1 Acc.w1p 0, fd 0 0 Acc.w1p 0]
  -- HTH.RESET[h] (R389): IN_RESET, HOLD, HARD, SOFT
  | .hthReset => [fd 31 31 Acc.ro 0, fd 8 8 Acc.rw 0, fd 1 1 Acc.w1p 0, fd 0 0 Acc.w1p 0]

/-- Every kind of register. -/
def RegKind.all : List RegKind :=
  ([.topDeviceId, .topSetupLock, .topResetCause, .topResetCmd, .topResetCtrl, .topBootStatus, .topBootTime,
    .topBootSrcHi, .topBootSrcLo, .topBootCmd, .topBootData, .topFuse, .topTemp, .topTempAlarm, .clkStatus,
    .clkAutogate, .clkGated, .pwrCmd, .pwrDrainTimeout, .pwrStatus, .pwrDom, .errLogCfg, .errLogBaseHi,
    .errLogBaseLo, .errLogProd, .errLogCons, .errFault, .errIrqEn, .errIrqPend, .errSat, .errClrErr,
    .errFirstFatal, .dbgCtrl, .dbgThrCmd, .dbgGroup, .dbgStopped, .dbgBp, .dbgWp, .dbgWpHi, .dbgWpLo,
    .dbgWpMask, .dbgOtpCmd, .dbgOtpData, .prtMode, .prtRxctrl, .prtStatus, .prtTsAdj, .prtFc, .msecPortCtrl,
    .msecByp01, .msecByp23, .msecTxmap, .msecReplayWin, .msecSel, .msecSciHi, .msecSciLo, .msecScCtrl,
    .msecSaCtrl, .msecSaKey, .msecSaSalt] : List RegKind) ++
  ([.msecSaSsci, .msecSaPnHi, .msecSaPnLo, .msecCmd, .msecPnThreshHi, .msecPnThreshLo, .kndCtrl, .kndProgAddr,
    .kndProgHi, .kndProgLo, .kndEntry, .milCtrl, .milMalf, .milMalfQ, .milSrc0, .milSrc1, .milSrc23, .milBank,
    .milQciCtrl, .milStoneCfg, .milStoneSel, .milStoneRegion, .milStoneMask, .milUpdCmd, .milUpdIdx,
    .milUpdStat, .milUpdKey, .milUpdMask, .milUpdData, .milLearn, .milLearnSel, .milLearnPorts, .milHashSeed,
    .milGossipCfg, .milGossipBaseHi, .milGossipBaseLo, .milGossipProd, .milGossipCons, .milActBase,
    .milFailqKey01, .milFailqKey23, .milFailqCount, .milFailqValid, .dspCtrl, .dspLimits, .dspWinBase,
    .dspHset, .dspTallyCfg, .dspTallyFilt, .dspTallyBaseHi, .dspTallyBaseLo, .dspTallyProd, .dspTallyCons,
    .dspFlowSel, .dspFlowStat, .dspFlowCmd, .dspHearth, .dspDlist, .dspEvt, .relCtrl] : List RegKind) ++
  ([.relStatus, .relDomSel, .relDomStat, .chmCtrl, .chmGclAddr, .chmGclDataHi, .chmGclDataLo, .chmPctrl,
    .chmGateCtrl, .chmAdminCycle, .chmAdminBaseHi, .chmAdminBaseLo, .chmAdminCte, .chmOperCycle,
    .chmOperBaseHi, .chmOperBaseLo, .chmChgTimeHi, .chmChgTimeLo, .chmPreempt, .chmHoldAdv, .chmPtp, .chmCbs,
    .chmPcq, .chmGen, .chmQmap, .chmQrate, .chmQburst, .chmQlimit, .bpmStateBase, .bpmPoolCfg, .bpmPoolBaseHi,
    .bpmPoolBaseLo, .bpmPoolCount, .bpmPoolStat, .bpmPoolReserve, .bpmLlCfg, .bpmLlThresh, .bpmLlUsed,
    .bpmLlStat, .blwCtrl, .blwCfg, .blwRingHi, .blwRingLo, .blwHead, .blwTail, .blwCmd, .blwStat, .blwPosElem,
    .blwPosOfs, .blwFaddrHi, .blwFaddrLo, .lckCtrl, .lckTmo, .lckState, .lckCfg, .mmuTlbiCmd, .mmuTlbiTgt,
    .mmuTlbiVaHi, .mmuTlbiVaLo, .mmuTlbiStat] : List RegKind) ++
  ([.mmuHsel, .mmuCtxCfg, .mmuCtxRootHi, .mmuCtxRootLo, .memCtrl, .memMcCfg, .memMcStatus, .memMcTrain,
    .memRegCtrl, .memRegBase, .memRegSize, .memRegShadow, .lnkCtrl, .lnkStatus, .lnkTimers, .lnkMsiSend,
    .lnkHwinCtrl, .lnkHwinBaseHi, .lnkHwinBaseLo, .lnkVport, .lnkVec, .lnkRingCfg, .lnkRingAux,
    .lnkRingDescLo, .lnkRingDescHi, .lnkRingCplLo, .lnkRingCplHi, .lnkRingIdx, .lnkRingStat, .lnkDoorbell,
    .canEvtPend, .canCtrl, .canBt, .canTdc, .canPwm, .canStatus, .canCmd, .mdioCmd, .mdioDiv, .uartCtrl,
    .uartData, .uartStat, .gpioOut, .gpioOe, .gpioIn, .gpioRiseEn, .gpioFallEn, .gpioEdgePend, .xspiCfg,
    .xspiFlash, .xspiGran, .xspiCmd, .timeNowLo, .timeNowHi, .timeNowFrac, .timeRate, .timeSetHi, .timeSetLo,
    .timeStepHi, .timeStepLo] : List RegKind) ++
  ([.timeCmd, .timeTxtsStat, .timeTxtsHi, .timeTxtsLo, .timeTxtsPop, .tsioCtrl, .tsioStartHi, .tsioStartLo,
    .tsioPeriod, .tsioWidth, .tsioCapHi, .tsioCapLo, .hthWardenPc, .hthThrCmd, .hthWdog, .hthStill, .hthRepq,
    .hthHeld, .hthSlotLo, .hthSlotHi, .hthSwift, .hthTsr, .hthCacheCfg, .hthCacheLock, .hthRngBaseHi,
    .hthRngBaseLo, .hthRngLen, .hthRngCmd, .hthRngStat, .hthPreempt, .hthKeySel, .hthKey, .hthKeyCmd,
    .hthTpzKey, .hthPatSel, .hthPatCfg, .hthPatData, .hthPatCmd, .hthReset] : List RegKind)

/-- A counter: its place, its width (64: a statistics counter; 32: an error counter, R407) and its block code (R401). -/
structure CtrDesc where
  place : Place
  width : Nat
  block : Nat
deriving DecidableEq, Repr

/-- The description of a counter with a first index of n1 copies s1 apart and a second of n2 copies s2 apart. -/
def ctrDesc (base n1 s1 n2 s2 width block : Nat) : CtrDesc := ⟨⟨base, n1, s1, n2, 1, s2, 0⟩, width, block⟩

/-- Each counter of the chapters' register tables. -/
def CtrKind.desc : CtrKind → CtrDesc
  | .errRecords => ctrDesc 0x030100 4 8 1 0 64 2  -- ERR.RECORDS[s]
  | .errLost => ctrDesc 0x030140 4 4 1 0 32 2  -- ERR.LOST[s]
  | .prtRxFrames => ctrDesc 0x080100 32 0x1000 1 0 64 4  -- PRT.RX_FRAMES[p]
  | .prtRxBytes => ctrDesc 0x080108 32 0x1000 1 0 64 4  -- PRT.RX_BYTES[p]
  | .prtTxFrames => ctrDesc 0x080110 32 0x1000 1 0 64 4  -- PRT.TX_FRAMES[p]
  | .prtTxBytes => ctrDesc 0x080118 32 0x1000 1 0 64 4  -- PRT.TX_BYTES[p]
  | .prtRxPause => ctrDesc 0x080120 32 0x1000 1 0 64 4  -- PRT.RX_PAUSE[p]
  | .prtTxPause => ctrDesc 0x080128 32 0x1000 1 0 64 4  -- PRT.TX_PAUSE[p]
  | .prtRxFcsErr => ctrDesc 0x080130 32 0x1000 1 0 32 4  -- PRT.RX_FCS_ERR[p]
  | .prtRxRunt => ctrDesc 0x080134 32 0x1000 1 0 32 4  -- PRT.RX_RUNT[p]
  | .prtRxOversize => ctrDesc 0x080138 32 0x1000 1 0 32 4  -- PRT.RX_OVERSIZE[p]
  | .prtRxPcsErr => ctrDesc 0x08013C 32 0x1000 1 0 32 4  -- PRT.RX_PCS_ERR[p]
  | .prtRxOverrun => ctrDesc 0x080140 32 0x1000 1 0 32 4  -- PRT.RX_OVERRUN[p]
  | .prtRxAbort => ctrDesc 0x080144 32 0x1000 1 0 32 4  -- PRT.RX_ABORT[p]
  | .prtRxFragErr => ctrDesc 0x080148 32 0x1000 1 0 32 4  -- PRT.RX_FRAG_ERR[p]
  | .msecRxOk => ctrDesc 0x0A2000 32 0x100 1 0 64 5  -- MSEC.RX_OK[p]
  | .msecRxUntagged => ctrDesc 0x0A2008 32 0x100 1 0 64 5  -- MSEC.RX_UNTAGGED[p]
  | .msecRxBypass => ctrDesc 0x0A2010 32 0x100 1 0 64 5  -- MSEC.RX_BYPASS[p]
  | .msecTxProtected => ctrDesc 0x0A2018 32 0x100 1 0 64 5  -- MSEC.TX_PROTECTED[p]
  | .msecTxEncrypted => ctrDesc 0x0A2020 32 0x100 1 0 64 5  -- MSEC.TX_ENCRYPTED[p]
  | .msecRxNotag => ctrDesc 0x0A2030 32 0x100 1 0 32 5  -- MSEC.RX_NOTAG[p]
  | .msecRxBadtag => ctrDesc 0x0A2034 32 0x100 1 0 32 5  -- MSEC.RX_BADTAG[p]
  | .msecRxNosci => ctrDesc 0x0A2038 32 0x100 1 0 32 5  -- MSEC.RX_NOSCI[p]
  | .msecRxUnknownsci => ctrDesc 0x0A203C 32 0x100 1 0 32 5  -- MSEC.RX_UNKNOWNSCI[p]
  | .msecRxNotusingsa => ctrDesc 0x0A2040 32 0x100 1 0 32 5  -- MSEC.RX_NOTUSINGSA[p]
  | .msecRxUnusedsa => ctrDesc 0x0A2044 32 0x100 1 0 32 5  -- MSEC.RX_UNUSEDSA[p]
  | .msecRxLate => ctrDesc 0x0A2048 32 0x100 1 0 32 5  -- MSEC.RX_LATE[p]
  | .msecRxNotvalid => ctrDesc 0x0A204C 32 0x100 1 0 32 5  -- MSEC.RX_NOTVALID[p]
  | .msecRxInvalid => ctrDesc 0x0A2050 32 0x100 1 0 32 5  -- MSEC.RX_INVALID[p]
  | .msecTxToolong => ctrDesc 0x0A2054 32 0x100 1 0 32 5  -- MSEC.TX_TOOLONG[p]
  | .msecTxPnExhausted => ctrDesc 0x0A2058 32 0x100 1 0 32 5  -- MSEC.TX_PN_EXHAUSTED[p]
  | .kndFrames => ctrDesc 0x100400 4 0x40000 1 0 64 6  -- KND.FRAMES[m]
  | .kndDeep => ctrDesc 0x100408 4 0x40000 1 0 64 6  -- KND.DEEP[m]
  | .kndSteps => ctrDesc 0x100410 4 0x40000 1 0 64 6  -- KND.STEPS[m]
  | .kndFail => ctrDesc 0x100504 4 0x40000 63 4 32 6  -- KND.FAIL[m][c]
  | .milStoneHits => ctrDesc 0x110160 4 0x40000 8 0x80 64 6  -- MIL.STONE_HITS[m][s]
  | .milStoneMisses => ctrDesc 0x110168 4 0x40000 8 0x80 64 6  -- MIL.STONE_MISSES[m][s]
  | .milFrames => ctrDesc 0x112000 4 0x40000 1 0 64 6  -- MIL.FRAMES[m]
  | .milDrop => ctrDesc 0x112008 4 0x40000 1 0 64 6  -- MIL.DROP[m]
  | .milForward => ctrDesc 0x112010 4 0x40000 1 0 64 6  -- MIL.FORWARD[m]
  | .milHost => ctrDesc 0x112018 4 0x40000 1 0 64 6  -- MIL.HOST[m]
  | .milMirror => ctrDesc 0x112020 4 0x40000 1 0 64 6  -- MIL.MIRROR[m]
  | .milMalformed => ctrDesc 0x112028 4 0x40000 1 0 64 6  -- MIL.MALFORMED[m]
  | .milUndecided => ctrDesc 0x112030 4 0x40000 1 0 32 6  -- MIL.UNDECIDED[m]
  | .milEmptyDrop => ctrDesc 0x112034 4 0x40000 1 0 32 6  -- MIL.EMPTY_DROP[m]
  | .milRsvAction => ctrDesc 0x112038 4 0x40000 1 0 32 6  -- MIL.RSV_ACTION[m]
  | .milQciDrop => ctrDesc 0x11203C 4 0x40000 1 0 32 6  -- MIL.QCI_DROP[m]
  | .milRcvDrop => ctrDesc 0x112040 4 0x40000 1 0 32 6  -- MIL.RCV_DROP[m]
  | .milFloodUcast => ctrDesc 0x113200 4 0x40000 1 0 64 6  -- MIL.FLOOD_UCAST[m]
  | .milFloodFailed => ctrDesc 0x113208 4 0x40000 1 0 64 6  -- MIL.FLOOD_FAILED[m]
  | .milGossipNew => ctrDesc 0x113210 4 0x40000 1 0 64 6  -- MIL.GOSSIP_NEW[m]
  | .milGossipMoved => ctrDesc 0x113218 4 0x40000 1 0 64 6  -- MIL.GOSSIP_MOVED[m]
  | .milGossipMove => ctrDesc 0x113220 4 0x40000 1 0 64 6  -- MIL.GOSSIP_MOVE[m]
  | .milGossipFiltered => ctrDesc 0x113228 4 0x40000 1 0 64 6  -- MIL.GOSSIP_FILTERED[m]
  | .milLearnGroup => ctrDesc 0x113230 4 0x40000 1 0 64 6  -- MIL.LEARN_GROUP[m]
  | .milGossipThrottled => ctrDesc 0x113238 4 0x40000 1 0 32 6  -- MIL.GOSSIP_THROTTLED[m]
  | .milGossipLost => ctrDesc 0x11323C 4 0x40000 1 0 32 6  -- MIL.GOSSIP_LOST[m]
  | .milInsertFull => ctrDesc 0x113240 4 0x40000 1 0 32 6  -- MIL.INSERT_FULL[m]
  | .dspTasks => ctrDesc 0x200080 1 0 1 0 64 7  -- DSP.TASKS
  | .dspAffHits => ctrDesc 0x200088 1 0 1 0 64 7  -- DSP.AFF_HITS
  | .dspMoves => ctrDesc 0x200090 1 0 1 0 64 7  -- DSP.MOVES
  | .dspWithdrawn => ctrDesc 0x200098 1 0 1 0 32 7  -- DSP.WITHDRAWN
  | .dspPostRefused => ctrDesc 0x20009C 1 0 1 0 32 7  -- DSP.POST_REFUSED
  | .dspStallSlot => ctrDesc 0x2000A0 1 0 1 0 32 7  -- DSP.STALL_SLOT
  | .dspTallyLost => ctrDesc 0x2000A4 1 0 1 0 32 7  -- DSP.TALLY_LOST
  | .relReleased => ctrDesc 0x240080 1 0 1 0 64 8  -- REL.RELEASED
  | .relSkipped => ctrDesc 0x240088 1 0 1 0 64 8  -- REL.SKIPPED
  | .relOvertaken => ctrDesc 0x240090 1 0 1 0 32 8  -- REL.OVERTAKEN
  | .relStallTicket => ctrDesc 0x240094 1 0 1 0 32 8  -- REL.STALL_TICKET
  | .relStallDeadline => ctrDesc 0x240098 1 0 1 0 32 8  -- REL.STALL_DEADLINE
  | .chmEnq => ctrDesc 0x282000 32 0x40 1 0 64 9  -- CHM.ENQ[p]
  | .chmPreemptFrags => ctrDesc 0x282008 32 0x40 1 0 64 9  -- CHM.PREEMPT_FRAGS[p]
  | .chmTailDrop => ctrDesc 0x282010 32 0x40 1 0 32 9  -- CHM.TAIL_DROP[p]
  | .chmQmemDrop => ctrDesc 0x282014 32 0x40 1 0 32 9  -- CHM.QMEM_DROP[p]
  | .chmCopyNobuf => ctrDesc 0x282018 32 0x40 1 0 32 9  -- CHM.COPY_NOBUF[p]
  | .chmLinkdownDrop => ctrDesc 0x28201C 32 0x40 1 0 32 9  -- CHM.LINKDOWN_DROP[p]
  | .chmTxAbort => ctrDesc 0x282020 32 0x40 1 0 32 9  -- CHM.TX_ABORT[p]
  | .chmTxPoison => ctrDesc 0x282024 32 0x40 1 0 32 9  -- CHM.TX_POISON[p]
  | .chmTxToolong => ctrDesc 0x282028 32 0x40 1 0 32 9  -- CHM.TX_TOOLONG[p]
  | .chmTsLost => ctrDesc 0x28202C 32 0x40 1 0 32 9  -- CHM.TS_LOST[p]
  | .chmTsOnestepMiss => ctrDesc 0x282030 32 0x40 1 0 32 9  -- CHM.TS_ONESTEP_MISS[p]
  | .chmHold => ctrDesc 0x282034 32 0x40 1 0 32 9  -- CHM.HOLD[p]
  | .chmTxOverrun => ctrDesc 0x282038 32 0x40 1 0 32 9  -- CHM.TX_OVERRUN[p]
  | .chmEmptyDrop => ctrDesc 0x280020 1 0 1 0 32 9  -- CHM.EMPTY_DROP
  | .bpmAlloc => ctrDesc 0x301000 8 0x20 1 0 64 10  -- BPM.ALLOC[n]
  | .bpmFallback => ctrDesc 0x301008 8 0x20 1 0 32 10  -- BPM.FALLBACK[n]
  | .bpmNobuf => ctrDesc 0x30100C 8 0x20 1 0 32 10  -- BPM.NOBUF[n]
  | .bpmNobufPort => ctrDesc 0x301200 32 4 1 0 32 10  -- BPM.NOBUF_PORT[p]
  | .bpmCopies => ctrDesc 0x301300 1 0 1 0 64 10  -- BPM.COPIES
  | .bpmCopyBytes => ctrDesc 0x301308 1 0 1 0 64 10  -- BPM.COPY_BYTES
  | .bpmLlDrop => ctrDesc 0x301310 1 0 1 0 32 10  -- BPM.LL_DROP
  | .bpmBadHead => ctrDesc 0x301314 1 0 1 0 32 10  -- BPM.BAD_HEAD
  | .blwDescs => ctrDesc 0x340100 1 0 1 0 64 11  -- BLW.DESCS
  | .blwSnoopHits => ctrDesc 0x340108 1 0 1 0 64 11  -- BLW.SNOOP_HITS
  | .blwErrors => ctrDesc 0x340110 1 0 1 0 32 11  -- BLW.ERRORS
  | .blwBytes => ctrDesc 0x341030 64 0x40 1 0 64 11  -- BLW.BYTES[n]
  | .lckAcquires => ctrDesc 0x380100 1 0 1 0 64 12  -- LCK.ACQUIRES
  | .lckContended => ctrDesc 0x380108 1 0 1 0 64 12  -- LCK.CONTENDED
  | .lckTimeouts => ctrDesc 0x380110 1 0 1 0 32 12  -- LCK.TIMEOUTS
  | .lckAbandons => ctrDesc 0x380114 1 0 1 0 32 12  -- LCK.ABANDONS
  | .lckInherit => ctrDesc 0x380118 1 0 1 0 32 12  -- LCK.INHERIT
  | .mmuBlwTlbMisses => ctrDesc 0x3C0400 1 0 1 0 64 13  -- MMU.BLW_TLB_MISSES
  | .mmuBlwWalkFaults => ctrDesc 0x3C0408 1 0 1 0 32 13  -- MMU.BLW_WALK_FAULTS
  | .memCorr => ctrDesc 0x400120 4 0x40 1 0 32 14  -- MEM.CORR[c]
  | .memUncorr => ctrDesc 0x400124 4 0x40 1 0 32 14  -- MEM.UNCORR[c]
  | .memBytes => ctrDesc 0x400128 4 0x40 1 0 64 14  -- MEM.BYTES[c]
  | .lnkFlitsTx => ctrDesc 0x480800 1 0 1 0 64 15  -- LNK.FLITS_TX
  | .lnkFlitsRx => ctrDesc 0x480808 1 0 1 0 64 15  -- LNK.FLITS_RX
  | .lnkCrcErr => ctrDesc 0x480810 1 0 1 0 32 15  -- LNK.CRC_ERR
  | .lnkSeqErr => ctrDesc 0x480814 1 0 1 0 32 15  -- LNK.SEQ_ERR
  | .lnkDup => ctrDesc 0x480818 1 0 1 0 32 15  -- LNK.DUP
  | .lnkProtoErr => ctrDesc 0x48081C 1 0 1 0 32 15  -- LNK.PROTO_ERR
  | .lnkCreditErr => ctrDesc 0x480820 1 0 1 0 32 15  -- LNK.CREDIT_ERR
  | .lnkCplErr => ctrDesc 0x480824 1 0 1 0 32 15  -- LNK.CPL_ERR
  | .lnkCplTmo => ctrDesc 0x480828 1 0 1 0 32 15  -- LNK.CPL_TMO
  | .lnkBarErr => ctrDesc 0x48082C 1 0 1 0 32 15  -- LNK.BAR_ERR
  | .lnkDbErr => ctrDesc 0x480830 1 0 1 0 32 15  -- LNK.DB_ERR
  | .lnkPoisonRx => ctrDesc 0x480834 1 0 1 0 32 15  -- LNK.POISON_RX
  | .lnkReplays => ctrDesc 0x480838 1 0 1 0 32 15  -- LNK.REPLAYS
  | .lnkRetrains => ctrDesc 0x48083C 1 0 1 0 32 15  -- LNK.RETRAINS
  | .lnkWrLost => ctrDesc 0x480840 1 0 1 0 32 15  -- LNK.WR_LOST
  | .lnkEvtLost => ctrDesc 0x480844 1 0 1 0 32 15  -- LNK.EVT_LOST
  | .canRxFrames => ctrDesc 0x501020 32 0x100 1 0 64 16  -- CAN.RX_FRAMES[c]
  | .canTxFrames => ctrDesc 0x501028 32 0x100 1 0 64 16  -- CAN.TX_FRAMES[c]
  | .canRxErr => ctrDesc 0x501030 32 0x100 1 0 32 16  -- CAN.RX_ERR[c]
  | .canRxNobuf => ctrDesc 0x501034 32 0x100 1 0 32 16  -- CAN.RX_NOBUF[c]
  | .canRxOverrun => ctrDesc 0x501038 32 0x100 1 0 32 16  -- CAN.RX_OVERRUN[c]
  | .canTxBad => ctrDesc 0x50103C 32 0x100 1 0 32 16  -- CAN.TX_BAD[c]
  | .canTxAbandon => ctrDesc 0x501040 32 0x100 1 0 32 16  -- CAN.TX_ABANDON[c]
  | .canBusoff => ctrDesc 0x501044 32 0x100 1 0 32 16  -- CAN.BUSOFF[c]
  | .spiErr => ctrDesc 0x540300 1 0 1 0 32 16  -- SPI.ERR
  | .hthFlueDiscard => ctrDesc 0x800014 16 0x80000 1 0 32 18  -- HTH.FLUE_DISCARD[h]
  | .hthRngSkipped => ctrDesc 0x820024 16 0x80000 1 0 32 18  -- HTH.RNG_SKIPPED[h]
  | .hthRngLockFail => ctrDesc 0x820028 16 0x80000 1 0 32 18  -- HTH.RNG_LOCK_FAIL[h]
  | .hthCacheHits => ctrDesc 0x820100 16 0x80000 1 0 64 18  -- HTH.CACHE_HITS[h]
  | .hthCacheMisses => ctrDesc 0x820108 16 0x80000 1 0 64 18  -- HTH.CACHE_MISSES[h]
  | .hthWritebacks => ctrDesc 0x820110 16 0x80000 1 0 64 18  -- HTH.WRITEBACKS[h]
  | .hthVictimHits => ctrDesc 0x820118 16 0x80000 1 0 64 18  -- HTH.VICTIM_HITS[h]
  | .hthPrefetches => ctrDesc 0x820120 16 0x80000 1 0 64 18  -- HTH.PREFETCHES[h]
  | .hthCacheDiscard => ctrDesc 0x820128 16 0x80000 1 0 32 18  -- HTH.CACHE_DISCARD[h]
  | .hthLarderCorr => ctrDesc 0x82012C 16 0x80000 1 0 32 18  -- HTH.LARDER_CORR[h]
  | .hthLarderUncorr => ctrDesc 0x820130 16 0x80000 1 0 32 18  -- HTH.LARDER_UNCORR[h]
  | .hthTlbMisses => ctrDesc 0x830100 16 0x80000 1 0 64 18  -- HTH.TLB_MISSES[h]
  | .hthPreempts => ctrDesc 0x830108 16 0x80000 1 0 64 18  -- HTH.PREEMPTS[h]
  | .hthWalkFaults => ctrDesc 0x830110 16 0x80000 1 0 32 18  -- HTH.WALK_FAULTS[h]
  | .hthSmithyOps => ctrDesc 0x840100 16 0x80000 3 8 64 18  -- HTH.SMITHY_OPS[h][x]
  | .hthSmithyErr => ctrDesc 0x840118 16 0x80000 1 0 32 18  -- HTH.SMITHY_ERR[h]

/-- Every kind of counter. -/
def CtrKind.all : List CtrKind :=
  ([.errRecords, .errLost, .prtRxFrames, .prtRxBytes, .prtTxFrames, .prtTxBytes, .prtRxPause, .prtTxPause,
    .prtRxFcsErr, .prtRxRunt, .prtRxOversize, .prtRxPcsErr, .prtRxOverrun, .prtRxAbort, .prtRxFragErr,
    .msecRxOk, .msecRxUntagged, .msecRxBypass, .msecTxProtected, .msecTxEncrypted, .msecRxNotag,
    .msecRxBadtag, .msecRxNosci, .msecRxUnknownsci, .msecRxNotusingsa, .msecRxUnusedsa, .msecRxLate,
    .msecRxNotvalid, .msecRxInvalid, .msecTxToolong, .msecTxPnExhausted, .kndFrames, .kndDeep, .kndSteps,
    .kndFail, .milStoneHits, .milStoneMisses, .milFrames, .milDrop, .milForward, .milHost, .milMirror,
    .milMalformed, .milUndecided, .milEmptyDrop, .milRsvAction, .milQciDrop, .milRcvDrop, .milFloodUcast,
    .milFloodFailed, .milGossipNew, .milGossipMoved, .milGossipMove, .milGossipFiltered, .milLearnGroup,
    .milGossipThrottled, .milGossipLost, .milInsertFull, .dspTasks, .dspAffHits] : List CtrKind) ++
  ([.dspMoves, .dspWithdrawn, .dspPostRefused, .dspStallSlot, .dspTallyLost, .relReleased, .relSkipped,
    .relOvertaken, .relStallTicket, .relStallDeadline, .chmEnq, .chmPreemptFrags, .chmTailDrop, .chmQmemDrop,
    .chmCopyNobuf, .chmLinkdownDrop, .chmTxAbort, .chmTxPoison, .chmTxToolong, .chmTsLost, .chmTsOnestepMiss,
    .chmHold, .chmTxOverrun, .chmEmptyDrop, .bpmAlloc, .bpmFallback, .bpmNobuf, .bpmNobufPort, .bpmCopies,
    .bpmCopyBytes, .bpmLlDrop, .bpmBadHead, .blwDescs, .blwSnoopHits, .blwErrors, .blwBytes, .lckAcquires,
    .lckContended, .lckTimeouts, .lckAbandons, .lckInherit, .mmuBlwTlbMisses, .mmuBlwWalkFaults, .memCorr,
    .memUncorr, .memBytes, .lnkFlitsTx, .lnkFlitsRx, .lnkCrcErr, .lnkSeqErr, .lnkDup, .lnkProtoErr,
    .lnkCreditErr, .lnkCplErr, .lnkCplTmo, .lnkBarErr, .lnkDbErr, .lnkPoisonRx, .lnkReplays, .lnkRetrains] :
    List CtrKind) ++
  ([.lnkWrLost, .lnkEvtLost, .canRxFrames, .canTxFrames, .canRxErr, .canRxNobuf, .canRxOverrun, .canTxBad,
    .canTxAbandon, .canBusoff, .spiErr, .hthFlueDiscard, .hthRngSkipped, .hthRngLockFail, .hthCacheHits,
    .hthCacheMisses, .hthWritebacks, .hthVictimHits, .hthPrefetches, .hthCacheDiscard, .hthLarderCorr,
    .hthLarderUncorr, .hthTlbMisses, .hthPreempts, .hthWalkFaults, .hthSmithyOps, .hthSmithyErr] : List
    CtrKind)

def RegKind.off (k : RegKind) (i j : Nat) : Nat := k.place.off i j
def CtrKind.off (k : CtrKind) (i j : Nat) : Nat := k.desc.place.off i j

/-- The reset value of copy (i, j) of a register: its fields' reset values in their places. -/
def RegKind.resetVal (k : RegKind) (i j : Nat) : W32 :=
  BitVec.ofNat 32 ((k.fields i j).foldl (fun a f => a ||| (f.reset <<< f.lo)) 0)

/-- What an offset names. -/
inductive RegName where
  | reg (k : RegKind) (i j : Nat)
  | ctr (k : CtrKind) (i j : Nat) (high : Bool)
  | none
deriving DecidableEq, Repr

def findReg (off : Nat) : List RegKind → Option RegName
  | [] => Option.none
  | k :: r =>
    match k.place.find off with
    | some (i, j) => some (.reg k i j)
    | Option.none => findReg off r

def findCtr (off : Nat) : List CtrKind → Option RegName
  | [] => Option.none
  | k :: r =>
    match k.desc.place.find off with
    | some (i, j) => some (.ctr k i j false)
    | Option.none =>
      match (if k.desc.width = 64 ∧ 4 ≤ off then k.desc.place.find (off - 4) else Option.none) with
      | some (i, j) => some (.ctr k i j true)
      | Option.none => findCtr off r

/-- The register or counter at a set-up offset (R48); `none` for an offset that no block defines (R49). -/
def regAt (off : Nat) : RegName :=
  match findReg off RegKind.all with
  | some n => n
  | Option.none =>
    match findCtr off CtrKind.all with
    | some n => n
    | Option.none => .none

end Sys2Proof.Machine
end

