-- ==== Sys2Proof/Machine/Ops.lean ====
section
/-!
DEFINITION. The operations that every family shares: set-up registers by name, time, free values, counters, tasks on their
way to a ready list, events, and log records.
-/
namespace Sys2Proof.Machine

/-- A command that changes the device only. -/
def State.onDev (s : State) (f : Dev → Dev) : Host.Outcome State Fault Refusal := .next { s with dev := f s.dev }

/-! ### Set-up registers by name -/

/-- The stored value of copy (i, j) of a register. -/
def Dev.rd (d : Dev) (k : RegKind) (i : Nat := 0) (j : Nat := 0) : W32 :=
  d.regs.get (k.resetVal i j) (k.off i j)

/-- Store a value in a register: the hardware's own write, under no access rule. -/
def Dev.wr (d : Dev) (k : RegKind) (i j : Nat) (v : W32) : Dev :=
  { d with regs := d.regs.set (k.resetVal i j) (k.off i j) v }

/-- Bits hi:lo of a register. -/
def Dev.fld (d : Dev) (k : RegKind) (i j hi lo : Nat) : Nat := bits (d.rd k i j) hi lo

/-- Bit b of a register. -/
def Dev.bit (d : Dev) (k : RegKind) (i j b : Nat) : Bool := (d.rd k i j).getLsbD b

/-- Store bits hi:lo of a register. -/
def Dev.setFld (d : Dev) (k : RegKind) (i j hi lo x : Nat) : Dev := d.wr k i j (setBits (d.rd k i j) hi lo x)

/-- Set or clear bit b of a register. -/
def Dev.setBit (d : Dev) (k : RegKind) (i j b : Nat) (x : Bool) : Dev := d.setFld k i j b b (if x then 1 else 0)

/-- A 64-bit value held by a HI and a LO register. -/
def Dev.rd64 (d : Dev) (hi lo : RegKind) (i : Nat := 0) : W64 := (d.rd hi i).append (d.rd lo i)

/-! ### Time -/

/-- ENGCLK since power-on: fifteen in each TICKCLK (R23). -/
def Dev.engclk (d : Dev) : Nat := d.time.tick * 15
/-- MILLCLK since power-on: twelve in each TICKCLK (R23). -/
def Dev.millclk (d : Dev) : Nat := d.time.tick * 12
/-- FABCLK since power-on: ten in each TICKCLK (R23). -/
def Dev.fabclk (d : Dev) : Nat := d.time.tick * 10
/-- Whole microseconds of ticks: one hundred TICKCLK each. -/
def usTicks (us : Nat) : Nat := us * 100
/-- Bits [35:0] of the device time (R80, R118). -/
def Dev.now36 (d : Dev) : BitVec 36 := d.time.ns.truncate 36
/-- Bits [31:0] of the device time. -/
def Dev.now32 (d : Dev) : W32 := d.time.ns.truncate 32

/-- Device time in 2^-32 ns `ago` ns before a time `now` at a tick: each TICKCLK since has advanced it by 10 ns and ADJ (R247), and the
jumps since are taken back. -/
def timeBack (now : Int) (rate : W32) (tick ago : Nat) : List (Nat × Int × W32) → Int
  | [] => now - ago * 2 ^ 32 - ago * rate.toInt / 10
  | (k, jump, before) :: r =>
    let span := (tick - k) * 10
    if ago ≤ span then now - ago * 2 ^ 32 - ago * rate.toInt / 10
    else timeBack (now - span * 2 ^ 32 - span * rate.toInt / 10 - jump) before k (ago - span) r

/-- The device time `ago` ns ago. -/
def Dev.timeAgo (d : Dev) (ago : Nat) : W64 :=
  BitVec.ofInt 64 (timeBack (d.time.ns.toNat * 2 ^ 32 + d.time.frac.toNat : Nat) d.time.rate d.time.tick ago d.time.breaks / 2 ^ 32)

/-! ### Free values -/

/-- The next free choice among `n`, and the state with the free-value counter advanced. -/
def Dev.choose (d : Dev) (n : Nat) : Nat × Dev :=
  (Config.freeChoice d.time.free % n, { d with time := { d.time with free := d.time.free + 1 } })

/-- The first index of `n` at or after `start`, cyclically, that `ok` holds of. -/
def pickFrom (n start : Nat) (ok : Nat → Bool) : Nat → Option Nat
  | 0 => none
  | fuel + 1 => if ok (start % n) then some (start % n) else pickFrom n (start + 1) ok fuel

/-! ### Words -/

/-- Bits [47:32], [31:16] and [15:0] of a 64-bit time. -/
def w16 (n : Nat) : W16 := BitVec.ofNat 16 n
def hi16 (v : W32) : W16 := (v >>> 16).truncate 16
def lo16 (v : W32) : W16 := v.truncate 16
def join16 (h l : W16) : W32 := h.append l

/-! ### Counters (R407) -/

/-- The value of a counter. -/
def Dev.ctr (d : Dev) (k : CtrKind) (i : Nat := 0) (j : Nat := 0) : W64 := d.ctrs.get 0 (k.off i j)

/-- A statistics counter counts `n`, modulo 2^64. -/
def Dev.count64 (d : Dev) (k : CtrKind) (i j n : Nat) : Dev :=
  { d with ctrs := d.ctrs.upd 0 (k.off i j) (· + BitVec.ofNat 64 n) }

/-- An error counter counts `n` and stops at 0xFFFF_FFFF; the Bool says that this count brought it there. -/
def Dev.bump32 (d : Dev) (k : CtrKind) (i j n : Nat) : Dev × Bool :=
  let old := (d.ctr k i j).toNat
  let new := min (old + n) 0xFFFFFFFF
  ({ d with ctrs := d.ctrs.set 0 (k.off i j) (BitVec.ofNat 64 new) }, decide (old < 0xFFFFFFFF ∧ new = 0xFFFFFFFF))

/-! ### Power domains (R398) -/

/-- Domain `n` is ON. -/
def Dev.domFull (d : Dev) (n : Nat) : Bool := d.fld .pwrDom n 0 31 30 == 2
/-- Domain `n` is powered: ON, or DRAINING, in which accesses that were started still end. -/
def Dev.domOn (d : Dev) (n : Nat) : Bool := decide (2 ≤ d.fld .pwrDom n 0 31 30)
def domHearth (h : Nat) : Nat := 2 + h
def domGran (g : Nat) : Nat := 18 + g
def domPortq (q : Nat) : Nat := 26 + q
def domMc (c : Nat) : Nat := 34 + c
def domLink : Nat := 38
def domCan : Nat := 39

/-! ### Threads, engines and hearths -/

def Dev.thr (d : Dev) (g : Nat) : Thread := d.eng.threads.get Thread.init g
def Dev.setThr (d : Dev) (g : Nat) (t : Thread) : Dev :=
  { d with eng := { d.eng with threads := d.eng.threads.set Thread.init g t } }
def Dev.updThr (d : Dev) (g : Nat) (f : Thread → Thread) : Dev := d.setThr g (f (d.thr g))
/-- Engines are numbered device-wide, hearth * 16 + engine. -/
def Dev.engn (d : Dev) (e : Nat) : Engine := d.eng.engines.get (Engine.init (e % 16)) e
def Dev.setEngn (d : Dev) (e : Nat) (x : Engine) : Dev :=
  { d with eng := { d.eng with engines := d.eng.engines.set (Engine.init (e % 16)) e x } }
def Dev.hth (d : Dev) (h : Nat) : Hearth := d.eng.hearths.get Hearth.init h
def Dev.setHth (d : Dev) (h : Nat) (x : Hearth) : Dev :=
  { d with eng := { d.eng with hearths := d.eng.hearths.set Hearth.init h x } }
def hearthOf (g : Nat) : Nat := g / 128
def engineOf (g : Nat) : Nat := g / 8
/-- The threads of hearth `h`, by global number. -/
def hearthThreads (h : Nat) : List Nat := (List.range 128).map (· + h * 128)
/-- The listed threads (the others are OFF) with their states. -/
def Dev.listed (d : Dev) : List (Nat × Thread) := d.eng.threads.entries

/-- The thread's CTX names a task: a HANDLE pair of kind 0xC (R51); the slot it names. -/
def Thread.task (t : Thread) : Option Nat :=
  if t.ctxH.tag = .handle ∧ t.ctxL.tag = .handle ∧ t.ctxH.v.toNat / 4096 = 12 then some t.ctxL.v.toNat else none

/-! ### Tasks and ready lists (R131, R137, R139) -/

def Dev.task (d : Dev) (s : Nat) : Option Task := d.dsp.tasks.get none s
def Dev.setTask (d : Dev) (s : Nat) (t : Option Task) : Dev :=
  { d with dsp := { d.dsp with tasks := d.dsp.tasks.set none s t } }
def Dev.updTask (d : Dev) (s : Nat) (f : Task → Task) : Dev := d.setTask s ((d.task s).map f)
def Task.word (t : Task) (n : Nat) : Word := t.words.getD n Word.zero
def Task.kind (t : Task) : Nat := (t.word 0).v.toNat / 4096
def Task.cls (t : Task) : Nat := (t.word 0).v.toNat / 512 % 8
def Task.flowValid (t : Task) : Bool := (t.word 0).v.getLsbD 4
def Task.flow (t : Task) : Nat := (t.word 6).v.toNat
def Dev.slotGen (d : Dev) (s : Nat) : Nat := d.dsp.gens.get 0 s
def Dev.readyList (d : Dev) (h c : Nat) : List Nat := d.dsp.ready.get [] (h * 8 + c)
def Dev.setReady (d : Dev) (h c : Nat) (l : List Nat) : Dev :=
  { d with dsp := { d.dsp with ready := d.dsp.ready.set [] (h * 8 + c) l } }
/-- Tasks on hearth h's ready lists. -/
def Dev.readyCount (d : Dev) (h : Nat) : Nat :=
  ((List.range 8).map (fun c => (d.readyList h c).length)).foldl (· + ·) 0

/-- The hearth set of a task that is placed now (R139, R142). -/
def Dev.taskSet (d : Dev) (t : Task) : W16 :=
  if t.kind = 1 then w16 (d.fld .dspHset ((t.word 1).v.toNat / 256 % 4) 0 15 0)
  else if t.kind = 4 then w16 (d.fld .dspEvt ((t.word 1).v.toNat % 256) 0 15 0)
  else t.set

/-- The engine that the flow table gives a task that is placed now, if it has one in its set (R139, R141). -/
def Dev.affine (d : Dev) (t : Task) : Option Nat :=
  let e := d.dsp.flow.get 0 t.flow
  if t.flowValid ∧ d.bit .dspCtrl 0 0 1 ∧ 0 < e ∧ d.dsp.flowClear = none ∧ (d.taskSet t).getLsbD ((e - 1) / 16) then
    some (e - 1)
  else none

/-- The hearth of a set with fewest ready tasks; ties go to the first after the hearth last chosen (`last`, one more than its
number, 0 none). -/
def leastReady (d : Dev) (set : W16) (last : Nat) : Nat :=
  let order := (List.range 16).map (fun k => (last + k) % 16)
  let cands := order.filter (fun h => set.getLsbD h)
  cands.foldl (fun best h => if d.readyCount h < d.readyCount best then h else best) (cands.headD 0)

/-- The hearth ceases to be still (R127). -/
def Dev.stir (d : Dev) (h : Nat) : Dev :=
  let x := d.hth h
  if x.still = 0 ∧ x.stillRep = false then d else d.setHth h { x with still := 0, stillRep := false }

/-- Put task `s` on a ready list: placement under R139. It has waited since now, and keeps the set and the affine engine that this placement
reads (R141, R142). -/
def Dev.placeReady (d : Dev) (s : Nat) : Dev :=
  match d.task s with
  | none => d
  | some t =>
    let set := d.taskSet t
    let last := d.dsp.lastChosen.get 0 set.toNat
    let home := d.affine t
    let (h, d1) := match home with
      | some e => (e / 16, d)
      | none =>
        let h := leastReady d set last
        (h, { d with dsp := { d.dsp with lastChosen := d.dsp.lastChosen.set 0 set.toNat (h + 1) } })
    let d2 := d1.setTask s (some { t with loc := .ready h, since := d.time.tick, set := set, home := home })
    (d2.setReady h t.cls (d2.readyList h t.cls ++ [s])).stir h

/-- Tasks other than packet tasks (R132). -/
def Dev.nonPacket (d : Dev) : Nat :=
  (d.dsp.tasks.entries.filter (fun e => match e.2 with | some t => t.kind ≠ 1 | none => false)).length
/-- Packet tasks (R132). -/
def Dev.packetTasks (d : Dev) : Nat := d.dsp.tasks.entries.length - d.nonPacket
def Dev.postLimit (d : Dev) : Nat := d.fld .dspLimits 0 0 13 0
/-- Room for one more non-packet task (R132). -/
def Dev.shareRoom (d : Dev) : Bool := decide (d.nonPacket < d.postLimit)
/-- Room for one more packet task (R132). -/
def Dev.packetRoom (d : Dev) : Bool := decide (d.packetTasks < 16384 - d.postLimit)

/-- A free slot, any of them: the manual does not say which (R131). -/
def Dev.freeSlot (d : Dev) : Option Nat × Dev :=
  let (start, d1) := d.choose 16384
  (pickFrom 16384 start (fun s => (d1.task s).isNone) 16384, d1)

/-- A task enters a slot; DSP.TASKS counts it. -/
def Dev.newTask (d : Dev) (t : Task) : Option Nat × Dev :=
  match d.freeSlot with
  | (some s, d1) => (some s, (d1.setTask s (some t)).count64 .dspTasks 0 0 1)
  | (none, d1) => (none, d1)

/-- The handle of the task in a slot (R32, R131). -/
def Dev.taskHandle (d : Dev) (s : Nat) : Word × Word :=
  (⟨.handle, w16 (12 * 4096 + d.slotGen s % 4096)⟩, ⟨.handle, w16 s⟩)

/-! ### Events (R146) -/

/-- The record of an event task. R133 gives word 5 no contents for an event: the source's hearth set stands there (DESIGN CHOICE,
notes/assumptions/42.md). -/
def eventRecord (d : Dev) (n : Nat) (held : Nat) (payload : W16) : List Word :=
  [Word.plain (w16 (4 * 4096 + d.fld .dspEvt n 0 18 16 * 512)), Word.plain (w16 n), Word.zero, Word.zero, Word.zero,
   Word.plain (w16 (d.fld .dspEvt n 0 15 0)), Word.zero, Word.zero, Word.zero, Word.zero, Word.zero, Word.zero,
   Word.zero, Word.plain (w16 held), Word.plain payload, Word.zero]

/-- Word address of a thread's task area (R134). -/
def taskArea (g : Nat) : Nat := (0x4000000 + hearthOf g * 0x80000 + 0x70000 + (g % 128) * 0x140) / 2

/-- What a word that nothing has written since reads as: PLAIN zero in a filled range and POISON in one that powered up; elsewhere
POISON in the granary and the larders (R283, R398) and PLAIN zero in the packet store and LPDDR6, whose contents the spec leaves
undefined (R287, R387; DESIGN CHOICE, notes/assumptions/4.md). -/
def MemSt.dflt (m : MemSt) (wa : Nat) : Word :=
  match m.fills.find? (fun f => f.has wa) with
  | some f => if f.zero then Word.zero else Word.poison 0
  | none => if wa < 0x4000000 then Word.poison 0 else Word.zero

/-- Store words in memory as they stand, from a word address on: the store of an agent into a tagged region. -/
def Dev.poke (d : Dev) (wa : Nat) (ws : List Word) : Dev :=
  { d with mem := { d.mem with
      cells := ((List.range ws.length).zip ws).foldl (fun m kw => m.set (d.mem.dflt (wa + kw.1)) (wa + kw.1) kw.2)
        d.mem.cells } }

/-- An event task is formed for source `n`, standing for `held` events: word 13 starts at that count, where R146 has it 1 when the task is
formed and has held events counted (DESIGN CHOICE, notes/assumptions/42.md). With no slot free at all the source holds them, as it does
where the non-packet share is full (DESIGN CHOICE, the same entry). -/
def Dev.formEvent (d : Dev) (n held : Nat) (payload : W16) : Dev :=
  let t : Task := { words := eventRecord d n held payload, banked := [], loc := .ready 0, since := d.time.tick,
                    stagedAt := 0, aff := false, set := 0, home := none, ticket := none, deadline := false, overtaken := false, cancelled := false }
  match d.newTask t with
  | (some s, d1) =>
    let d2 := { d1 with dsp := { d1.dsp with evts := d1.dsp.evts.set ⟨0, 0, none⟩ n ⟨0, payload, some s⟩ } }
    d2.placeReady s
  | (none, d1) => { d1 with dsp := { d1.dsp with evts := d1.dsp.evts.set ⟨0, 0, none⟩ n ⟨held, payload, none⟩ } }

/-- Event `n` arises with a payload: it joins the task that stands for its number, or forms one, or waits for a slot. -/
def Dev.raiseEvent (d : Dev) (n : Nat) (payload : W16) : Dev :=
  if d.bit .dspEvt n 0 31 then
    let e := d.dsp.evts.get ⟨0, 0, none⟩ n
    match e.slot with
    | some s =>
      match d.task s with
      | some t =>
        let cnt := w16 (min ((t.word 13).v.toNat + 1) 0xFFFF)
        let ws := (t.words.set 13 (Word.plain cnt)).set 14 (Word.plain payload)
        let d1 := d.setTask s (some { t with words := ws })
        match t.loc with
        | .staged g => d1.poke (taskArea g + 13) [Word.plain cnt, Word.plain payload]
        | _ => d1
      | none => d
    | none =>
      if d.shareRoom ∧ e.held = 0 then d.formEvent n 1 payload
      else { d with dsp := { d.dsp with
               evts := d.dsp.evts.set ⟨0, 0, none⟩ n ⟨min (e.held + 1) 0xFFFF, payload, none⟩ } }
  else d

/-- A slot has freed: the lowest-numbered source that holds events forms its task. -/
def Dev.deliverHeld (d : Dev) : Dev :=
  if d.shareRoom then
    match d.dsp.evts.entries.find? (fun e => 0 < e.2.held) with
    | some (n, e) => d.formEvent n e.held e.payload
    | none => d
  else d

/-- A slot is freed and its generation advances (R131); a held event may take it. -/
def Dev.releaseSlot (d : Dev) (s : Nat) : Dev :=
  let d1 := d.setTask s none
  let d2 := { d1 with dsp := { d1.dsp with gens := d1.dsp.gens.upd 0 s (fun x => (x + 1) % 4096) } }
  d2.deliverHeld

/-! ### The log book's sources (R401–R405) -/

/-- The block code of a set-up offset (R47, R401). -/
def blockOf (off : Nat) : Nat :=
  if off < 0x10000 then 19 else if off < 0x20000 then 0 else if off < 0x30000 then 1 else if off < 0x40000 then 2
  else if off < 0x80000 then 3 else if off < 0xA0000 then 4 else if off < 0x100000 then 5
  else if off < 0x200000 then 6 else if off < 0x240000 then 7 else if off < 0x280000 then 8
  else if off < 0x300000 then 9 else if off < 0x340000 then 10 else if off < 0x380000 then 11
  else if off < 0x3C0000 then 12 else if off < 0x400000 then 13 else if off < 0x480000 then 14
  else if off < 0x500000 then 15 else if off < 0x580000 then 16 else if off < 0x800000 then 17 else 18

/-- The instance of a set-up offset: the index of the block copy (R401). -/
def instOf (off : Nat) : Nat :=
  if 0x80000 ≤ off ∧ off < 0xA0000 then (off - 0x80000) / 0x1000
  else if 0x100000 ≤ off ∧ off < 0x200000 then (off - 0x100000) / 0x40000
  else if 0x341000 ≤ off ∧ off < 0x342000 then (off - 0x341000) / 0x40
  else if 0x400100 ≤ off ∧ off < 0x400200 then (off - 0x400100) / 0x40
  else if 0x484000 ≤ off ∧ off < 0x48C000 then (off - 0x484000) / 0x20
  else if 0x501000 ≤ off ∧ off < 0x503000 then (off - 0x501000) / 0x100
  else if 0x800000 ≤ off then (off - 0x800000) / 0x80000
  else 0

/-- A record arises at its source: it becomes the first, or the last in place of the one before, which is lost. -/
def Dev.fileRec (d : Dev) (r : LogRec) : Dev × Option Nat :=
  let k := r.block * 1024 + r.inst
  let s := d.log.srcs.get ⟨none, none, 0⟩ k
  let put := fun (s' : LogSrc) (d : Dev) =>
    { d with log := { d.log with srcs := d.log.srcs.set ⟨none, none, 0⟩ k s' } }
  match s.first, s.last with
  | none, _ => (put { s with first := some r, pend := 0 } d, none)
  | some _, none => (put { s with last := some r, pend := s.pend + 1 } d, none)
  | some _, some old => (put { s with last := some { r with coal := true }, pend := s.pend + 1 } d, some old.sev)

/-- ERR.LOST, IRQ_PEND.LOST and the LOST record's counts take one lost record of severity `sev`. -/
def Dev.lose (d : Dev) (sev : Nat) : Dev × Bool :=
  let (d1, sat) := d.bump32 .errLost sev 0 1
  (({ d1 with log := { d1.log with lost := d1.log.lost.upd 0 sev (fun x => min (x + 1) 0xFFFF) } }).setBit
    .errIrqPend 0 0 1 true, sat)

/-- Saturation of an error counter of block `b` at an offset (R407): ERR.SAT, IRQ_PEND.SAT and event 170; the record. -/
def Dev.saturated (d : Dev) (b : Nat) : Dev :=
  ((d.setBit .errSat 0 0 b true).setBit .errIrqPend 0 0 2 true).raiseEvent 170 (w16 b)

/-- A COUNTER_SAT record (R402 code 0x10). -/
def satRecord (d : Dev) (b inst off : Nat) : LogRec :=
  ⟨0, b, 0x10, inst, w16 (off / 65536), w16 off, 0, d.time.ns, false⟩

/-- A record is filed; one that it displaces is lost, and the saturation of that loss counter is recorded in turn (R407). `n` bounds the
saturations: each of the four loss counters saturates once. -/
def Dev.fileAll (d : Dev) (r : LogRec) : Nat → Dev
  | 0 => d
  | n + 1 =>
    match d.fileRec r with
    | (d1, none) => d1
    | (d1, some sev) =>
      match d1.lose sev with
      | (d2, false) => d2
      | (d2, true) =>
        let d3 := d2.saturated 2
        (d3.count64 .errRecords 0 0 1).fileAll (satRecord d3 2 0 (CtrKind.off .errLost sev 0)) n

/-- A record arises (R404): ERR.RECORDS counts it, a fatal one sets FATAL and FIRST_FATAL (R406), and it is filed. -/
def Dev.logRec (d : Dev) (r : LogRec) : Dev :=
  let d1 := d.count64 .errRecords r.sev 0 1
  let w0 := r.sev * 16384 + r.block * 256 + r.code
  let d2 := if r.sev = 3 then
      let d2 := if d1.bit .errFault 0 0 0 then d1 else
        (((d1.wr .errFirstFatal 0 0 (join16 (w16 w0) (w16 r.inst))).wr .errFirstFatal 1 0 (join16 r.d2 r.d3)).wr
          .errFirstFatal 2 0 (join16 r.d4 (w16 (r.time.toNat / 2 ^ 32)))).wr .errFirstFatal 3 0 (r.time.truncate 32)
      d2.setBit .errFault 0 0 0 true
    else d1
  d2.fileAll r 5

/-- A record of a severity, block, code, instance and detail, at the present time. -/
def Dev.log4 (d : Dev) (sev block code inst : Nat) (d2 d3 d4 : W16) : Dev :=
  d.logRec ⟨sev, block, code, inst, d2, d3, d4, d.time.ns, false⟩

/-- An error counter counts `n`; its saturation has the effects of R407. -/
def Dev.count32 (d : Dev) (k : CtrKind) (i j n : Nat) : Dev :=
  match d.bump32 k i j n with
  | (d1, false) => d1
  | (d1, true) =>
    (d1.saturated k.desc.block).logRec (satRecord d1 k.desc.block (instOf (k.off i j)) (k.off i j))

/-- Count one event of a counter, by its width. -/
def Dev.count (d : Dev) (k : CtrKind) (i : Nat := 0) (j : Nat := 0) (n : Nat := 1) : Dev :=
  if k.desc.width = 64 then d.count64 k i j n else d.count32 k i j n

/-! ### Requesters -/

/-- The requester word of a log record (R402). -/
def Req.word : Req → W16
  | .boot => 0
  | .host => 1
  | .spi => 2
  | .jtag => 3
  | .thread g => w16 (0x8000 + g)

/-- A set-up reject (R5, R402 code 0x01): low severity, the offset and the requester. -/
def Dev.reject (d : Dev) (r : Req) (off : Nat) : Dev :=
  d.log4 0 (blockOf off) 0x01 (instOf off) (w16 (off / 65536)) (w16 off) r.word

/-! ### The host event ring's queue (R366) and FAULT_N (R406) -/

/-- An entry of eight record words for the host event ring, with the device time in words 8–11: it waits in the 16-entry
queue, or is lost and counted. -/
def Dev.hostEvent (d : Dev) (rec8 : List W16) : Dev :=
  let t := d.time.ns.toNat
  let ws := rec8 ++ [w16 (t / 2 ^ 48), w16 (t / 2 ^ 32), w16 (t / 65536), w16 t, 0, 0, 0, 0]
  if d.lnk.evtq.length < 16 then { d with lnk := { d.lnk with evtq := d.lnk.evtq ++ [ws] } }
  else ({ d with lnk := { d.lnk with evtLost := d.lnk.evtLost + 1 } }).count .lnkEvtLost

/-- ERR.FAULT.HOST_REPORT: FAULT_N is asserted (R406). -/
def Dev.hostReport (d : Dev) : Dev := d.setBit .errFault 0 0 1 true

/-- FAULT_N is asserted while a bit of ERR.FAULT is set (R406). -/
def Dev.faultN (d : Dev) : Bool := d.fld .errFault 0 0 3 0 ≠ 0

/-- IRQ_N is asserted while (IRQ_PEND and IRQ_EN) is nonzero (R406). -/
def Dev.irqN (d : Dev) : Bool := d.fld .errIrqPend 0 0 3 0 &&& d.fld .errIrqEn 0 0 3 0 ≠ 0

end Sys2Proof.Machine
end

