-- ==== Sys2Proof/Machine/Mem.lean ====
section
/-!
DEFINITION. The physical address map (R44–R46, R283–R286), the words of memory with the rules of tagged and plain regions
(R39–R43), and the stores and loads of the agents that address physically.
-/
namespace Sys2Proof.Machine

/-! ### The map -/

/-- What a physical address names (R44, R45). -/
inductive Region where
  | granary (bank : Nat)
  | larder (h : Nat)
  | packet
  | window (h : Nat)
  | setup
  | lockWin
  | lpddr (c : Nat)
  | host (w : Nat)
  | reserved
  | absent
  | hostOff
  | shadow
deriving DecidableEq, Repr

/-- Channel `c` is enabled, trained and its domain ON, and serves an LPDDR6 address (R285). -/
def Dev.mcServes (d : Dev) (c pa : Nat) : Bool :=
  let v := d.rd .memMcCfg c
  let base := bits v 23 16 * 2 ^ 30
  let size := bits v 3 0 * 2 ^ 30
  let intl := bits v 9 8
  v.getLsbD 31 && d.bit .memMcStatus c 0 31 && d.domFull (domMc c) &&
  (if intl = 0 then decide (base ≤ pa ∧ pa < base + size)
   else if intl = 1 then decide (base ≤ pa ∧ pa < base + 2 * size ∧ pa / 4096 % 2 = c % 2)
   else decide (base ≤ pa ∧ pa < base + 4 * size ∧ pa / 4096 % 4 = c))

/-- The channel that serves an LPDDR6 address. -/
def Dev.channelOf (d : Dev) (pa : Nat) : Option Nat := (List.range 4).find? (fun c => d.mcServes c pa)

/-- The enabled region that covers an LPDDR6 address (R286). -/
def Dev.memRegion (d : Dev) (pa : Nat) : Option Nat :=
  (List.range 16).find? (fun r =>
    let base := d.fld .memRegBase r 0 9 0 * 2 ^ 26
    let size := d.fld .memRegSize r 0 9 0 * 2 ^ 26
    d.bit .memRegCtrl r 0 31 && decide (base ≤ pa ∧ pa < base + size))

/-- The address lies in the shadow of an enabled tagged region (R286). -/
def Dev.inShadow (d : Dev) (pa : Nat) : Bool :=
  (List.range 16).any (fun r =>
    let base := d.fld .memRegShadow r 0 12 0 * 2 ^ 23
    let size := d.fld .memRegSize r 0 9 0 * 2 ^ 23
    d.bit .memRegCtrl r 0 31 && d.bit .memRegCtrl r 0 30 && decide (base ≤ pa ∧ pa < base + size))

/-- What a physical address names. -/
def Dev.region (d : Dev) (pa : Nat) : Region :=
  if pa < 0x2000000 then .granary (pa / 0x400000)
  else if 0x4000000 ≤ pa ∧ pa < 0x4800000 then .larder ((pa - 0x4000000) / 0x80000)
  else if 0x8000000 ≤ pa ∧ pa < 0x9000000 then .packet
  else if 0xC000000 ≤ pa ∧ pa < 0xC100000 then .window ((pa - 0xC000000) / 0x10000)
  else if 0xE000000 ≤ pa ∧ pa < 0xF000000 then .setup
  else if 0xF000000 ≤ pa ∧ pa < 0xF008000 then .lockWin
  else if 0x100000000 ≤ pa ∧ pa < 0x900000000 then
    if d.inShadow pa then .shadow
    else match d.channelOf pa with
      | some c => .lpddr c
      | none => .absent
  else if 0x900000000 ≤ pa ∧ pa < 0x1000000000 then
    let w := (pa - 0x900000000) / 0x70000000
    if d.bit .lnkHwinCtrl w 0 31 then .host w else .hostOff
  else .reserved

/-- The host address of an address in window `w` (R357). -/
def Dev.hostAddr (d : Dev) (w pa : Nat) : W64 :=
  BitVec.ofNat 64 ((d.rd .lnkHwinBaseHi w).toNat * 2 ^ 32 + (d.rd .lnkHwinBaseLo w).toNat
    + (pa - (0x900000000 + w * 0x70000000)))

/-- The address lies in a store that is memory, with its domain not off. -/
def Dev.memOk (d : Dev) (pa : Nat) : Bool :=
  match d.region pa with
  | .granary b => d.domOn (domGran b)
  | .larder h => d.domOn (domHearth h)
  | .packet => true
  | .lpddr _ => true
  | _ => false

/-- The address lies in a tagged store (R39). -/
def Dev.tagged (d : Dev) (pa : Nat) : Bool :=
  match d.region pa with
  | .granary _ => true
  | .larder _ => true
  | .lpddr _ =>
    match d.memRegion pa with
    | some r => d.bit .memRegCtrl r 0 30
    | none => false
  | _ => false

/-- The tagged region an address lies in, as R430 counts them: the granary, a larder, or a region of KIND tagged. -/
def Dev.taggedRegion (d : Dev) (pa : Nat) : Option Nat :=
  match d.region pa with
  | .granary _ => some 0
  | .larder h => some (1 + h)
  | .lpddr _ =>
    match d.memRegion pa with
    | some r => if d.bit .memRegCtrl r 0 30 then some (100 + r) else none
    | none => none
  | _ => none

/-- The region that covers the address is being filled: accesses wait (R287). -/
def Dev.filling (d : Dev) (pa : Nat) : Bool :=
  match d.region pa with
  | .lpddr _ =>
    match d.memRegion pa with
    | some r => d.mem.init.get false r
    | none => false
  | _ => false

/-! ### Words -/

/-- The stored word at a word address. -/
def MemSt.word (m : MemSt) (wa : Nat) : Word := m.cells.get (m.dflt wa) wa

/-- Store a word. -/
def MemSt.put (m : MemSt) (wa : Nat) (w : Word) : MemSt := { m with cells := m.cells.set (m.dflt wa) wa w }

/-- A range becomes wholly PLAIN zero or wholly POISON. A fill that the new one covers is forgotten. -/
def MemSt.fillAs (m : MemSt) (f : Fill) : MemSt :=
  { m with cells := m.cells.filter (fun k _ => !f.has k),
           fills := f :: m.fills.filter (fun x => ¬ (f.lo ≤ x.lo ∧ x.hi ≤ f.hi ∧ (f.n = 1 ∨ (f.n = x.n ∧ f.r = x.r)))),
           ecc := m.ecc.filter (fun k _ => !f.has (if 0x100000000000 ≤ k then k - 0x100000000000 else k * 4)) }

/-- A range of word addresses becomes wholly PLAIN zero or wholly POISON. -/
def MemSt.fill (m : MemSt) (lo hi : Nat) (zero : Bool) : MemSt := m.fillAs ⟨lo, hi, zero, 1, 0⟩

/-- The address lies in the buffer state area (R254). -/
def Dev.inStateArea (d : Dev) (pa : Nat) : Bool :=
  let base := d.fld .bpmStateBase 0 0 24 21 * 0x200000
  decide (base ≤ pa ∧ pa < base + 0x200000)

/-- The word at a byte address, as any agent but the buffer pool manager reads it, errors aside. A plain region holds no tag but
POISON (R41). -/
def Dev.peekWord (d : Dev) (pa : Nat) : Word :=
  if d.inStateArea pa then Word.plain (Config.stateAreaWord (pa / 2) d.time.free)
  else
    let w := d.mem.word (pa / 2)
    if w.isRef && !d.tagged pa then Word.plain w.v else w

/-- The check unit of an address: a word on chip, 8 bytes elsewhere (R39). -/
def Dev.eccKey (d : Dev) (pa : Nat) : Nat :=
  match d.region pa with
  | .granary _ => 0x100000000000 + pa / 2
  | .larder _ => 0x100000000000 + pa / 2
  | _ => pa / 8

/-- The record and count of an error found by a read (R41): `e` is 1 corrected, 2 uncorrectable. -/
def Dev.eccReport (d : Dev) (pa e : Nat) : Dev :=
  let sev := e - 1
  let code := 2 + e
  let rep := fun (d : Dev) (b i u : Nat) => d.log4 sev b code i (w16 (u / 2 ^ 32)) (w16 (u / 65536)) (w16 u)
  match d.region pa with
  | .granary b => rep d 14 (4 + b) (pa / 2 * 2)
  | .larder h => rep (if e = 1 then d.count .hthLarderCorr h else d.count .hthLarderUncorr h) 18 h (pa / 2 * 2)
  | .packet => rep d 10 0 (pa / 8 * 8)
  | .lpddr c => rep (if e = 1 then d.count .memCorr c else d.count .memUncorr c) 14 c (pa / 8 * 8)
  | _ => d

/-- The word at a byte address as a reader sees it: POISON where its check unit holds an uncorrectable error (R41). -/
def Dev.seenWord (d : Dev) (pa : Nat) : Word :=
  let w := d.peekWord pa
  if 2 ≤ d.mem.ecc.get 0 (d.eccKey pa) then Word.poison w.v else w

/-- One read meets the error of a check unit, if it holds one, and reports it once (R41). -/
def Dev.eccMeet (d : Dev) (pa : Nat) : Dev :=
  match d.mem.ecc.get 0 (d.eccKey pa) with
  | 0 => d
  | 1 => d.eccReport pa 1
  | _ => d.eccReport pa 2

/-- A read of `n` words from a byte address on meets each check unit once; `last` is the unit already met. -/
def Dev.eccScan (d : Dev) (pa : Nat) (last : Option Nat) : Nat → Dev
  | 0 => d
  | n + 1 =>
    let k := d.eccKey pa
    (if last = some k then d else d.eccMeet pa).eccScan (pa + 2) (some k) n

/-- LPDDR6 counts the bytes of `n` words that are read from a byte address on. -/
def Dev.countRead (d : Dev) (pa : Nat) : Nat → Dev
  | 0 => d
  | n + 1 => (match d.region pa with
    | .lpddr c => d.count .memBytes c 0 2
    | _ => d).countRead (pa + 2) n

/-- An agent reads `n` words of memory from a byte address on: an error in a check unit is corrected or poisons its words, and is
reported once for the read (R41); LPDDR6 bytes are counted. A unit that a POISON store made uncorrectable on purpose (R42) holds POISON
words and no error, so its reads report nothing (DESIGN CHOICE, notes/assumptions/45.md). -/
def Dev.readWords (d : Dev) (pa n : Nat) : List Word × Dev :=
  ((List.range n).map (fun k => d.seenWord (pa + 2 * k)), (d.countRead pa n).eccScan pa none n)

/-- An agent reads the word at a byte address of memory. -/
def Dev.readWord (d : Dev) (pa : Nat) : Word × Dev := (d.seenWord pa, (d.readWords pa 1).2)

/-- One word after a store of some of its bytes. A byte stored into a POISON word leaves it POISON, a byte of a POISON word
makes it POISON (R31), and no byte is stored into a HANDLE or TICKET word. -/
def mergeWord (old : Word) (x : WbWord) : Word :=
  if x.whole then x.w
  else if old.isRef then old
  else
    let v := (if x.hi then x.w.v &&& 0xFF00 else old.v &&& 0xFF00) |||
             (if x.lo then x.w.v &&& 0x00FF else old.v &&& 0x00FF)
    ⟨if old.isPoison ∨ x.w.isPoison then .poison else .plain, v⟩

/-- The words of one unit of a tagged region after a store: each is stored with its tag (R42). -/
def MemSt.storeTagged (m : MemSt) (wa : Nat) (ws : List WbWord) : MemSt :=
  ws.foldl (fun m x => m.put (wa + x.slot) (mergeWord (m.word (wa + x.slot)) x)) m

/-- The four words of a unit become POISON, their values as they were: the deliberately uncorrectable pattern of R42, kept as POISON words
and not as an error of the check unit (notes/assumptions/45.md). -/
def MemSt.poisonUnit (m : MemSt) (wa : Nat) : MemSt :=
  (List.range 4).foldl (fun m k => m.put (wa + k) (Word.poison (m.word (wa + k)).v)) m

/-- The words of one unit of a plain region after a store (R42): a POISON word poisons the unit, a HANDLE or TICKET word is not
written, and a store of fewer than 8 bytes into a poisoned unit leaves it poisoned. -/
def MemSt.storePlain (m : MemSt) (wa : Nat) (ws : List WbWord) (whole : Bool) : MemSt :=
  let keep := ws.filter (fun x => ¬ x.w.isRef)
  let pois := keep.any (fun x => x.w.isPoison) ||
    (¬ whole && (List.range 4).any (fun k => (m.word (wa + k)).isPoison))
  let m1 := keep.foldl (fun m x => m.put (wa + x.slot)
    { mergeWord (Word.plain (m.word (wa + x.slot)).v) x with tag := .plain }) m
  if pois then m1.poisonUnit wa else m1

/-- Words as a store of part of their check unit leaves them beside what it stores: as they were read, with fresh check bits (R286). -/
def MemSt.rewrite (m : MemSt) (key wa n : Nat) : MemSt :=
  let bad := decide (2 ≤ m.ecc.get 0 key)
  let m1 := (List.range n).foldl (fun m' k =>
    m'.put (wa + k) (if bad then Word.poison (m.word (wa + k)).v else m.word (wa + k))) m
  { m1 with ecc := m1.ecc.erase key }

/-- A store of part of a check unit of `n` words at a byte address reads, merges and writes it (R286): the read meets the error of the unit,
if it holds one, and what is written holds none. -/
def Dev.readModify (d : Dev) (pa n : Nat) : Dev :=
  if d.mem.ecc.get 0 (d.eccKey pa) = 0 then d
  else
    let d1 := d.eccMeet pa
    { d1 with mem := d1.mem.rewrite (d.eccKey pa) (pa / 2) n }

/-- The check units of an aligned 8-byte unit before words are stored there: those that are written whole hold no error any more, the others
are read and merged. -/
def Dev.beforeStore (d : Dev) (unit : Nat) (ws : List WbWord) (whole : Bool) : Dev :=
  let clear := fun (d : Dev) (key : Nat) =>
    if d.mem.ecc.get 0 key = 0 then d else { d with mem := { d.mem with ecc := d.mem.ecc.erase key } }
  if d.eccKey (unit * 8) < 0x100000000000 then
    if whole then clear d (d.eccKey (unit * 8)) else d.readModify (unit * 8) 4
  else ws.foldl (fun d x =>
    if x.whole then clear d (d.eccKey (unit * 8 + 2 * x.slot)) else d.readModify (unit * 8 + 2 * x.slot) 1) d

/-- Words are stored into one aligned 8-byte unit of memory (R42). A check unit that is written whole holds no error any more. -/
def Dev.storeNow (d : Dev) (unit : Nat) (ws : List WbWord) : Dev :=
  let wa := unit * 4
  let whole := decide ((ws.filter (fun x => x.hi && x.lo)).length = 4)
  let d1 := match d.region (unit * 8) with
    | .lpddr c => d.count .memBytes c 0 (ws.foldl (fun n (x : WbWord) => n + (if x.hi then 1 else 0) + (if x.lo then 1 else 0)) 0)
    | _ => d
  let d0 := d1.beforeStore unit ws whole
  { d0 with mem := if d.tagged (unit * 8) then d0.mem.storeTagged wa ws else d0.mem.storePlain wa ws whole }

/-- A store of words into one aligned 8-byte unit of memory: in a region that is being filled it waits (R287). -/
def Dev.storeUnit (d : Dev) (unit : Nat) (ws : List WbWord) : Dev :=
  if d.filling (unit * 8) then { d with mem := { d.mem with held := d.mem.held ++ [(unit, ws)] } } else d.storeNow unit ws

/-- The stores that waited for a region to be filled go on, in their order. -/
def Dev.storeHeld (d : Dev) : Dev :=
  d.mem.held.foldl (fun d x => d.storeUnit x.1 x.2) { d with mem := { d.mem with held := [] } }

/-- Whole words of one unit. -/
def wholeWords (first : Nat) (ws : List Word) : List WbWord :=
  ((List.range ws.length).zip ws).map (fun kw => ⟨first + kw.1, kw.2, true, true, true⟩)

/-- An agent stores words from an even byte address on, unit by unit; `n` bounds the units. -/
def Dev.storeFuel (d : Dev) (pa : Nat) (ws : List Word) : Nat → Dev
  | 0 => d
  | n + 1 =>
    match ws with
    | [] => d
    | _ =>
      let k := pa / 2 % 4
      let now := ws.take (4 - k)
      (d.storeUnit (pa / 8) (wholeWords k now)).storeFuel (pa / 8 * 8 + 8) (ws.drop (4 - k)) n

/-- An agent stores words from an even byte address on. -/
def Dev.storeWords (d : Dev) (pa : Nat) (ws : List Word) : Dev := d.storeFuel pa ws (ws.length + 1)

/-- Pairs of bytes as words, the first byte in V[15:8]; an odd last byte is padded with zero. -/
def bytesToWords : List W8 → List Word
  | [] => []
  | [a] => [Word.plain (a.append (0 : W8))]
  | a :: b :: r => Word.plain (a.append b) :: bytesToWords r

/-- The bytes of words, high byte first. -/
def wordsToBytes (ws : List Word) : List W8 :=
  (ws.map (fun (w : Word) => [(w.v >>> (8 : Nat)).truncate 8, w.v.truncate 8])).flatten

/-- The words of one unit that some bytes from a byte address on make. -/
def unitWords (pa : Nat) (bs : List (W8 × Bool)) : List WbWord :=
  (List.range 4).filterMap (fun k =>
    let h := if pa % 8 ≤ 2 * k then bs[2 * k - pa % 8]? else none
    let l := if pa % 8 ≤ 2 * k + 1 then bs[2 * k + 1 - pa % 8]? else none
    match h, l with
    | none, none => none
    | _, _ =>
      let p := (h.map Prod.snd).getD false || (l.map Prod.snd).getD false
      some ⟨k, ⟨if p then .poison else .plain, ((h.map Prod.fst).getD 0).append ((l.map Prod.fst).getD 0)⟩,
            h.isSome, l.isSome, h.isSome && l.isSome⟩)

/-- An agent stores bytes from any byte address on, unit by unit; `n` bounds the units. -/
def Dev.storeBytesFuel (d : Dev) (pa : Nat) (bs : List (W8 × Bool)) : Nat → Dev
  | 0 => d
  | n + 1 =>
    match bs with
    | [] => d
    | _ =>
      (d.storeUnit (pa / 8) (unitWords pa (bs.take (8 - pa % 8)))).storeBytesFuel (pa / 8 * 8 + 8)
        (bs.drop (8 - pa % 8)) n

/-- An agent stores bytes, each with whether it is poisoned. -/
def Dev.storeBytes (d : Dev) (pa : Nat) (bs : List (W8 × Bool)) : Dev := d.storeBytesFuel pa bs (bs.length + 1)

/-- An agent reads `n` bytes from a byte address on, each with whether its word is POISON; a byte of a HANDLE or TICKET word
is its value. -/
def Dev.readBytes (d : Dev) (pa n : Nat) : List (W8 × Bool) × Dev :=
  let first := pa / 2 * 2
  let cnt := (pa + n + 1) / 2 - pa / 2
  let (ws, d1) := d.readWords first cnt
  let bs := (ws.map (fun (w : Word) => [((w.v >>> (8 : Nat)).truncate 8, w.isPoison), (w.v.truncate 8, w.isPoison)])).flatten
  ((bs.drop (pa - first)).take n, d1)

/-! ### Messages to the host (R350, R358) -/

/-- The link is ACTIVE (R343). -/
def Dev.linkUp (d : Dev) : Bool := d.domOn domLink && d.fld .lnkStatus 0 0 27 24 == 6

/-- Queue flits of credit type `ct` for the card, in order. -/
def Dev.sendFlits (d : Dev) (fs : List (FlitBody × Nat)) : Dev :=
  { d with lnk := { d.lnk with waiting := d.lnk.waiting ++ fs } }

/-- The data flits of a message (R349, R350): 32 bytes in word form where the next 36 bytes hold a POISON word, else 36 bytes
in byte form. -/
def dataFlits (ct : Nat) (ws : List Word) : Nat → List (FlitBody × Nat)
  | 0 => []
  | n + 1 =>
    match ws with
    | [] => []
    | _ =>
      let wf := (ws.take 18).any Word.isPoison
      let k := if wf then 16 else 18
      (.data wf (decide (ws.length ≤ k)) (ws.take k), ct) :: dataFlits ct (ws.drop k) n

/-- A memory write of words to a host address: posted, or lost when the link is not ACTIVE (R345). -/
def Dev.hostWrite (d : Dev) (addr : W64) (ws : List Word) : Dev × Bool :=
  if d.linkUp then
    (d.sendFlits ((.mwr addr (2 * ws.length), 0) :: dataFlits 0 ws (ws.length + 1)), true)
  else (d.count .lnkWrLost, false)

/-- The free tag for a read, if one is free (R350). -/
def Dev.freeTag (d : Dev) : Option Nat := (List.range 256).find? (fun t => (d.lnk.reads.get none t).isNone)

/-- A read of a host address is sent under a free tag. -/
def Dev.hostRead (d : Dev) (agent : RdAgent) (addr : W64) (len : Nat) : Option (Nat × Dev) :=
  match d.freeTag with
  | none => none
  | some t =>
    some (t, ({ d with lnk := { d.lnk with
      reads := d.lnk.reads.set none t (some ⟨agent, addr, len, d.time.tick⟩) } }).sendFlits [(.mrd addr len t, 1)])

/-- The store of an agent that writes records (the log writer, the tally, the mills): to the granary, LPDDR6 or the larders,
or through a host window. The Bool says that the target accepted it; one to a region being filled waits there (R287). -/
def Dev.agentStore (d : Dev) (pa : Nat) (ws : List Word) : Dev × Bool :=
  match d.region pa with
  | .host w => d.hostWrite (d.hostAddr w pa) ws
  | _ => if d.memOk pa then (d.storeWords pa ws, true) else (d, false)

end Sys2Proof.Machine
end

