-- ==== Sys2Proof/Machine/Pool.lean ====
section
/-!
DEFINITION. The buffer pool manager and the copy engine (R252–R265): handles and generations, allocation with fallback,
freeing, lossless accounting, buffer heads, and copies.
-/
namespace Sys2Proof.Machine

/-! ### Pools (R252–R254) -/

/-- The buffer size of a pool (R252). -/
def poolSize (n : Nat) : Nat := [96, 192, 384, 768, 1536, 3072, 9216, 16384].getD n 0
def Dev.poolPad (d : Dev) (n : Nat) : Nat := d.fld .bpmPoolCfg n 0 7 0
def Dev.poolEn (d : Dev) (n : Nat) : Bool := d.bit .bpmPoolCfg n 0 31
def Dev.poolReady (d : Dev) (n : Nat) : Bool := d.bit .bpmPoolStat n 0 31
def Dev.poolCount (d : Dev) (n : Nat) : Nat := d.fld .bpmPoolCount n 0 16 0
def Dev.poolBase (d : Dev) (n : Nat) : Nat :=
  d.fld .bpmPoolBaseHi n 0 3 0 * 2 ^ 32 + (d.rd .bpmPoolBaseLo n).toNat / 64 * 64
def Dev.poolFree (d : Dev) (n : Nat) : Nat := d.bpm.free.get 0 n
def Dev.poolReserve (d : Dev) (n : Nat) : Nat := d.fld .bpmPoolReserve n 0 16 0
/-- The byte address of a buffer (R253). -/
def Dev.bufAddr (d : Dev) (n i : Nat) : Nat := d.poolBase n + i * poolSize n

/-- Part of the pool's span lies in LPDDR6 that no READY channel serves (R259). A span is at most 1 GiB and a channel serves
whole GiB, interleaved by 4 KiB, so the first four pages of the span and of each GiB that it runs on into decide. -/
def Dev.poolDark (d : Dev) (n : Nat) : Bool :=
  let b := d.poolBase n
  let e := b + d.poolCount n * poolSize n - 1
  let gib := 2 ^ 30
  decide (0x100000000 ≤ b) &&
    [b / 4096 * 4096, (b / gib + 1) * gib, (b / gib + 2) * gib].any (fun s =>
      (List.range 4).any (fun k => decide (s + k * 4096 ≤ e) && (d.channelOf (s + k * 4096)).isNone))

/-- The pool counts as empty for an allocation (R259). -/
def Dev.poolEmpty (d : Dev) (n : Nat) (lossy : Bool) : Bool :=
  !d.poolReady n || d.poolDark n || d.poolFree n == 0 || (lossy && decide (d.poolFree n ≤ d.poolReserve n))

/-- Frame length `l` fits an enabled pool (R259). -/
def Dev.poolFits (d : Dev) (n l : Nat) : Bool := d.poolEn n && decide (l + 16 + d.poolPad n ≤ poolSize n)

/-! ### Buffers and handles (R32–R34, R255) -/

def bufKey (n i : Nat) : Nat := n * 65536 + i
def Buf.init : Buf := ⟨0, false, none, 0, false⟩
def Dev.buf (d : Dev) (n i : Nat) : Buf := d.bpm.bufs.get Buf.init (bufKey n i)
def Dev.setBuf (d : Dev) (n i : Nat) (b : Buf) : Dev :=
  { d with bpm := { d.bpm with bufs := d.bpm.bufs.set Buf.init (bufKey n i) b } }

/-- The kind, generation and index of a HANDLE pair (R32, R33). -/
def handleOf (h l : Word) : Option (Nat × Nat × Nat) :=
  if h.tag = .handle ∧ l.tag = .handle then some (h.v.toNat / 4096, h.v.toNat % 4096, l.v.toNat) else none

/-- The handle pair of a kind, generation and index. -/
def mkHandle (kind gen idx : Nat) : Word × Word :=
  (⟨.handle, w16 (kind * 4096 + gen % 4096)⟩, ⟨.handle, w16 idx⟩)

/-- A buffer handle names a buffer of a READY pool with its current generation (R34, R255). -/
def Dev.bufCurrent (d : Dev) (kind gen idx : Nat) : Bool :=
  decide (kind < 8) && d.poolReady kind && decide (idx < d.poolCount kind) && decide (gen = (d.buf kind idx).gen)

/-! ### XOFF (R265) -/

/-- Evaluate XOFF for a port: on a change its STAT bit changes and a PFC frame falls due; one of zero time does only while a priority is
signalled, and what was due before falls away. -/
def Dev.xoffPort (d : Dev) (p : Nat) : Dev :=
  let used := d.bpm.used.get 0 p
  let low := (List.range 8).any (fun n => d.poolReady n && decide (d.poolFree n ≤ d.poolReserve n))
  let was := d.bit .bpmLlStat p 0 31
  let holds := decide (d.fld .bpmLlThresh p 0 31 16 * 64 ≤ used) || low
  let now := holds || (was && !decide (used ≤ d.fld .bpmLlThresh p 0 15 0 * 64))
  if now = was then d else
    let d1 := d.setBit .bpmLlStat p 0 31 now
    let none := d.fld .bpmLlCfg p 0 15 8 &&& d.fld .prtFc p 0 7 0 == 0
    { d1 with bpm := { d1.bpm with pfcDue := d1.bpm.pfcDue.set 0 p (if now then 1 else if none then 0 else 2) } }

/-- Evaluate XOFF for every port. -/
def Dev.xoff (d : Dev) : Dev := (List.range 32).foldl Dev.xoffPort d

/-! ### Allocation (R259) -/

/-- Take a free buffer of pool `n`, any of them, charged to a port's lossless account or to none: its index. -/
def Dev.takeBuf (d : Dev) (n : Nat) (charge : Option Nat) : Option (Nat × Dev) :=
  let (start, d1) := d.choose (max (d.poolCount n) 1)
  match pickFrom (d.poolCount n) start (fun i => !(d1.buf n i).alloc && !(d1.buf n i).freed) (d.poolCount n) with
  | none => none
  | some i =>
    let b := d1.buf n i
    let d2 := d1.setBuf n i { b with alloc := true, charge := charge }
    let d3 := { d2 with bpm := { d2.bpm with
      free := d2.bpm.free.upd 0 n (· - 1),
      used := match charge with
        | some p => d2.bpm.used.upd 0 p (· + poolSize n)
        | none => d2.bpm.used } }
    some (i, (d3.count .bpmAlloc n).xoff)

/-- What an allocation gives: a pool, index and generation, or nothing, with the first pool tried. -/
structure Alloc where
  got : Option (Nat × Nat × Nat)
  first : Option Nat

/-- Allocate from the first of some pools that does not count as empty. -/
def Dev.allocIn (d : Dev) (lossy : Bool) (charge : Option Nat) : List Nat → Option ((Nat × Nat × Nat) × Dev)
  | [] => none
  | n :: r =>
    if d.poolEmpty n lossy then d.allocIn lossy charge r
    else match d.takeBuf n charge with
      | some (i, d1) => some ((n, i, (d.buf n i).gen), d1)
      | none => d.allocIn lossy charge r

/-- An allocation by length (R259): the smallest enabled pool that fits, then each larger; FALLBACK and NOBUF are counted
against the first pool tried. -/
def Dev.allocLen (d : Dev) (l : Nat) (lossy : Bool) (charge : Option Nat) : Alloc × Dev :=
  let pools := (List.range 8).filter (fun n => d.poolFits n l)
  match pools with
  | [] => (⟨none, none⟩, d)
  | f :: _ =>
    match d.allocIn lossy charge pools with
    | some ((n, i, g), d1) => (⟨some (n, i, g), some f⟩, if n = f then d1 else d1.count .bpmFallback f)
    | none => (⟨none, some f⟩, d.count .bpmNobuf f)

/-! ### Freeing (R34, R261, R264) -/

/-- A buffer's generation advances: every handle to it is stale, and its lossless charge ends. -/
def Dev.advanceGen (d : Dev) (n i : Nat) : Dev :=
  let b := d.buf n i
  let d1 := d.setBuf n i { b with gen := (b.gen + 1) % 4096, charge := none }
  match b.charge with
  | some p => ({ d1 with bpm := { d1.bpm with used := d1.bpm.used.upd 0 p (· - poolSize n) } }).xoff
  | none => d1

/-- A buffer joins its pool's free list. -/
def Dev.joinFree (d : Dev) (n i : Nat) : Dev :=
  let d1 := d.setBuf n i { d.buf n i with alloc := false, freed := false }
  ({ d1 with bpm := { d1.bpm with free := d1.bpm.free.upd 0 n (· + 1) } }).xoff

/-- Free a buffer: its generation advances, and it joins the free list, after the last read of a copy in flight. -/
def Dev.freeBuf (d : Dev) (n i : Nat) : Dev :=
  let b := d.buf n i
  let d1 := d.advanceGen n i
  if !b.alloc then d1
  else if 0 < b.reading then d1.setBuf n i { d1.buf n i with alloc := false, freed := true }
  else d1.joinFree n i

/-- Free the buffer that a handle pair names, if it names one with its current generation. -/
def Dev.freeHandle (d : Dev) (h l : Word) : Dev :=
  match handleOf h l with
  | some (k, g, i) => if d.bufCurrent k g i then d.freeBuf k i else d
  | none => d

/-! ### Buffer heads (R257, R258) -/

/-- Write a whole head: length, data offset, source port and PROTECTED, pool and generation, arrival time; words 6–7 zero. -/
def Dev.writeHead (d : Dev) (n i gen len src : Nat) (prot : Bool) (ts : W32) : Dev :=
  d.storeWords (d.bufAddr n i)
    [Word.plain (w16 len), Word.plain (w16 (16 + d.poolPad n)), Word.plain (w16 (src + (if prot then 128 else 0))),
     Word.plain (w16 (n * 4096 + gen)), Word.plain (hi16 ts), Word.plain (lo16 ts), Word.zero, Word.zero]

/-- Head words 0 and 1 of a valid head as LEN and DOFS (R258). -/
def headOf (size : Nat) (w0 w1 : Word) : Option (Nat × Nat) :=
  let len := w0.v.toNat
  let dofs := w1.v.toNat
  if w0.isPlain ∧ w1.isPlain ∧ len < 16384 ∧ dofs < 16384 ∧ 16 ≤ dofs ∧ 14 ≤ len ∧ dofs + len ≤ size then
    some (len, dofs)
  else none

/-- An agent reads LEN and DOFS of a buffer's head, if it is valid; an error in its check unit is met (R41, R258). -/
def Dev.head (d : Dev) (n i : Nat) : Option (Nat × Nat) × Dev :=
  let (ws, d1) := d.readWords (d.bufAddr n i) 2
  (headOf (poolSize n) (ws.getD 0 Word.zero) (ws.getD 1 Word.zero), d1)

/-- The buffer lies in a region that is being filled: its readers wait (R287). -/
def Dev.bufWaits (d : Dev) (n i : Nat) : Bool := d.filling (d.bufAddr n i) || d.filling (d.bufAddr n i + poolSize n - 1)

/-- Every byte of a span of memory is in a store that answers: one of each of its pages decides (R45). -/
def Dev.reachable (d : Dev) (pa n : Nat) : Bool :=
  (List.range (n / 4096 + 2)).all (fun k => d.memOk (min (pa + k * 4096) (pa + n - 1)))

/-- The buffer of a received frame lies in a region that is being filled. -/
def Dev.rxWaits (d : Dev) (e : RxEntry) : Bool :=
  match e.buf with
  | some (n, i, _) => d.bufWaits n i
  | none => false

/-- A frame's bytes with their poison as it stands now: what its receive entry says, and for its parse window the units of its buffer that
read POISON (R134, R177); and the device with the errors of those units reported (R41). -/
def Dev.rxWindow (d : Dev) (e : RxEntry) : List (W8 × Bool) × Dev :=
  match e.buf with
  | none => (e.bytes, d)
  | some (n, i, _) =>
    let a := d.bufAddr n i + 16 + d.poolPad n
    let len := min 256 e.bytes.length
    let bad := (List.range 33).map (fun u => (List.range 4).any (fun k => (d.seenWord ((a / 8 + u) * 8 + 2 * k)).isPoison))
    (((List.range e.bytes.length).zip e.bytes).map (fun kb =>
        (kb.2.1, kb.2.2 || (decide (kb.1 < 256) && bad.getD ((a + kb.1) / 8 - a / 8) false))),
      d.eccScan a none ((len + 1) / 2))

/-- A read of bytes `a` to `b` of a frame's parse window meets the errors of their check units in its buffer (R41). -/
def Dev.windowMeet (d : Dev) (e : RxEntry) (a b : Nat) : Dev :=
  match e.buf with
  | none => d
  | some (n, i, _) =>
    let pa := d.bufAddr n i + 16 + d.poolPad n
    d.eccScan ((pa + a) / 2 * 2) none ((pa + b) / 2 + 1 - (pa + a) / 2)

/-! ### Copies (R262, R263) -/

/-- How a copy request began. -/
inductive CopyStart where
  | started
  | badHead
  | noBuf
  | noReach
deriving DecidableEq, Repr

/-- The engine cannot read the source of a copy yet (R287). -/
def Dev.copyHeld (d : Dev) (q : CopyReq) : Bool := d.bufWaits q.srcPool q.srcIdx

/-- A copy in flight cannot end yet: one of its buffers lies in a region that is being filled. -/
def Dev.jobHeld (d : Dev) (j : CopyJob) : Bool := d.bufWaits j.srcPool j.srcIdx || d.bufWaits j.dstPool j.dstIdx

/-- Start a copy: check the source head, allocate a lossy buffer, and put the copy in flight. An invalid head counts for the
chimney's copies only. A copy whose source lies where no memory answers ends at once with an error completion (R45). -/
def Dev.startCopy (d0 : Dev) (q : CopyReq) : CopyStart × Dev :=
  if !d0.reachable (d0.bufAddr q.srcPool q.srcIdx) (poolSize q.srcPool) then (.noReach, d0) else
  let (hd, d) := d0.head q.srcPool q.srcIdx
  match hd with
  | none =>
    match q.who with
    | .chimney _ => (.badHead, d.count .bpmBadHead)
    | .thread _ _ => (.badHead, d)
  | some (len, dofs) =>
    match d.allocLen len true none with
    | (⟨some (n, i, g), _⟩, d1) =>
      let b := d1.buf q.srcPool q.srcIdx
      let d2 := d1.setBuf q.srcPool q.srcIdx { b with reading := b.reading + 1 }
      (.started, { d2 with bpm := { d2.bpm with
        copies := d2.bpm.copies ++ [⟨q.id, q.who, q.srcPool, q.srcIdx, n, i, g, len, dofs⟩] } })
    | (⟨none, _⟩, d1) => (.noBuf, d1)

/-- A buffer has been read once more: a free that waited for the last read takes effect (R261). -/
def Dev.readDone (d : Dev) (n i : Nat) : Dev :=
  let b := d.buf n i
  let d1 := d.setBuf n i { b with reading := b.reading - 1 }
  if b.reading ≤ 1 ∧ b.freed then d1.joinFree n i else d1

/-- Both buffers of a copy lie where memory answers. -/
def Dev.copyReach (d : Dev) (j : CopyJob) : Bool :=
  d.reachable (d.bufAddr j.srcPool j.srcIdx) (poolSize j.srcPool) && d.reachable (d.bufAddr j.dstPool j.dstIdx) (poolSize j.dstPool)

/-- The bytes and head words of a copy are written into its new buffer (R262 steps 3 and 4). A destination unit that takes a
byte from a poisoned source unit is written poisoned. -/
def Dev.copyData (d : Dev) (j : CopyJob) : Dev :=
  let src := d.bufAddr j.srcPool j.srcIdx
  let dst := d.bufAddr j.dstPool j.dstIdx
  let (bs, d1) := d.readBytes (src + j.dofs) j.len
  let d2 := d1.storeBytes (dst + 16 + d1.poolPad j.dstPool) bs
  let (hs, d3) := d2.readWords src 8
  let h := fun k => hs.getD k Word.zero
  let d4 := d3.storeWords dst [Word.plain (w16 j.len), Word.plain (w16 (16 + d3.poolPad j.dstPool)), h 2,
    Word.plain (w16 (j.dstPool * 4096 + j.dstGen)), h 4, h 5, h 6, h 7]
  ((d4.readDone j.srcPool j.srcIdx).count .bpmCopies).count .bpmCopyBytes 0 0 j.len

end Sys2Proof.Machine
end

