-- ==== Sys2Proof/Machine/Tasks.lean ====
section
/-!
DEFINITION. The life of a task and of a ticket (R130–R154): minting, skipping and releasing tickets, ending and cancelling
tasks, delay lists, posting, and the tally.
-/
namespace Sys2Proof.Machine

/-! ### Tickets (R35, R149–R151) -/

def Ticket.init : Ticket := ⟨.free, 0, 0, 0, none⟩
def Dev.tkt (d : Dev) (n : Nat) : Ticket := d.rel.tickets.get Ticket.init n
def Dev.setTkt (d : Dev) (n : Nat) (t : Ticket) : Dev :=
  { d with rel := { d.rel with tickets := d.rel.tickets.set Ticket.init n t } }
/-- The word of a ticket number at its epoch (R35). -/
def Dev.tktWord (d : Dev) (n : Nat) : Word := ⟨.ticket, w16 ((d.tkt n).epoch * 8192 + n)⟩

/-- Ticket numbers that are FREE (R149). -/
def Dev.tktFree (d : Dev) : Nat := 8192 - d.rel.fresh + d.rel.freed.length

/-- Mint a ticket in a domain: the number FREE longest (R149). -/
def Dev.mint (d : Dev) (dom : Nat) : Option (Nat × Dev) :=
  let enter := fun (n : Nat) (d : Dev) =>
    let d1 := d.setTkt n { d.tkt n with st := .held, dom := dom, minted := d.rel.mint, frame := none }
    { d1 with rel := { d1.rel with doms := d1.rel.doms.upd [] dom (· ++ [n]), mint := d1.rel.mint + 1 } }
  if d.rel.fresh < 8192 then
    some (d.rel.fresh, enter d.rel.fresh { d with rel := { d.rel with fresh := d.rel.fresh + 1 } })
  else match d.rel.freed with
    | n :: r => some (n, enter n { d with rel := { d.rel with freed := r } })
    | [] => none

/-- A HELD ticket becomes SKIPPED (R150). -/
def Dev.skipTkt (d : Dev) (n : Nat) : Dev :=
  let t := d.tkt n
  if t.st = .held then d.setTkt n { t with st := .skipped } else d

/-- A HELD ticket becomes RELEASED with a frame (R150). -/
def Dev.releaseTkt (d : Dev) (n : Nat) (f : RelFrame) : Dev :=
  let t := d.tkt n
  if t.st = .held then d.setTkt n { t with st := .released, frame := some f } else d

/-! ### The tally (R155, R156) -/

/-- The tally ring has room for a record. -/
def Dev.tallyRoom (d : Dev) : Bool :=
  let size := d.fld .dspTallyCfg 0 0 8 4
  d.bit .dspTallyCfg 0 0 0 &&
    decide ((d.fld .dspTallyProd 0 0 15 0 + 1) % 2 ^ size ≠ d.fld .dspTallyCons 0 0 15 0 % 2 ^ size)

/-- The tally's writer can begin a record in the present TICKCLK: it accepts one every 2 MILLCLK. The dispatch events of one TICKCLK are taken
to lie that far apart, six of them to a TICKCLK (DESIGN CHOICE, notes/assumptions/47.md). -/
def Dev.tallyFree (d : Dev) : Bool := decide (d.dsp.tallyAt ≤ d.millclk + 10)

/-- Write one tally record at PROD and advance PROD. -/
def Dev.tallyPut (d : Dev) (ws : List W16) : Dev :=
  let size := d.fld .dspTallyCfg 0 0 8 4
  let prod := d.fld .dspTallyProd 0 0 15 0 % 2 ^ size
  let base := d.fld .dspTallyBaseHi 0 0 3 0 * 2 ^ 32 + (d.rd .dspTallyBaseLo).toNat / 8 * 8
  let d1 := { d with dsp := { d.dsp with tallyAt := max d.dsp.tallyAt d.millclk + 2 } }
  (d1.agentStore (base + prod * 8) (ws.map Word.plain)).1.setFld .dspTallyProd 0 0 15 0 ((prod + 1) % 2 ^ size)

/-- The LOST record, when records have been lost and the ring has room. -/
def Dev.tallyLostPut (d : Dev) : Dev :=
  if 0 < d.dsp.tallyLost ∧ d.tallyRoom ∧ d.tallyFree then
    let n := BitVec.ofNat 32 d.dsp.tallyLost
    let d1 := d.tallyPut [0xF000, 0, hi16 n, lo16 n]
    { d1 with dsp := { d1.dsp with tallyLost := 0 } }
  else d

/-- A dispatch event of code `ev` is sampled (R156): for a task's class and slot, at a hearth or thread, with its wait. -/
def Dev.tally (d : Dev) (ev : Nat) (cls h g : Option Nat) (slot wait : Nat) (aff : Bool) : Dev :=
  let pass := d.bit .dspTallyCfg 0 0 0 && d.bit .dspTallyFilt 0 0 ev &&
    (match h with | some x => d.bit .dspTallyFilt 0 0 (16 + x) | none => true) &&
    (match cls with | some c => d.bit .dspTallyCfg 0 0 (16 + c) | none => true)
  if !pass then d else
    let n := d.dsp.tallyN + 1
    let d1 := { d with dsp := { d.dsp with tallyN := n } }
    if n % 2 ^ d.fld .dspTallyCfg 0 0 15 12 ≠ 0 then d1 else
      let d2 := d1.tallyLostPut
      if d2.dsp.tallyLost = 0 ∧ d2.tallyRoom ∧ d2.tallyFree then
        d2.tallyPut [w16 (ev * 4096 + cls.getD 0 * 512 + (if aff then 256 else 0) + min wait 255),
          (match g with | some x => w16 (0x8000 + x) | none => 0), w16 slot, (d2.time.ns >>> (8 : Nat)).truncate 16]
      else
        ({ d2 with dsp := { d2.dsp with tallyLost := min (d2.dsp.tallyLost + 1) 0xFFFFFFFF } }).count .dspTallyLost

/-- How long a task waited on its ready list, in units of 16 MILLCLK: up to now while it is on one, else up to its last staging (DEDUCED,
notes/assumptions/47.md). -/
def Dev.waited (d : Dev) (t : Task) : Nat :=
  match t.loc with
  | .ready _ => (d.time.tick - t.since) * 12 / 16
  | .delayed _ _ => 0
  | _ => (t.stagedAt - t.since) * 12 / 16

/-- The thread that a task is staged for or held by. -/
def Task.thread (t : Task) : Option Nat :=
  match t.loc with
  | .staged g => some g
  | .held g => some g
  | _ => none

/-- The hearth that a task is at: that of its ready list or its thread. -/
def Task.hearth (t : Task) : Option Nat :=
  match t.loc with
  | .ready h => some h
  | .delayed _ _ => none
  | .staged g => some (hearthOf g)
  | .held g => some (hearthOf g)

/-- A dispatch event of code `ev` at task `t` of slot `s` is sampled with the task's class, hearth, thread and wait (R155). -/
def Dev.tallyTask (d : Dev) (ev s : Nat) (t : Task) (aff : Bool) : Dev :=
  d.tally ev (some t.cls) t.hearth t.thread s (d.waited t) aff

/-! ### Ending tasks -/

/-- The verdict word, queue and port set in words 7–10 of a record, as a frame for the chimney. -/
def frameOf (h l : Word) (a q hi lo : Word) : RelFrame := ⟨h, l, a.v, q.v, join16 hi.v lo.v⟩

/-- The task's deadline is no longer pending. -/
def Dev.dropDeadline (d : Dev) (s : Nat) : Dev :=
  match d.task s with
  | some t =>
    if t.deadline then
      { d.setTask s (some { t with deadline := false }) with rel := { d.rel with deadlines := d.rel.deadlines - 1 } }
    else d
  | none => d

/-- Take a task off the ready lists and the delay lists. -/
def Dev.unlist (d : Dev) (s : Nat) : Dev :=
  match d.task s with
  | some t =>
    match t.loc with
    | .ready h => d.setReady h t.cls ((d.readyList h t.cls).erase s)
    | .delayed l _ => { d with dsp := { d.dsp with delay := d.dsp.delay.upd [] l (·.erase s) } }
    | _ => d
  | none => d

/-- A task ends: its slot frees (R131), and an event source forgets it. -/
def Dev.endTask (d : Dev) (s : Nat) : Dev :=
  match d.task s with
  | none => d
  | some t =>
    let d1 := (d.dropDeadline s).unlist s
    let d2 := if t.kind = 4 then
        let n := (t.word 1).v.toNat % 256
        let e := d1.dsp.evts.get ⟨0, 0, none⟩ n
        if e.slot = some s then
          { d1 with dsp := { d1.dsp with evts := d1.dsp.evts.set ⟨0, 0, none⟩ n { e with slot := none } } }
        else d1
      else d1
    d2.releaseSlot s

/-- The task's ticket is skipped (R18, R150) and the skip is sampled by the tally. -/
def Dev.skipTask (d : Dev) (s : Nat) : Dev :=
  match d.task s with
  | some t =>
    match t.ticket with
    | some n =>
      (((d.skipTkt n).setTask s (some { t with ticket := none })).dropDeadline s).tallyTask 6 s t false
    | none => d
  | none => d

/-- A task's frame is released: against its ticket while it holds one, else without order (R83, R150). The deadline ends. -/
def Dev.releaseTask (d : Dev) (s : Nat) (f : RelFrame) : Dev :=
  match d.task s with
  | some t =>
    let d1 := match t.ticket with
      | some n => (d.releaseTkt n f).setTask s (some { t with ticket := none })
      | none => { d with rel := { d.rel with loose := d.rel.loose ++ [f] } }
    (d1.dropDeadline s).tallyTask 5 s t false
  | none => d

/-! ### Delay lists (R143) -/

/-- The tick of a delay list in units of 10 ns, as in force now. -/
def Dev.tickOf (d : Dev) (l : Nat) : Nat :=
  match d.dsp.tickNext.get none l with
  | some (b, n) => if b.toNat ≤ d.time.ns.toNat then n else d.dsp.tick.get 100 l
  | none => d.dsp.tick.get 100 l

/-- The tick changes whose boundary the device time has reached are in effect for good (R143). -/
def Dev.tickCommit (d : Dev) : Dev :=
  d.dsp.tickNext.entries.foldl (fun d e => match e.2 with
    | some (b, n) =>
      if b.toNat ≤ d.time.ns.toNat then
        { d with dsp := { d.dsp with tick := d.dsp.tick.set 100 e.1 n, tickNext := d.dsp.tickNext.set none e.1 none } }
      else d
    | none => d) d

/-- After a set or step of the device time a tick change that has not taken effect waits for the next boundary of the old tick, and one
whose boundary was passed is in effect (R143). -/
def Dev.tickRebase (d : Dev) : Dev :=
  let d1 := d.tickCommit
  d1.dsp.tickNext.entries.foldl (fun d e => match e.2 with
    | some (_, n) =>
      let t := d.dsp.tick.get 100 e.1 * 10
      { d with dsp := { d.dsp with
          tickNext := d.dsp.tickNext.set none e.1 (some (BitVec.ofNat 64 ((d.time.ns.toNat / t + 1) * t), n)) } }
    | none => d) d1

/-- The device time at which a task placed now for `n` ticks expires. -/
def Dev.expiryAt (d : Dev) (l n : Nat) : W64 :=
  let t := d.tickOf l * 10
  BitVec.ofNat 64 ((d.time.ns.toNat / t + n) * t)

def Dev.expiryOf (d : Dev) (s : Nat) : Nat :=
  match d.task s with
  | some t => match t.loc with | .delayed _ e => e.toNat | _ => 0
  | none => 0

/-- Place a task on a delay list for `n` ticks, behind the tasks of equal expiry. -/
def Dev.placeDelay (d : Dev) (s l n : Nat) : Dev :=
  let e := d.expiryAt l n
  let d1 := d.updTask s (fun t => { t with loc := .delayed l e })
  let old := d1.dsp.delay.get [] l
  let before := old.filter (fun x => d1.expiryOf x ≤ e.toNat)
  let after := old.filter (fun x => ¬ d1.expiryOf x ≤ e.toNat)
  { d1 with dsp := { d1.dsp with delay := d1.dsp.delay.set [] l (before ++ s :: after) } }

/-! ### Posting (R145) -/

/-- A started warden stands in some hearth of a set. -/
def Dev.wardenIn (d : Dev) (set : W16) : Bool :=
  (List.range 16).any (fun h => set.getLsbD h && (d.thr (h * 128)).st != .off)

/-- Why a record is refused (the reason codes of R362), in the order of R145's list; none when it is accepted. `own` is the
posting thread's hearth, none for a host ring. -/
def Dev.postRefusal (d : Dev) (ws : List Word) (own : Option Nat) : Option Nat :=
  let w := fun k => ws.getD k Word.zero
  let k := (w 0).v.toNat / 4096
  let set := if (w 5).v = 0 then (match own with | some h => w16 (2 ^ h) | none => 0) else (w 5).v
  if !(w 0).isPlain ∨ ¬ (k = 2 ∨ k = 3) ∨ (w 0).v &&& 0x01EF ≠ 0 then some 1
  else if (w 0).v.getLsbD 4 ∧ !(w 6).isPlain then some 1
  else if !(w 5).isPlain then some 4
  else if w 4 ≠ Word.zero then some 2
  else if ¬ (w 2 = Word.zero ∧ w 3 = Word.zero) ∧
      (match handleOf (w 2) (w 3) with | some (kd, gn, ix) => d.bufCurrent kd gn ix | none => false) = false then some 3
  else if !d.wardenIn set then some 4
  else if k = 2 ∧ (!(w 1).isPlain ∨ !(w 15).isPlain ∨ (w 15).v = 0) then some 6
  else if !d.shareRoom then some 5
  else none

/-- Submit a record (R145): the slot of the accepted task, or the reason of the refusal. -/
def Dev.postTask (d : Dev) (ws : List Word) (own : Option Nat) (reqWord : W16) : (Nat ⊕ Nat) × Dev :=
  match d.postRefusal ws own with
  | some reason =>
    let d1 := d.count .dspPostRefused
    (.inr reason, if reason = 5 then d1 else d1.log4 0 7 0x07 0 (w16 reason) reqWord 0)
  | none =>
    let w := fun k => ws.getD k Word.zero
    let set := if (w 5).v = 0 then (match own with | some h => w16 (2 ^ h) | none => 0) else (w 5).v
    let t : Task := { words := ws, banked := [], loc := .ready 0, since := d.time.tick, stagedAt := 0,
                      aff := false, set := set, home := none, ticket := none, deadline := false, overtaken := false, cancelled := false }
    match d.newTask t with
    | (none, d1) => (.inr 5, d1)
    | (some s, d1) =>
      (.inl s, if t.kind = 2 then d1.placeDelay s ((w 1).v.toNat % 64) (w 15).v.toNat else d1.placeReady s)

/-! ### Offers (R138) -/

/-- The thread to which a task is staged. -/
def Dev.stagedFor (d : Dev) (g : Nat) : Option Nat :=
  (d.dsp.tasks.entries.find? (fun e => match e.2 with | some t => t.loc = .staged g | none => false)).map Prod.fst

/-- Thread `g` is open (R138). -/
def Dev.isOpen (d : Dev) (g : Nat) : Bool := d.dsp.open_.contains g
def Dev.setOpen (d : Dev) (g : Nat) (b : Bool) : Dev :=
  let rest := d.dsp.open_.filter (· ≠ g)
  { d with dsp := { d.dsp with open_ := if b then rest ++ [g] else rest } }

/-- A staged offer is withdrawn: the task returns to the head of its list (R137, R138). `shut` ends the thread's being open. -/
def Dev.withdraw (d : Dev) (g : Nat) (shut : Bool) : Dev :=
  match d.stagedFor g with
  | none => if shut then d.setOpen g false else d
  | some s =>
    match d.task s with
    | none => d
    | some t =>
      let h := hearthOf g
      let d1 := (d.setTask s (some { t with loc := .ready h, since := d.time.tick })).count .dspWithdrawn
      let d2 := (d1.setReady h t.cls (s :: d1.readyList h t.cls)).stir h
      let d3 := if shut then d2.setOpen g false else d2
      d3.tallyTask 1 s t false

/-! ### Cancel (R147) and the fate of a held task at a kill (R92, R150) -/

/-- Free the buffer that a task's record names as formed. -/
def Dev.freeTaskBuf (d : Dev) (t : Task) : Dev := d.freeHandle (t.word 2) (t.word 3)

/-- Cancel the task in slot `s`: the status code and the state after (R147). A staged offer is withdrawn, and the thread stays open. -/
def Dev.cancelTask (d : Dev) (s : Nat) : Nat × Dev :=
  match d.task s with
  | none => (3, d)
  | some t =>
    let d0 := (match t.loc with | .staged g => d.withdraw g false | _ => d).tallyTask 4 s t false
    if t.cancelled then (3, d)
    else match t.loc with
      | .held _ =>
        if t.overtaken then (2, d0.updTask s (fun t => { t with cancelled := true }))
        else (1, (((d0.skipTask s).dropDeadline s).freeTaskBuf t).updTask s (fun t => { t with cancelled := true }))
      | _ => if t.overtaken then (2, d0.endTask s) else (0, ((d0.skipTask s).freeTaskBuf t).endTask s)

/-- A held task ends at a kill or a hearth reset: its ticket is skipped and its buffer freed, unless it was overtaken or
cancelled. -/
def Dev.killTask (d : Dev) (s : Nat) : Dev :=
  match d.task s with
  | none => d
  | some t =>
    let d1 := if t.cancelled then d else d.tallyTask 4 s t false
    if t.overtaken ∨ t.cancelled then d1.endTask s
    else ((d1.skipTask s).freeTaskBuf t).endTask s

end Sys2Proof.Machine
end

