-- ==== Sys2Proof/Machine/Threads.lean ====
section
/-!
DEFINITION. The threads of an engine: who may issue and which patient thread is current (R109–R116), blocking and waking,
warden-held faults and reports (R91, R124, R299–R301), trap entry (R95), kills (R126), and how a unit ends (R101–R108).
-/
namespace Sys2Proof.Machine

/-! ### Words, pairs and flags -/

/-- The general word wN. -/
def Thread.get (t : Thread) (n : Nat) : Word := t.w.get Word.zero n
def Thread.set (t : Thread) (n : Nat) (x : Word) : Thread := { t with w := t.w.set Word.zero n x }
/-- The two words of pair pN, high first. -/
def Thread.pair (t : Thread) (n : Nat) : Word × Word := (t.get (2 * n), t.get (2 * n + 1))
def Thread.setPair (t : Thread) (n : Nat) (h l : Word) : Thread := (t.set (2 * n) h).set (2 * n + 1) l
/-- A pair's 32-bit number (R51). -/
def pairNum (p : Word × Word) : Nat := p.1.v.toNat * 65536 + p.2.v.toNat

/-- FLAGS as a word's value (R52). -/
def Flags.word (f : Flags) : W16 :=
  w16 ((if f.c then 1 else 0) + (if f.z then 2 else 0) + (if f.n then 4 else 0) + (if f.v then 8 else 0)
    + (if f.pm then 16 else 0) + (if f.rm then 32 else 0))
/-- FLAGS from V[5:0] (R53). -/
def Flags.ofWord (v : W16) : Flags :=
  ⟨v.getLsbD 0, v.getLsbD 1, v.getLsbD 2, v.getLsbD 3, v.getLsbD 4, v.getLsbD 5⟩
/-- The flags of an instruction that sets only Z: the others and both marks are cleared (R71). -/
def flagsZ (z : Bool) : Flags := ⟨false, z, false, false, false, false⟩
/-- The flags of an instruction that sets Z and C. -/
def flagsZC (z c : Bool) : Flags := ⟨c, z, false, false, false, false⟩

/-! ### The slot table and the current patient thread (R111–R116) -/

/-- Thread `t` of an engine is swift. -/
def Engine.isSwift (e : Engine) (t : Nat) : Bool := e.swift.getLsbD t
/-- The thread that slot `s` of the table names; none when it is empty. -/
def Engine.slot (e : Engine) (s : Nat) : Option Nat :=
  let nib := bits (if s < 8 then e.slotLo else e.slotHi) (4 * (s % 8) + 3) (4 * (s % 8))
  if 8 ≤ nib then some (nib % 8) else none
/-- The weight of thread `t`: the slots that name it. -/
def Engine.weight (e : Engine) (t : Nat) : Nat := ((List.range 16).filter (fun s => e.slot s == some t)).length

/-- The slots of engine `e`'s table that its pointer passes in this TICKCLK: it steps once per ENGCLK (R112), fifteen in a TICKCLK. -/
def Dev.slotsNow (d : Dev) (e : Nat) : List Nat :=
  (List.range 15).map (fun k => ((d.engn e).phase + d.engclk + k) % 16)

/-- A slot that the pointer passes in this TICKCLK names thread `t` of engine `e`. -/
def Dev.slotNames (d : Dev) (e t : Nat) : Bool :=
  (d.slotsNow e).any (fun s => (d.engn e).slot s == some t)

/-- Credit within −2,048 to +2,047 (R112). -/
def satCredit (x : Int) : Int := max (-2048) (min 2047 x)

/-- Thread `t` of engine `e` may be made current: READY with STOP clear, and patient. -/
def Dev.qualifies (d : Dev) (e t : Nat) : Bool :=
  let x := d.thr (e * 8 + t)
  x.st == .ready && !x.stop && !(d.engn e).isSwift t

/-- `a` is chosen before `b` by the tests of R113; `y` is the thread that yielded. -/
def Dev.before (d : Dev) (e : Nat) (y : Option Nat) (a b : Nat) : Bool :=
  let ta := d.thr (e * 8 + a)
  let tb := d.thr (e * 8 + b)
  let ya := y == some a
  let yb := y == some b
  let wa := decide (0 < (d.engn e).weight a)
  let wb := decide (0 < (d.engn e).weight b)
  if ya ≠ yb then yb
  else if ta.boost ≠ tb.boost then ta.boost
  else if wa ≠ wb then wa
  else if ta.credit ≠ tb.credit then decide (tb.credit < ta.credit)
  else decide (a < b)

/-- The thread that R113 chooses, among those for which `ok` holds. -/
def Dev.chooseThread (d : Dev) (e : Nat) (y : Option Nat) (ok : Nat → Bool) : Option Nat :=
  ((List.range 8).filter (fun t => d.qualifies e t && ok t)).foldl
    (fun best t => match best with
      | none => some t
      | some b => if d.before e y t b then some t else some b) none

/-- A patient switch (R113). -/
def Dev.patientSwitch (d : Dev) (e : Nat) (y : Option Nat) : Dev :=
  d.setEngn e { d.engn e with cur := d.chooseThread e y (fun _ => true), curSince := d.engclk }

/-- Thread `g` no longer issues: a patient switch when it was current. While another thread's `REP.U` holds the engine no switch takes
place (R107), and the engine has no current thread until the hold ends. -/
def Dev.leave (d : Dev) (g : Nat) : Dev :=
  let e := engineOf g
  if (d.engn e).cur = some (g % 8) then
    if (d.engn e).repU = none ∨ (d.engn e).repU = some (g % 8) then d.patientSwitch e none
    else d.setEngn e { d.engn e with cur := none }
  else d

/-- Engine `e` has a current patient thread again, if one qualifies: the choice of R113 where it has none, or one that has become
swift. While a `REP.U` holds the engine no switch takes place (R107). A thread that stops being swift while the engine has no current one
is READY but not current (R116) for no longer than that: it becomes current here, as the first that qualifies (DESIGN CHOICE,
notes/assumptions/42.md). -/
def Dev.reseat (d : Dev) (e : Nat) : Dev :=
  if (d.engn e).repU ≠ none then d else
  match (d.engn e).cur with
  | some t => if (d.engn e).isSwift t then d.patientSwitch e none else d
  | none => if (d.chooseThread e none (fun _ => true)).isSome then d.patientSwitch e none else d

/-- A patient thread becomes current at once when its engine has none (R113), unless the `REP.U` of another holds the engine (R107): the
tests of R113 choose when that ends. -/
def Dev.takeCurrent (d : Dev) (g : Nat) : Dev :=
  let e := engineOf g
  if (d.engn e).cur = none ∧ ((d.engn e).repU = none ∨ (d.engn e).repU = some (g % 8)) ∧ d.qualifies e (g % 8) then
    d.setEngn e { d.engn e with cur := some (g % 8), curSince := d.engclk }
  else d

/-- Thread `g` has become READY: its hearth is not still, unless it is the warden, which does not count. -/
def Dev.stirBy (d : Dev) (g : Nat) : Dev := if g % 128 = 0 then d else d.stir (hearthOf g)

/-- Thread `g` becomes READY: its wait is over. -/
def Dev.makeReady (d : Dev) (g : Nat) : Dev :=
  ((d.updThr g (fun t => { t with st := .ready, cause := 0, wait := .none })).stirBy g).takeCurrent g

/-- Thread `g` becomes BLOCKED with a cause of R109: a patient switch, unless a `REP.U` holds the engine (R107). -/
def Dev.block (d : Dev) (g cause : Nat) (w : Wait) : Dev :=
  let d1 := d.updThr g (fun t => { t with st := .blocked, cause := cause, wait := w, blockSeq := d.eng.seq })
  let d2 := { d1 with eng := { d1.eng with seq := d1.eng.seq + 1 } }
  if (d2.engn (engineOf g)).repU = some (g % 8) then d2 else d2.leave g

/-- The engine is no longer held by a `REP.U` of thread `g`: a switch that waited for it takes place (R107). -/
def Dev.endRepU (d : Dev) (g : Nat) : Dev :=
  let e := d.engn (engineOf g)
  if e.repU = some (g % 8) then (d.setEngn (engineOf g) { e with repU := none }).reseat (engineOf g) else d

/-! ### Who may issue (R109, R112, R107, R411) -/

/-- A breakpoint of the hearth matches at thread `g`'s PC (R411). -/
def Dev.bpHit (d : Dev) (g : Nat) : Bool :=
  let h := hearthOf g
  (List.range 8).any (fun k =>
    let v := d.rd .dbgBp h k
    v.getLsbD 31 && (v.getLsbD 30 || decide (bits v 22 16 = g % 128)) && decide (bits v 14 0 = (d.thr g).pc.toNat))

/-- The hearth runs: its domain is on and it is not in reset. -/
def Dev.hearthRuns (d : Dev) (h : Nat) : Bool := d.domOn (domHearth h) && (d.hth h).reset == 0

/-- Thread `g` is READY with no wait and STOP clear, its next unit does not begin at a breakpoint, and it was in no short stall in this
TICKCLK: `able` of R112. -/
def Dev.able (d : Dev) (g : Nat) : Bool :=
  let t := d.thr g
  t.st == .ready && t.wait == .none && !t.stop && t.stallTick != some d.time.tick && (t.step || t.rep != .none || !d.bpHit g)

/-- Thread `t` of engine `e` is a swift thread that may issue: able and without its yielded mark. -/
def Dev.swiftAble (d : Dev) (e t : Nat) : Bool :=
  (d.engn e).isSwift t && d.able (e * 8 + t) && !(d.thr (e * 8 + t)).yielded

/-- The third branch of R112 gives swift thread `t` of engine `e` the cycle: the current patient thread is not able, and of two swift
threads it is the one that this branch did not choose last. -/
def Dev.thirdBranch (d : Dev) (e t : Nat) : Bool :=
  (match (d.engn e).cur with | some c => !d.able (e * 8 + c) | none => true) &&
  ((d.engn e).lastSwift != some t || (List.range 8).all (fun u => u == t || !d.swiftAble e u))

/-- A swift thread `g` issues by the third branch of R112: no slot that the pointer passes names it. -/
def Dev.byThird (d : Dev) (g : Nat) : Bool :=
  let e := engineOf g
  (d.engn e).isSwift (g % 8) && !d.slotNames e (g % 8)

/-- A slot that the pointer passes in this TICKCLK falls to the current patient thread of engine `e`: it names no swift thread that may
issue. -/
def Dev.slotLeft (d : Dev) (e : Nat) : Bool :=
  (d.slotsNow e).any (fun s => match (d.engn e).slot s with
    | some t => !d.swiftAble e t
    | none => true)

/-- R112 chooses thread `g` in some cycle of this TICKCLK: a swift thread by a slot that names it or by the third branch, a patient one
as the current one in a slot that is left to it. -/
def Dev.chosen (d : Dev) (g : Nat) : Bool :=
  let e := engineOf g
  if (d.engn e).isSwift (g % 8) then !(d.thr g).yielded && (!d.byThird g || d.thirdBranch e (g % 8))
  else (d.engn e).cur == some (g % 8) && d.slotLeft e

/-- Thread `g` can issue a unit now: READY, STOP clear (or its `REP.U` not yet over), not waiting, chosen by its engine, and
not at a breakpoint, unless a STEP runs it. While a `REP.U` holds the engine only its thread issues (R107). -/
def Dev.canIssue (d : Dev) (g : Nat) : Bool :=
  let t := d.thr g
  let e := d.engn (engineOf g)
  let mine := e.repU == some (g % 8)
  t.st == .ready && t.wait == .none && d.hearthRuns (hearthOf g) &&
  (!t.stop || (!t.stopped && mine)) &&
  (e.repU == none || mine) &&
  (mine || d.chosen g) &&
  (t.step || !d.bpHit g || mine || t.rep != .none)

/-- The third branch of R112 notes the swift thread that it chose. -/
def Dev.noted (d : Dev) (g : Nat) : Dev :=
  let e := engineOf g
  if d.byThird g ∧ (d.engn e).repU ≠ some (g % 8) then d.setEngn e { d.engn e with lastSwift := some (g % 8) } else d

/-- Thread `g` has issued `n` words (R112): they cost a patient thread credit. -/
def Dev.charge (d : Dev) (g n : Nat) : Dev :=
  if (d.engn (engineOf g)).isSwift (g % 8) then d.noted g
  else (d.noted g).updThr g (fun t => { t with credit := satCredit (t.credit - n) })

/-! ### Reports (R91, R124, R128, R300) -/

/-- A report to the host: its words escalated, an entry for the host event ring, and FAULT_N. -/
def Dev.reportHost (d : Dev) (ws : List W16) : Dev :=
  (d.hostEvent (ws.set 0 (ws.headD 0 ||| 0x0080))).hostReport

/-- A report enters a hearth's report queue. -/
def Dev.queueReport (d : Dev) (h src : Nat) (ws : List W16) : Dev :=
  d.setHth h { d.hth h with repq := (d.hth h).repq ++ [⟨ws, src⟩] }

/-- A report goes to the chief warden's queue, or to the host when the chief warden is OFF or HELD (R124). -/
def Dev.reportChief (d : Dev) (src : Nat) (ws : List W16) : Dev :=
  let chief := (d.thr 0).st
  if chief = .off ∨ chief = .held then d.reportHost ws
  else d.queueReport 0 src (ws.set 0 (ws.headD 0 ||| 0x0080))

/-- A fault record of thread `g` is sent (R91, R124). -/
def Dev.sendFault (d : Dev) (g : Nat) (ws : List W16) : Dev :=
  let h := hearthOf g
  if g = 0 then d.reportHost ws
  else if g % 128 = 0 then d.reportChief g ws
  else if (d.thr (h * 128)).st = .off then (if h = 0 then d.reportHost ws else d.reportChief g ws)
  else d.queueReport h g ws

/-! ### Debug stops (R410) -/

/-- A stop of thread `g` has taken effect: DBG.STOPPED and IRQ_PEND.DBG; a patient switch. -/
def Dev.stopNow (d : Dev) (g : Nat) : Dev :=
  let d1 := d.updThr g (fun t => { t with stop := true, stopped := true, step := false })
  ((d1.setBit .dbgStopped 0 0 (hearthOf g) true).setBit .errIrqPend 0 0 3 true).leave g

/-- The unit for which a STEP cleared STOP is over: the thread stops again (R410), once no `REP.U` of another thread holds its engine, in
which no debug stop takes place (R107). -/
def Dev.stepOver (d : Dev) (g : Nat) : Dev :=
  let r := (d.engn (engineOf g)).repU
  if r = none ∨ r = some (g % 8) then d.stopNow g else d.updThr g (fun t => { t with stop := true, step := false })

/-! ### Warden-held faults (R91, R299, R301, R302) -/

/-- The 14-bit word at an address of a hearth's program store. -/
def Dev.progWord (d : Dev) (h : Nat) (a : Nat) : BitVec 14 := d.mem.prog.get 0 (h * 32768 + a % 32768)

/-- How many `EXI` words stand at an address of a program store, up to a number. -/
def Dev.exiCount (d : Dev) (h : Nat) : Nat → Nat → Nat
  | 0, _ => 0
  | n + 1, pc => if (d.progWord h pc).toNat / 256 = 0x3F then 1 + d.exiCount h n (pc + 1) else 0
/-- How many `EXI` words stand before the instruction of the unit at an address. -/
def Dev.exiLead (d : Dev) (h pc : Nat) : Nat := d.exiCount h 32768 pc

/-- The fault record of thread `g` (R299): the restart PC is the thread's PC; `exi` words stand before the instruction. -/
def Dev.faultRecord (d : Dev) (g : Nat) (f : FaultInfo) (exi : Nat) (blocked : Option Nat) : List W16 :=
  let t := d.thr g
  let rep := t.rep != .none
  [w16 (0x1000 + hearthOf g * 256 + g % 128),
   w16 (f.cause * 4096 + f.sub * 256 + (if f.store then 128 else 0) + (if rep then 64 else 0)
     + (if t.inTrap then 32 else 0) + (match blocked with | some c => 16 + c | none => 0)),
   w16 t.pc.toNat, (d.progWord (hearthOf g) (t.pc.toNat + exi)).zeroExtend 16, f.d4, f.d5, f.d6,
   (if rep then t.hc else 0)]

/-- Thread `g` takes a warden-held fault: HELD, with its record on its way. Nothing else of it changes, but that a watchdog fault held
back until its instruction wrote its results is no longer due (R303). -/
def Dev.hold (d : Dev) (g : Nat) (f : FaultInfo) (exi : Nat) (blocked : Option Nat) : Dev :=
  let ws := d.faultRecord g f exi blocked
  let d1 := d.updThr g (fun t => { t with st := .held, cause := 0, wait := .none, wdDue := false })
  let d2 := if (d.thr g).step then d1.stepOver g else d1
  ((((d2.endRepU g).setOpen g false).withdraw g true).leave g).sendFault g ws

/-- A tag, poison or stale fault of an operand (R301): its source number and the values of its words. -/
def operandFault (cause src : Nat) (h l : W16) : FaultInfo := ⟨cause, 0, false, w16 src, h, l⟩
/-- A fault with an address (R301): the context and the 36-bit address. -/
def addrFault (cause sub : Nat) (store : Bool) (ctx va : Nat) : FaultInfo :=
  ⟨cause, sub, store, w16 (ctx * 256 + va / 2 ^ 32 % 16), w16 (va / 65536), w16 va⟩
/-- A bus fault without an address. -/
def busFault (sub : Nat) : FaultInfo := ⟨6, sub, false, 0, 0, 0⟩

/-- The fault that an address operand raises when it is not PLAIN (R27, R38). -/
def addrOperand (w : Word) (src : Nat) : Option FaultInfo :=
  if w.isRef then some (operandFault 1 src 0 w.v)
  else if w.isPoison then some (operandFault 2 src 0 w.v)
  else none

/-- The fault of two words, the tag fault before the poison fault (R28). -/
def addrOperands (a : Word) (sa : Nat) (b : Word) (sb : Nat) : Option FaultInfo :=
  if a.isRef then some (operandFault 1 sa 0 a.v)
  else if b.isRef then some (operandFault 1 sb 0 b.v)
  else if a.isPoison then some (operandFault 2 sa 0 a.v)
  else if b.isPoison then some (operandFault 2 sb 0 b.v)
  else none

/-! ### The write buffer (R75, R270) -/

/-- The words of a later store over those of an entry. -/
def mergeWb (old new : List WbWord) : List WbWord :=
  new.foldl (fun l x =>
    match l.find? (fun y => y.slot == x.slot) with
    | none => l ++ [x]
    | some y =>
      let z : WbWord :=
        if x.whole then x
        else
          let v := (if x.hi then x.w.v &&& 0xFF00 else y.w.v &&& 0xFF00) |||
                   (if x.lo then x.w.v &&& 0x00FF else y.w.v &&& 0x00FF)
          ⟨x.slot, ⟨if y.w.isPoison ∨ x.w.isPoison then .poison else .plain, v⟩, x.hi || y.hi, x.lo || y.lo, y.whole⟩
      l.map (fun y' => if y'.slot == x.slot then z else y')) old

/-- The word at a physical address with the bytes that write-buffer entries hold of it. -/
def overlayWord (wb : List WbEntry) (pa : Nat) (w : Word) : Word :=
  wb.foldl (fun w x =>
    if x.unit = pa / 8 then
      match x.words.find? (fun y => y.slot == pa / 2 % 4) with
      | some y => mergeWord w y
      | none => w
    else w) w

/-- The youngest entry takes a store to the same unit under the same attribute, or a free entry does; none when all four
are in use. -/
def Dev.wbPush (d : Dev) (e unit : Nat) (attr : Attr) (ws : List WbWord) (g : Nat) : Option Dev :=
  let x := d.engn e
  match x.wb.getLast? with
  | some y =>
    if y.unit = unit ∧ y.attr = attr then
      some (d.setEngn e { x with wb := x.wb.dropLast ++ [{ y with words := mergeWb y.words ws, g := g }] })
    else if x.wb.length < 4 then
      some (d.setEngn e { x with wb := x.wb ++ [⟨unit, attr, ws, g⟩], wbIn := x.wbIn + 1 })
    else none
  | none => some (d.setEngn e { x with wb := [⟨unit, attr, ws, g⟩], wbIn := x.wbIn + 1 })

/-! ### How a unit ends -/

/-- What one execution of an instruction comes to: it is complete; it is complete and continues at an address; a
warden-held fault, with nothing written, or with no more than the reports of what was read (R41); a reserved encoding; a trap of a vector, with the number of `BKPT n` and the
return address; a long stall with a cause; a short stall, in which nothing happens; complete with the thread already put
in its new state. -/
inductive IRes where
  | done (d : Dev)
  | jump (d : Dev) (pc : Nat)
  | fault (f : FaultInfo)
  | faultAt (d : Dev) (f : FaultInfo)
  | emu
  | trap (vec n ret : Nat)
  | block (d : Dev) (cause : Nat) (w : Wait)
  | stall
  | ended (d : Dev)

/-- A STEP ends: the thread stops again after its unit, or its iteration of `REP.I` (R410, R105). -/
def Dev.endStep (d : Dev) (g : Nat) : Dev :=
  let t := d.thr g
  if t.step ∧ t.rep ≠ .repU then d.stepOver g else d

/-- The unit of thread `g` is complete: outside a repeat PC moves past it; in a repeat the iteration is counted in HC, and
the last one moves PC past the repeated instruction (R102). -/
def Dev.finish (d : Dev) (g : Nat) : Dev :=
  let t := d.thr g
  match t.rep with
  | .none => (d.setThr g { t with pc := t.pc + BitVec.ofNat 15 t.ulen }).endStep g
  | _ =>
    if t.hc ≤ 1 then ((d.setThr g { t with hc := 0, rep := .none, pc := t.pc + 1 }).endRepU g).endStep g
    else (d.setThr g { t with hc := t.hc - 1 }).endStep g

/-- The thread's trap frame: the aligned 8-byte unit in its hearth's larder (R94). -/
def trapFrame (g : Nat) : Nat := (0x4000000 + hearthOf g * 0x80000 + 0x7FC00 + (g % 128) * 8) / 8

/-- The frame of a trap enters the write buffer; none while it has no room. The spec names no page attribute for this store, which R270
compares when stores merge: UC (DESIGN CHOICE, notes/assumptions/42.md). -/
def Dev.pushFrame (d : Dev) (g vec n ret addr : Nat) : Option Dev :=
  let ws := [Word.plain (w16 (ret % 32768)), Word.plain (d.thr g).fl.word, Word.plain (w16 (n * 256 + vec)),
             Word.plain ((d.progWord (hearthOf g) addr).zeroExtend 16)]
  d.wbPush (engineOf g) (trapFrame g) .uc (wholeWords 0 ws) g

/-- Trap entry (R95): the frame enters the write buffer, the in-trap bit is set and PC goes to the vector; it waits while the
write buffer is full. With the in-trap bit set, a double trap is a warden-held fault instead (R97). -/
def Dev.trapEntry (d : Dev) (g vec n ret addr : Nat) : Dev :=
  if (d.thr g).inTrap then
    d.hold g ⟨8, (if vec = 32 then 0 else if vec = 33 then 2 else 1), false, 0, 0, 0⟩ (d.exiLead (hearthOf g) addr) none
  else
    match d.pushFrame g vec n ret addr with
    | none => d
    | some d1 => (d1.updThr g (fun t => { t with inTrap := true, pc := BitVec.ofNat 15 vec })).endStep g

/-- The EMU trap of a reserved encoding (R60, R99): its trapping address is the thread's PC. -/
def Dev.emuEntry (d : Dev) (g : Nat) : Dev := d.trapEntry g 32 0 (d.thr g).pc.toNat (d.thr g).pc.toNat

/-- Carry out what one execution of an instruction of thread `g` came to. -/
def Dev.settle (d : Dev) (g exi : Nat) : IRes → Dev
  | .done d1 => d1.finish g
  | .jump d1 pc => (d1.updThr g (fun t => { t with pc := BitVec.ofNat 15 pc })).endStep g
  | .fault f => d.hold g f exi none
  | .faultAt d1 f => d1.hold g f exi none
  | .emu => d.emuEntry g
  | .trap vec n ret => d.trapEntry g vec n ret (d.thr g).pc.toNat
  | .block d1 cause w => d1.block g cause w
  | .stall => d
  | .ended d1 => d1

/-- A `REP.U` in progress holds its engine, also after a resume (R107, R108). -/
def Dev.holdEngine (d : Dev) (g : Nat) (r : RepState) : Dev :=
  let e := d.engn (engineOf g)
  if r = .repU ∧ e.repU = none then d.setEngn (engineOf g) { e with repU := some (g % 8) } else d

/-- One execution stalls in place: nothing happens, and it does not count as an issue. -/
def Dev.stalls (d : Dev) (g : Nat) (r : IRes) : Bool :=
  match r with
  | .stall => true
  | .emu => !(d.thr g).inTrap && (d.pushFrame g 32 0 0 0).isNone
  | .trap vec n ret => !(d.thr g).inTrap && (d.pushFrame g vec n ret 0).isNone
  | _ => false

/-- Thread `g` was in a short stall in this TICKCLK (R112). -/
def Dev.stalled (d : Dev) (g : Nat) : Dev := d.updThr g (fun t => { t with stallTick := some d.time.tick })

/-- A repeat that meets a reserved encoding, or a word that may not be repeated, is abandoned and the EMU trap is taken (R429): `d1` is the
device with the issue charged, `d` the one before it, in which the thread stays while the write buffer has no room for the frame. -/
def Dev.abandon (d d1 : Dev) (g : Nat) : Dev :=
  let d2 := (d1.updThr g (fun t => { t with rep := .none, hc := 0 })).endRepU g
  if d2.stalls g .emu then d.stalled g else d2.emuEntry g

/-- Thread `g` issues one instruction after `exi` EXI words. `inI` and `inU` say whether R104 lets it follow `REP.I` and
`REP.U`. Outside a repeat the unit runs; in one, R429 governs: with HC zero the word is passed over, be it repeatable or not
(DEDUCED, notes/assumptions/43.md), a reserved encoding or a word that may not be repeated abandons the repeat and takes the EMU trap, and
any other runs one iteration. A thread that may not issue now
issues nothing. -/
def Dev.issue (d : Dev) (g exi : Nat) (inI inU : Bool) (body : Dev → IRes) : Dev :=
  if !d.canIssue g then d else
  let t := d.thr g
  let d1 := d.charge g (exi + 1)
  match t.rep with
  | .none =>
    let d2 := d1.updThr g (fun t => { t with ulen := exi + 1 })
    let r := body d2
    if d2.stalls g r then d.stalled g else d2.settle g exi r
  | rep =>
    if t.hc = 0 then ((d1.updThr g (fun t => { t with rep := .none, pc := t.pc + 1 })).endRepU g).endStep g
    else if exi = 0 ∧ (if rep = .repI then inI else inU) then
      let d2 := (d1.updThr g (fun t => { t with ulen := 1 })).holdEngine g rep
      let r := body d2
      match r with
      | .emu => d.abandon d1 g
      | _ => if d2.stalls g r then d.stalled g else d2.settle g 0 r
    else d.abandon d1 g

/-- The wait of thread `g` (block cause `cause`) is over and its instruction has written its results: it is READY after the instruction,
or HELD there by a watchdog fault that was held back until then (R303, R333). -/
def Dev.afterCause (d : Dev) (g cause : Nat) : Dev :=
  let t := d.thr g
  let d1 := (d.makeReady g).finish g
  if t.wdDue then
    (d1.updThr g (fun x => { x with wdog := 0 })).hold g ⟨7, 0, false, w16 (t.wdog / 8192), t.ctxH.v, t.ctxL.v⟩
      (d1.exiLead (hearthOf g) (d1.thr g).pc.toNat) (some cause)
  else d1

/-- The wait that thread `g` is BLOCKED in is over and its instruction has written its results. -/
def Dev.afterWait (d : Dev) (g : Nat) : Dev := d.afterCause g (d.thr g).cause

/-- The results of a fabric response are written and the thread becomes READY; a watchdog fault held back until then is
raised after the instruction (R56, R303). -/
def Dev.respond (d : Dev) (g : Nat) (p : Pend) : Dev :=
  let t := d.thr g
  match p.fault with
  | some f =>
    let exi := t.ulen - 1
    (d.updThr g (fun t => { t with st := .ready })).hold g f exi none
  | none =>
    let t1 := p.regs.foldl (fun t rw => t.set rw.1 rw.2) t
    (d.setThr g { t1 with fl := p.fl.getD t1.fl }).afterWait g

/-! ### Kills (R92, R126) -/

/-- A message of the lock unit sets out (R328). -/
def Dev.lockSend (d : Dev) (m : LockMsg) : Dev := { d with lck := { d.lck with msgs := d.lck.msgs ++ [m] } }

def Dev.flue (d : Dev) (f : Nat) : List FlueMsg := d.eng.flues.get [] f
def Dev.setFlue (d : Dev) (f : Nat) (l : List FlueMsg) : Dev :=
  { d with eng := { d.eng with flues := d.eng.flues.set [] f l } }

/-- The flue that a name word names, for a thread of hearth `h` (R120); none when its rsv bits are not zero. -/
def flueOf (h : Nat) (v : W16) : Option Nat :=
  if v.getLsbD 15 then (if v &&& 0x7C00 = 0 then some (4096 + v.toNat % 1024) else none)
  else (if v &&& 0x7F00 = 0 then some (h * 256 + v.toNat % 256) else none)

/-- The undelivered words of a message bound to `g` are discarded and counted (R123). -/
def Dev.dropBinding (d : Dev) (g : Nat) : Dev :=
  match flueOf (hearthOf g) (d.thr g).bindName with
  | none => d
  | some f =>
    match (d.flue f).find? (fun m => m.reader = some g) with
    | none => d
    | some m =>
      (d.setFlue f ((d.flue f).filter (fun m => m.reader ≠ some g))).count .hthFlueDiscard (hearthOf g) 0 m.words.length

/-- The binding of thread `g` ends with its hearth's reset (R109, R123): the words of its message stay in their flue. -/
def Dev.unbind (d : Dev) (g : Nat) : Dev :=
  match flueOf (hearthOf g) (d.thr g).bindName with
  | none => d
  | some f => d.setFlue f ((d.flue f).map (fun m => if m.reader = some g then { m with reader := none } else m))

/-- The priority of thread `g`'s lock requests: the class of the task it holds (R327). -/
def Dev.lockPrio (d : Dev) (g : Nat) : Nat :=
  match (d.thr g).task with
  | some s => (match d.task s with | some t => t.cls | none => 0)
  | none => 0

/-- The boost bit of a lock's owner after its queue changed (R329): a bit that is set stays set while some lock it holds has a waiter of
priority above the owner's for that lock. -/
def Dev.boostEval (d : Dev) (g : Nat) : Dev :=
  let held := d.lck.locks.entries.any (fun e => e.2.owner == some g && e.2.queue.any (fun w => decide (e.2.ownPrio < w.prio)))
  if (d.thr g).boost && !held then d.updThr g (fun t => { t with boost := false }) else d

/-- A waiter of higher priority than the owner's has joined: the dispatcher sets the owner's boost bit (R329). -/
def Dev.boostSignal (d : Dev) (g : Nat) : Dev := (d.count .lckInherit).updThr g (fun t => { t with boost := true })

/-- Every store that engine `e` accepted before number `upto` has drained. -/
def Dev.drained (d : Dev) (e upto : Nat) : Bool := decide (upto ≤ (d.engn e).wbOut)

/-- The releases whose engines have drained the stores before them leave for the lock unit (R331). -/
def Dev.sendReleases (d : Dev) : Dev :=
  let due := d.lck.unsent.filter (fun x => d.drained x.1 x.2.1)
  if due.isEmpty then d
  else { d with lck := { d.lck with msgs := d.lck.msgs ++ due.map (fun x => x.2.2),
                                    unsent := d.lck.unsent.filter (fun x => !d.drained x.1 x.2.1) } }

/-- Thread `g` leaves every lock queue, and its requests on the way are withdrawn. -/
def Dev.leaveLocks (d : Dev) (g : Nat) : Dev :=
  let owners := d.lck.locks.entries.filterMap (fun e => if e.2.queue.any (fun w => w.g == g) then e.2.owner else none)
  let lk : Map Lock := ⟨d.lck.locks.entries.map (fun e => (e.1, { e.2 with queue := e.2.queue.filter (fun w => w.g != g) }))⟩
  let msgs := d.lck.msgs.filter (fun m => match m with | .request _ g' _ => g' != g | _ => true)
  owners.foldl Dev.boostEval { d with lck := { d.lck with locks := lk, msgs := msgs } }

/-- The host reads that are out for unit `x` of hearth `h` are answered to nobody. -/
def Dev.smOrphan (d : Dev) (h x : Nat) : Dev :=
  { d with lnk := { d.lnk with reads := ⟨d.lnk.reads.entries.map (fun e =>
      match e.2 with
      | some r => if r.agent = .smithy h x then (e.1, some { r with agent := .nobody }) else e
      | none => e)⟩ } }

/-- Discard the smithy's operations and kept state of thread `g` (R341): one that runs stops at the block it has come to. -/
def Dev.dropSmithy (d0 : Dev) (g : Nat) : Dev :=
  let h := hearthOf g
  let runs := fun (x : Nat) => match (d0.hth h).smq.get [] x with
    | o :: _ => o.g == g
    | [] => false
  let d := (List.range 3).foldl (fun d x => if runs x then d.smOrphan h x else d) d0
  let q : Map (List SmOp) :=
    (d.hth h).smq.mapAll (fun _ => []) (fun _ l => l.filter (fun o => o.g != g))
  let d1 := d.setHth h { d.hth h with smq := q }
  { d1 with eng := { d1.eng with
    kept := ((d1.eng.kept.erase (g * 4)).erase (g * 4 + 1)).erase (g * 4 + 2),
    cerr := ((d1.eng.cerr.erase (g * 4)).erase (g * 4 + 1)).erase (g * 4 + 2) } }

/-- A thread's locks are abandoned (R332), and a grant on its way to it. -/
def Dev.abandonLocks (d : Dev) (g : Nat) : Dev :=
  let t := d.thr g
  let d1 := t.locks.foldl (fun d lg => d.lockSend (.abandon lg.1 g lg.2)) d
  let onWay := d1.lck.msgs.filterMap (fun m => match m with | .grant n g' gen _ => if g' = g then some (n, gen) else none | _ => none)
  let d2 := { d1 with lck := { d1.lck with
    msgs := d1.lck.msgs.filter (fun m => match m with | .grant _ g' _ _ => g' != g | _ => true) } }
  onWay.foldl (fun d lg => d.lockSend (.abandon lg.1 g lg.2)) d2

/-- A fault record of thread `g` that still waits in a report queue is withdrawn (R126). -/
def Dev.withdrawReport (d : Dev) (src h : Nat) : Dev :=
  let x := d.hth h
  let y := { x with repq := x.repq.filter (fun r => r.src != src) }
  let d1 := if y = x then d else d.setHth h y
  let z := d1.hth 0
  let z' := { z with repq := z.repq.filter (fun r => r.src != src) }
  if z' = z then d1 else d1.setHth 0 z'

/-- Thread `g` becomes OFF (R92, R126): its task is cancelled and its ticket skipped, its locks are abandoned, its
staged words, repeat state and in-trap bit are discarded, requests in flight are abandoned, its smithy
operations are dropped, and its waiting fault record is withdrawn. `unbound` says how its flue binding ends. -/
def Dev.turnThreadOff (d : Dev) (g : Nat) (unbound : Dev → Nat → Dev) : Dev :=
  let d1 := match (d.thr g).task with
    | some s => d.killTask s
    | none => d
  let d2 := unbound (((d1.withdraw g true).leaveLocks g).abandonLocks g) g
  let d3 := (d2.dropSmithy g).withdrawReport g (hearthOf g)
  let d4 := d3.updThr g (fun t => { t with
    st := .off, cause := 0, wait := .none, ctxH := Word.zero, ctxL := Word.zero, staged := [], stagedName := 0,
    bindName := 0, rep := .none, hc := 0, inTrap := false, locks := [], wdog := 0, wdDue := false,
    step := false, yielded := false, boost := false })
  (d4.endRepU g).leave g

/-- A kill (R92, R123, R126): the undelivered words of a bound message are discarded with the thread's state. -/
def Dev.killThread (d : Dev) (g : Nat) : Dev := d.turnThreadOff g Dev.dropBinding

end Sys2Proof.Machine
end

