-- ==== Sys2Proof/Machine/Operands.lean ====
section
/-!
DEFINITION. The operand forms of the engine instructions: immediates under EXI (R61, R62), displacements, addresses from
pairs (R64–R66), and the tag rules of operands (R27, R28).
-/
namespace Sys2Proof.Machine

/-- The immediate of MOVI, ADD and CMP: sign-extended unless two EXI give all sixteen bits. None is a reserved unit. -/
def immSigned (exi : Exi) (k : BitVec 4) : Option W16 :=
  match exi with
  | [] => some (k.signExtend 16)
  | [x] => some ((x.append k).signExtend 16)
  | [x0, x1] => if x0.toNat < 16 then some ((x0.truncate 4).append (x1.append k)) else none
  | _ => none

/-- The immediate of AND, OR and XOR: zero-extended unless two EXI give all sixteen bits. -/
def immUnsigned (exi : Exi) (k : BitVec 4) : Option W16 :=
  match exi with
  | [] => some (k.zeroExtend 16)
  | [x] => some ((x.append k).zeroExtend 16)
  | [x0, x1] => if x0.toNat < 16 then some ((x0.truncate 4).append (x1.append k)) else none
  | _ => none

/-- The displacement of a load or store with accesses of `size` bytes, modulo 2^32. -/
def memDisp (exi : Exi) (size : Nat) : Option Nat :=
  match exi with
  | [] => some 0
  | [x] => some ((x.signExtend 32).toNat * size % 2 ^ 32)
  | [x0, x1] => some (((x0.append x1).signExtend 32).toNat * size % 2 ^ 32)
  | _ => none

/-- The displacement of a branch in words, modulo 32,768. -/
def branchDisp (exi : Exi) (dd : W8) : Option Nat :=
  match exi with
  | [] => some ((dd.signExtend 15).toNat)
  | [x] => some (((x.append dd).signExtend 16).toNat % 32768)
  | _ => none

/-- The segment nibble of pair k (R53, R64). -/
def Thread.seg (t : Thread) (k : Nat) : Nat :=
  let r := if k < 4 then t.segh else t.segl
  r.toNat / 2 ^ (4 * (3 - k % 4)) % 16

/-- The 32-bit offset that pair k and a displacement give. -/
def Thread.low (t : Thread) (k disp : Nat) : Nat := (pairNum (t.pair k) + disp) % 2 ^ 32

/-- The virtual address of pair k and a displacement (R64). -/
def Thread.va (t : Thread) (k disp : Nat) : Nat := t.seg k * 2 ^ 32 + t.low k disp

/-- The tag or poison fault of a base pair (R28, R38): a fault of its first offending word, the tag fault first. -/
def Thread.baseFault (t : Thread) (k : Nat) : Option FaultInfo :=
  addrOperands (t.get (2 * k)) (2 * k) (t.get (2 * k + 1)) (2 * k + 1)

/-- U = 1: the pair advances past the access, as two PLAIN words (R65). -/
def Thread.bump (t : Thread) (k low size : Nat) : Thread :=
  let n := (low + size) % 2 ^ 32
  t.setPair k (Word.plain (w16 (n / 65536))) (Word.plain (w16 n))

/-- The tag fault of the words that an ALU instruction reads (R27), of the first one that is a HANDLE or TICKET. -/
def aluTagFault (a : Word) (na : Nat) (b : Option (Word × Nat)) : Option FaultInfo :=
  if a.isRef then some (operandFault 1 na 0 a.v)
  else match b with
    | some (w, nb) => if w.isRef then some (operandFault 1 nb 0 w.v) else none
    | none => none

end Sys2Proof.Machine
end

