-- ==== Sys2Proof/Machine/Alu.lean ====
section
/-!
DEFINITION. The arithmetic, move and branch instructions of an engine (R67–R73, R78, R79), the repeat prefixes (R101–R108),
and the coprocessor register moves that need nothing else.
-/
namespace Sys2Proof.Machine

/-! ### The classes of R27 -/

/-- An ALU instruction on words `a` (register `na`) and `b`: the tag fault of R27, else its result into a register when it
writes one, PLAIN or POISON, and all flags. `carryIn` says that it reads the carry, which the poison mark taints (R29). -/
def aluBody (g na : Nat) (b : Thread → Option (Word × Nat)) (carryIn wr : Bool) (f : Bool → W16 → W16 → AluRes)
    (d : Dev) : IRes :=
  let t := d.thr g
  let a := t.get na
  match aluTagFault a na (b t) with
  | some x => .fault x
  | none =>
    let bw := ((b t).map Prod.fst).getD Word.zero
    let pm := a.isPoison || bw.isPoison || (carryIn && t.fl.pm)
    let res := f t.fl.c a.v bw.v
    let t1 := { t with fl := res.flags pm false }
    .done (d.setThr g (if wr then t1.set na ⟨if pm then .poison else .plain, res.r⟩ else t1))

/-- A register-form ALU instruction. -/
def Dev.aluReg (d : Dev) (g : Thr) (a b : Reg) (carryIn wr : Bool) (f : Bool → W16 → W16 → AluRes) : Dev :=
  d.issue g 0 true true (aluBody g a (fun t => some (t.get b, b)) carryIn wr f)

/-- An immediate-form ALU instruction; a reserved immediate takes the EMU trap. -/
def Dev.aluImm (d : Dev) (g : Thr) (exi : Exi) (a : Reg) (imm : Option W16) (f : Bool → W16 → W16 → AluRes) : Dev :=
  d.issue g exi.length true true (fun d =>
    match imm with
    | none => .emu
    | some i => aluBody g a (fun _ => none) false true (fun c x _ => f c x i) d)

/-- An immediate shift: an EXI before it is reserved (R61). -/
def Dev.aluShift (d : Dev) (g : Thr) (exi : Exi) (a : Reg) (f : W16 → AluRes) : Dev :=
  d.aluImm g exi a (if exi = [] then some 0 else none) (fun _ x _ => f x)

/-- `CMP` of register wA with a word (R72). -/
def cmpBody (g a : Nat) (b : Thread → Word) (d : Dev) : IRes :=
  let t := d.thr g
  .done (d.setThr g { t with fl := cmpFlags (t.get a) (b t) })

/-! ### Register form (R67) -/

def execMov (g : Thr) (a b : Reg) (s : State) : Host.Outcome State Fault Refusal :=
  s.onDev (fun d => d.issue g 0 true true (fun d => .done (d.updThr g (fun t => t.set a (t.get b)))))
def execAdd (g : Thr) (a b : Reg) (s : State) : Host.Outcome State Fault Refusal :=
  s.onDev (·.aluReg g a b false true (fun _ x y => aluAdd false x y))
def execAdc (g : Thr) (a b : Reg) (s : State) : Host.Outcome State Fault Refusal :=
  s.onDev (·.aluReg g a b true true aluAdd)
def execSub (g : Thr) (a b : Reg) (s : State) : Host.Outcome State Fault Refusal :=
  s.onDev (·.aluReg g a b false true (fun _ x y => aluSub false x y))
def execSbc (g : Thr) (a b : Reg) (s : State) : Host.Outcome State Fault Refusal :=
  s.onDev (·.aluReg g a b true true aluSub)
def execAnd (g : Thr) (a b : Reg) (s : State) : Host.Outcome State Fault Refusal :=
  s.onDev (·.aluReg g a b false true (fun _ x y => aluBits (x &&& y)))
def execOr (g : Thr) (a b : Reg) (s : State) : Host.Outcome State Fault Refusal :=
  s.onDev (·.aluReg g a b false true (fun _ x y => aluBits (x ||| y)))
def execXor (g : Thr) (a b : Reg) (s : State) : Host.Outcome State Fault Refusal :=
  s.onDev (·.aluReg g a b false true (fun _ x y => aluBits (x ^^^ y)))
def execShl (g : Thr) (a b : Reg) (s : State) : Host.Outcome State Fault Refusal :=
  s.onDev (·.aluReg g a b false true (fun _ x y => aluShl (y.toNat % 16) x))
def execShr (g : Thr) (a b : Reg) (s : State) : Host.Outcome State Fault Refusal :=
  s.onDev (·.aluReg g a b false true (fun _ x y => aluShr (y.toNat % 16) x))
def execSar (g : Thr) (a b : Reg) (s : State) : Host.Outcome State Fault Refusal :=
  s.onDev (·.aluReg g a b false true (fun _ x y => aluSar (y.toNat % 16) x))
def execCsum (g : Thr) (a b : Reg) (s : State) : Host.Outcome State Fault Refusal :=
  s.onDev (·.aluReg g a b false true (fun _ x y => aluCsum x y))
def execCmp (g : Thr) (a b : Reg) (s : State) : Host.Outcome State Fault Refusal :=
  s.onDev (·.issue g 0 true true (cmpBody g a (fun t => t.get b)))
def execTst (g : Thr) (a b : Reg) (s : State) : Host.Outcome State Fault Refusal :=
  s.onDev (·.aluReg g a b false false (fun _ x y => aluBits (x &&& y)))
def execMul (g : Thr) (a b : Reg) (s : State) : Host.Outcome State Fault Refusal :=
  s.onDev (·.aluReg g a b false true (fun _ x y => aluMul x y))
def execMulh (g : Thr) (a b : Reg) (s : State) : Host.Outcome State Fault Refusal :=
  s.onDev (·.aluReg g a b false true (fun _ x y => aluMulh x y))

/-! ### Immediate form (R68) -/

def execMovi (g : Thr) (exi : Exi) (a : Reg) (k : BitVec 4) (s : State) : Host.Outcome State Fault Refusal :=
  s.onDev (·.issue g exi.length true true (fun d =>
    match immSigned exi k with
    | none => .emu
    | some i => .done (d.updThr g (fun t => t.set a (Word.plain i)))))
def execAddImm (g : Thr) (exi : Exi) (a : Reg) (k : BitVec 4) (s : State) : Host.Outcome State Fault Refusal :=
  s.onDev (·.aluImm g exi a (immSigned exi k) (fun _ x i => aluAdd false x i))
def execAndImm (g : Thr) (exi : Exi) (a : Reg) (k : BitVec 4) (s : State) : Host.Outcome State Fault Refusal :=
  s.onDev (·.aluImm g exi a (immUnsigned exi k) (fun _ x i => aluBits (x &&& i)))
def execOrImm (g : Thr) (exi : Exi) (a : Reg) (k : BitVec 4) (s : State) : Host.Outcome State Fault Refusal :=
  s.onDev (·.aluImm g exi a (immUnsigned exi k) (fun _ x i => aluBits (x ||| i)))
def execXorImm (g : Thr) (exi : Exi) (a : Reg) (k : BitVec 4) (s : State) : Host.Outcome State Fault Refusal :=
  s.onDev (·.aluImm g exi a (immUnsigned exi k) (fun _ x i => aluBits (x ^^^ i)))
def execShlImm (g : Thr) (exi : Exi) (a : Reg) (k : BitVec 4) (s : State) : Host.Outcome State Fault Refusal :=
  s.onDev (·.aluShift g exi a (aluShl k.toNat))
def execShrImm (g : Thr) (exi : Exi) (a : Reg) (k : BitVec 4) (s : State) : Host.Outcome State Fault Refusal :=
  s.onDev (·.aluShift g exi a (aluShr k.toNat))
def execSarImm (g : Thr) (exi : Exi) (a : Reg) (k : BitVec 4) (s : State) : Host.Outcome State Fault Refusal :=
  s.onDev (·.aluShift g exi a (aluSar k.toNat))
def execRol (g : Thr) (exi : Exi) (a : Reg) (k : BitVec 4) (s : State) : Host.Outcome State Fault Refusal :=
  s.onDev (·.aluShift g exi a (aluRol k.toNat))
def execCmpImm (g : Thr) (exi : Exi) (a : Reg) (k : BitVec 4) (s : State) : Host.Outcome State Fault Refusal :=
  s.onDev (·.issue g exi.length true true (fun d =>
    match immSigned exi k with
    | none => .emu
    | some i => cmpBody g a (fun _ => Word.plain i) d))

/-! ### System form without memory (R70) -/

/-- `TAGR` (R30). -/
def execTagr (g : Thr) (a b : Reg) (s : State) : Host.Outcome State Fault Refusal :=
  s.onDev (·.issue g 0 true true (fun d =>
    .done (d.updThr g (fun t => t.set a (Word.plain ((t.get b).tag.bits.zeroExtend 16))))))
/-- `NOT`: an ALU instruction on one operand. -/
def execNot (g : Thr) (a : Reg) (s : State) : Host.Outcome State Fault Refusal :=
  s.onDev (·.issue g 0 true true (aluBody g a (fun _ => none) false true (fun _ x _ => aluBits (~~~x))))
/-- `TAGS` (R30): PLAIN and POISON only; the other two encodings are reserved. -/
def execTags (g : Thr) (a : Reg) (t : BitVec 2) (s : State) : Host.Outcome State Fault Refusal :=
  s.onDev (·.issue g 0 (t = 0 ∨ t = 3) (t = 0 ∨ t = 3) (fun d =>
    if t = 0 ∨ t = 3 then .done (d.updThr g (fun x => x.set a ⟨Tag.ofBits t, (x.get a).v⟩)) else .emu))

/-- The word that a special register reads as (R53). -/
def Dev.special (d : Dev) (g sp : Nat) : Word :=
  let t := d.thr g
  match sp with
  | 0 => Word.plain t.rc
  | 1 => Word.plain t.fl.word
  | 2 => Word.plain t.segh
  | 3 => Word.plain t.segl
  | 4 => Word.plain (w16 g)
  | 5 => t.ctxH
  | 6 => t.ctxL
  | _ => Word.zero

/-- `MOV wA, sS` (R53); special register 7 is reserved. -/
def execMovFromSpecial (g : Thr) (a : Reg) (sp : Fin 8) (s : State) : Host.Outcome State Fault Refusal :=
  s.onDev (·.issue g 0 (sp.val ≠ 7) (sp.val ≠ 7) (fun d =>
    if sp.val = 7 then .emu else .done (d.updThr g (fun t => t.set a (d.special g sp)))))
/-- `MOV sS, wA` (R53): the source must be PLAIN; only RC, FLAGS, SEGH and SEGL may be written. -/
def execMovToSpecial (g : Thr) (a : Reg) (sp : Fin 8) (s : State) : Host.Outcome State Fault Refusal :=
  s.onDev (·.issue g 0 (sp.val < 4) (sp.val < 4) (fun d =>
    if 4 ≤ sp.val then .emu else
    let w := (d.thr g).get a
    match addrOperand w a with
    | some f => .fault f
    | none => .done (d.updThr g (fun t =>
        match sp.val with
        | 0 => { t with rc := w.v }
        | 1 => { t with fl := Flags.ofWord w.v }
        | 2 => { t with segh := w.v }
        | _ => { t with segl := w.v }))))

/-! ### Branches (R69, R29) -/

/-- A conditional branch: with the reference mark set, a condition other than equal and not-equal raises a tag fault; one that
holds with the poison mark set raises a poison fault. Neither fault has an operand register: the source is given as 0. -/
def Dev.branch (d : Dev) (g : Thr) (exi : Exi) (c : Nat) (dd : W8) : Dev :=
  d.issue g exi.length false false (fun d =>
    let t := d.thr g
    match branchDisp exi dd with
    | none => .emu
    | some n =>
      if c < 14 ∧ 2 ≤ c ∧ t.fl.rm then .fault (operandFault 1 0 0 0)
      else if condHolds c t.fl then
        if c < 14 ∧ t.fl.pm then .fault (operandFault 2 0 0 0)
        else .jump d (t.pc.toNat + exi.length + 1 + n)
      else .done d)

def execBeq (g : Thr) (exi : Exi) (d : W8) (s : State) : Host.Outcome State Fault Refusal := s.onDev (·.branch g exi 0 d)
def execBne (g : Thr) (exi : Exi) (d : W8) (s : State) : Host.Outcome State Fault Refusal := s.onDev (·.branch g exi 1 d)
def execBlo (g : Thr) (exi : Exi) (d : W8) (s : State) : Host.Outcome State Fault Refusal := s.onDev (·.branch g exi 2 d)
def execBhs (g : Thr) (exi : Exi) (d : W8) (s : State) : Host.Outcome State Fault Refusal := s.onDev (·.branch g exi 3 d)
def execBmi (g : Thr) (exi : Exi) (d : W8) (s : State) : Host.Outcome State Fault Refusal := s.onDev (·.branch g exi 4 d)
def execBpl (g : Thr) (exi : Exi) (d : W8) (s : State) : Host.Outcome State Fault Refusal := s.onDev (·.branch g exi 5 d)
def execBvs (g : Thr) (exi : Exi) (d : W8) (s : State) : Host.Outcome State Fault Refusal := s.onDev (·.branch g exi 6 d)
def execBvc (g : Thr) (exi : Exi) (d : W8) (s : State) : Host.Outcome State Fault Refusal := s.onDev (·.branch g exi 7 d)
def execBhi (g : Thr) (exi : Exi) (d : W8) (s : State) : Host.Outcome State Fault Refusal := s.onDev (·.branch g exi 8 d)
def execBls (g : Thr) (exi : Exi) (d : W8) (s : State) : Host.Outcome State Fault Refusal := s.onDev (·.branch g exi 9 d)
def execBlt (g : Thr) (exi : Exi) (d : W8) (s : State) : Host.Outcome State Fault Refusal := s.onDev (·.branch g exi 10 d)
def execBge (g : Thr) (exi : Exi) (d : W8) (s : State) : Host.Outcome State Fault Refusal := s.onDev (·.branch g exi 11 d)
def execBgt (g : Thr) (exi : Exi) (d : W8) (s : State) : Host.Outcome State Fault Refusal := s.onDev (·.branch g exi 12 d)
def execBle (g : Thr) (exi : Exi) (d : W8) (s : State) : Host.Outcome State Fault Refusal := s.onDev (·.branch g exi 13 d)
def execBal (g : Thr) (exi : Exi) (d : W8) (s : State) : Host.Outcome State Fault Refusal := s.onDev (·.branch g exi 14 d)
/-- `CALL` with a displacement: w15 takes the address after the branch word. -/
def execCall (g : Thr) (exi : Exi) (d : W8) (s : State) : Host.Outcome State Fault Refusal :=
  s.onDev (·.issue g exi.length false false (fun x =>
    match branchDisp exi d with
    | none => .emu
    | some n =>
      let next := (x.thr g).pc.toNat + exi.length + 1
      .jump (x.updThr g (fun t => t.set 15 (Word.plain (w16 (next % 32768))))) (next + n)))

/-! ### Register jumps (R78, R79) -/

/-- The address that a register gives a jump, or the fault of R78. -/
def jumpTarget (w : Word) (n : Nat) : FaultInfo ⊕ Nat :=
  match addrOperand w n with
  | some f => .inl f
  | none => if w.v.msb then .inl (busFault 7) else .inr w.v.toNat

def execBr (g : Thr) (a : Reg) (s : State) : Host.Outcome State Fault Refusal :=
  s.onDev (·.issue g 0 false false (fun d =>
    match jumpTarget ((d.thr g).get a) a with
    | .inl f => .fault f
    | .inr n => .jump d n))
def execCallReg (g : Thr) (a : Reg) (s : State) : Host.Outcome State Fault Refusal :=
  s.onDev (·.issue g 0 false false (fun d =>
    match jumpTarget ((d.thr g).get a) a with
    | .inl f => .fault f
    | .inr n => .jump (d.updThr g (fun t => t.set 15 (Word.plain (w16 ((t.pc.toNat + 1) % 32768))))) n))
def execRet (g : Thr) (s : State) : Host.Outcome State Fault Refusal :=
  s.onDev (·.issue g 0 false false (fun d =>
    match jumpTarget ((d.thr g).get 15) 15 with
    | .inl f => .fault f
    | .inr n => .jump d n))
/-- `JT` (R79): entry i of the table that follows the literal, or the first word after the table. -/
def execJt (g : Thr) (a : Reg) (lit : BitVec 14) (s : State) : Host.Outcome State Fault Refusal :=
  s.onDev (·.issue g 0 false false (fun d =>
    match jumpTarget ((d.thr g).get a) a with
    | .inl f => .fault f
    | .inr n => .jump d ((d.thr g).pc.toNat + 2 + min n lit.toNat)))

/-! ### Repeat prefixes (R101–R104) -/

/-- A prefix sets HC and the repeat state and moves PC to the repeated word. A STEP does not end at it (R105, R107). -/
def Dev.prefix_ (d : Dev) (g count : Nat) (r : RepState) : Dev :=
  d.updThr g (fun t => { t with hc := w16 count, rep := r, pc := t.pc + 1 })

/-- How many operation codes a smithy unit has (R334). -/
def smithyOps (x : Nat) : Nat := [3, 4, 2].getD x 0

/-- Whether the word that follows a prefix may be repeated in its form (R104), judged from the program store. -/
def repeatable (w : BitVec 14) (form : RepState) : Bool :=
  let n := w.toNat
  let top := n / 4096
  let sub := n / 64 % 64
  let f := n % 64
  let inI := form == .repI
  if top = 0 then true
  else if top = 1 then
    let op := n / 256 % 16
    let a := n / 16 % 16
    let k := n % 16
    let upd := decide (8 ≤ k)
    let p := k % 8
    if op = 10 ∨ op = 14 then !(upd && decide (a / 2 = p))
    else if op = 12 then decide (a % 2 = 0) && !(upd && decide (a / 2 = p))
    else if op = 13 then decide (a % 2 = 0)
    else true
  else if top = 2 then false
  else if sub < 4 then true
  else if sub < 0x14 then inI
  else if sub < 0x18 then
    let sp := f / 16 % 4 + (if sub % 2 = 1 then 4 else 0)
    if 0x16 ≤ sub then decide (sp < 4) else decide (sp ≠ 7)
  else if sub < 0x1A then false
  else if sub = 0x1A then decide (f < 16)
  else if sub = 0x1B then decide (f < 16 ∨ 48 ≤ f)
  else if sub < 0x20 then false
  else if sub = 0x20 then inI && decide (f = 0)
  else if sub < 0x24 then false
  else if sub = 0x24 then inI && decide (f = 0)
  else if sub = 0x25 then decide (f < 17)
  else if sub = 0x26 then false
  else if sub = 0x27 then inI && decide (f = 0)
  else if sub < 0x2B then inI && decide (f < 16)
  else if sub < 0x2D then inI && decide (f < 8)
  else if sub = 0x2D then inI && decide (f < 16)
  else if sub = 0x2E then inI && decide (f < 8)
  else if sub = 0x2F then inI && decide (f / 8 ≠ f % 8)
  else if sub = 0x30 then inI && decide (f < 16)
  else if sub < 0x33 then true
  else if sub = 0x33 then
    let x := f / 16
    decide (f % 8 < smithyOps x)
  else if sub = 0x34 then decide (f % 16 = 0 ∧ f / 16 ≠ 3)
  else false

/-- `REP.I` (R101, R103): the count from RC, or n + 1. A follower that may not be repeated makes the prefix reserved. -/
def execRepI (g : Thr) (n : Option (Fin 32)) (s : State) : Host.Outcome State Fault Refusal :=
  s.onDev (·.issue g 0 false false (fun d =>
    let t := d.thr g
    if !repeatable (d.progWord (hearthOf g) (t.pc.toNat + 1)) .repI then .emu
    else .ended (d.prefix_ g (match n with | some k => k.val + 1 | none => t.rc.toNat) .repI)))
/-- `REP.U` (R101, R107): n + 1 iterations, during which no other thread of the engine issues. -/
def execRepU (g : Thr) (n : Fin 16) (s : State) : Host.Outcome State Fault Refusal :=
  s.onDev (·.issue g 0 false false (fun d =>
    let t := d.thr g
    if !repeatable (d.progWord (hearthOf g) (t.pc.toNat + 1)) .repU then .emu
    else
      let d1 := d.prefix_ g (n.val + 1) .repU
      .ended (d1.setEngn (engineOf g) { d1.engn (engineOf g) with repU := some (g.val % 8) })))

end Sys2Proof.Machine
end

