-- ==== Sys2Proof/Machine/Translate.lean ====
section
/-!
DEFINITION. Translation (R289–R298): contexts, table walks, the TLBs, invalidation, and the checks of a physical address
(R45, R46, R268).
-/
namespace Sys2Proof.Machine

/-! ### Contexts (R290) -/

/-- The context of hearth `h`. -/
def Dev.ctxOf (d : Dev) (h : Nat) : Nat := d.fld .mmuHsel h 0 4 0
/-- Context `c` is in mode TRANSLATE. -/
def Dev.translates (d : Dev) (c : Nat) : Bool := d.fld .mmuCtxCfg c 0 1 0 == 1
/-- The level-1 table of context `c`. -/
def Dev.ctxRoot (d : Dev) (c : Nat) : Nat :=
  d.fld .mmuCtxRootHi c 0 3 0 * 2 ^ 32 + (d.rd .mmuCtxRootLo c).toNat / 8192 * 8192

/-- The attribute of an address in BYPASS. -/
def Dev.bypassAttr (d : Dev) (pa : Nat) : Attr :=
  match d.region pa with
  | .packet => .pkt
  | _ => .uc

/-! ### Walks (R291–R295) -/

/-- The attribute that two bits encode (R293). -/
def attrOf : Nat → Option Attr
  | 0 => some .wb
  | 1 => some .uc
  | 2 => some .pkt
  | _ => none

/-- A walk reads one entry: none when its address is not in a granary bank that is on or a tagged LPDDR6 region. -/
def Dev.walkPair (d : Dev) (pa : Nat) : Option ((Word × Word) × Dev) :=
  let ok := match d.region pa with
    | .granary b => d.domOn (domGran b)
    | .lpddr _ => d.tagged pa
    | _ => false
  if ok then
    let (ws, d1) := d.readWords pa 2
    some ((ws.headD Word.zero, ws.getD 1 Word.zero), d1)
  else none

/-- The tag checks of an entry (R294 orders 2 and 3). -/
def pteTags (h l : Word) : Option Nat :=
  if h.isPoison ∨ l.isPoison then some 5 else if h.isRef ∨ l.isRef then some 4 else none

/-- What a level-1 entry comes to: a subcause, the address of a level-2 table, or a block (number, attribute, W). -/
def pte1 (h l : Word) (store : Bool) : Nat ⊕ (Nat ⊕ (Nat × Attr × Bool)) :=
  let v := h.v.toNat
  match pteTags h l with
  | some s => .inl s
  | none =>
    if v / 16384 = 0 then .inl 1
    else if v / 16384 = 1 then
      if v / 512 % 32 ≠ 0 then .inl 4 else .inr (.inl ((v % 512) * 2 ^ 27 + l.v.toNat * 2048))
    else if v / 16384 = 2 then
      match attrOf (v / 4096 % 4) with
      | none => .inl 4
      | some a =>
        let w := v / 2048 % 2 = 1
        if l.v ≠ 0 then .inl 4
        else if store ∧ ¬ w then .inl 3
        else .inr (.inr (v % 2048, a, w))
    else .inl 4

/-- What a level-2 entry comes to: a subcause, or a page (number, attribute, W). -/
def pte2 (h l : Word) (store : Bool) : Nat ⊕ (Nat × Attr × Bool) :=
  let v := h.v.toNat
  match pteTags h l with
  | some s => .inl s
  | none =>
    if v / 16384 = 0 then .inl 2
    else if v / 16384 = 2 then
      match attrOf (v / 4096 % 4) with
      | none => .inl 4
      | some a =>
        let w := v / 2048 % 2 = 1
        if v / 16 % 128 ≠ 0 then .inl 4
        else if store ∧ ¬ w then .inl 3
        else .inr ((v % 16) * 65536 + l.v.toNat, a, w)
    else .inl 4

/-- A walk in context `c`: the subcause of its fault, or the entry to install. -/
def Dev.walk (d : Dev) (c va : Nat) (store : Bool) : (Nat ⊕ TlbEntry) × Dev :=
  match d.walkPair (d.ctxRoot c + va / 2 ^ 25 % 2048 * 4) with
  | none => (.inl 6, d)
  | some ((h, l), d1) =>
    match pte1 h l store with
    | .inl s => (.inl s, d1)
    | .inr (.inr (n, a, w)) => (.inr ⟨c, true, va / 2 ^ 25, n, a, w⟩, d1)
    | .inr (.inl t2) =>
      match d1.walkPair (t2 + va / 65536 % 512 * 4) with
      | none => (.inl 6, d1)
      | some ((h2, l2), d2) =>
        match pte2 h2 l2 store with
        | .inl s => (.inl s, d2)
        | .inr (n, a, w) => (.inr ⟨c, false, va / 65536, n, a, w⟩, d2)

/-- A walk in context `c` would read an entry in a region that is being filled: it waits (R287). -/
def Dev.walkWaits (d : Dev) (c va : Nat) : Bool :=
  let e1 := d.ctxRoot c + va / 2 ^ 25 % 2048 * 4
  d.filling e1 || (match d.walkPair e1 with
    | some ((h, l), _) =>
      match pte1 h l false with
      | .inr (.inl t2) => d.filling (t2 + va / 65536 % 512 * 4)
      | _ => false
    | none => false)

/-! ### TLBs (R296) -/

/-- A TLB entry translates a virtual address of context `c`. -/
def TlbEntry.covers (e : TlbEntry) (c va : Nat) : Bool :=
  e.ctx == c && (if e.block then e.vnum == va / 2 ^ 25 else e.vnum == va / 65536)

/-- The physical address that an entry gives. -/
def TlbEntry.pa (e : TlbEntry) (va : Nat) : Nat :=
  if e.block then e.pnum * 2 ^ 25 + va % 2 ^ 25 else e.pnum * 65536 + va % 65536

/-- What translation comes to. -/
inductive Trans where
  | ok (pa : Nat) (attr : Attr)
  | miss
  | fault (sub : Nat)
deriving DecidableEq, Repr

/-- Translate in context `c` with a TLB's entries. -/
def Dev.translate (d : Dev) (tlb : List TlbEntry) (c va : Nat) (store : Bool) : Trans :=
  if d.translates c then
    match tlb.find? (fun e => e.covers c va) with
    | none => .miss
    | some e => if store ∧ ¬ e.w then .fault 3 else .ok (e.pa va) e.attr
  else .ok va (d.bypassAttr va)

/-- The entries after a use of the one that covers an address: it becomes the most recently used. -/
def tlbUse (tlb : List TlbEntry) (c va : Nat) : List TlbEntry :=
  match tlb.find? (fun e => e.covers c va) with
  | some e => e :: tlb.erase e
  | none => tlb

/-- The entries with one more, the least recently used dropped beyond `n`. -/
def tlbInstall (tlb : List TlbEntry) (e : TlbEntry) (n : Nat) : List TlbEntry :=
  (e :: tlb.filter (fun x => ¬ (x.ctx = e.ctx ∧ x.block = e.block ∧ x.vnum = e.vnum))).take n

/-- Translate an address of hearth `h`, with its TLB's order of use updated. -/
def Dev.hthTranslate (d : Dev) (h va : Nat) (store : Bool) : Trans × Dev :=
  let x := d.hth h
  let c := d.ctxOf h
  (d.translate x.tlb c va store, d.setHth h { x with tlb := tlbUse x.tlb c va })

/-- A walk of hearth `h`: the fault's subcause, or none with the entry installed. -/
def Dev.hthWalk (d : Dev) (h va : Nat) (store : Bool) : Option Nat × Dev :=
  match d.walk (d.ctxOf h) va store with
  | (.inl s, d1) => (some s, d1.count .hthWalkFaults h)
  | (.inr e, d1) => (none, d1.setHth h { d1.hth h with tlb := tlbInstall (d1.hth h).tlb e 128 })

/-! ### Checks of a physical address (R45, R46, R268, R286) -/

/-- The subcause of the bus fault that an access to a physical address raises, if it raises one. -/
def Dev.busCheck (d : Dev) (pa : Nat) (attr : Attr) : Option Nat :=
  match d.region pa with
  | .reserved => some 1
  | .absent => some 2
  | .hostOff => some 3
  | .shadow => some (1 + (Config.busSubcause 0).toNat % 7)
  | .granary b => if d.domOn (domGran b) then none else some (1 + (Config.busSubcause 1).toNat % 7)
  | .larder h => if d.domOn (domHearth h) then none else some (1 + (Config.busSubcause 1).toNat % 7)
  | .packet => if attr = .pkt then none else some 4
  | .lpddr _ => none
  | .host _ => none
  | .setup => if attr = .uc then none else some 4
  | .lockWin => if attr = .uc then none else some 4
  | .window _ => if attr = .uc then none else some 4

/-! ### Invalidation (R297, R298) -/

/-- The entries that an invalidation leaves: operation 1 ALL, 2 CONTEXT, 3 ADDRESS. -/
def tlbPurge (tlb : List TlbEntry) (op c va : Nat) : List TlbEntry :=
  tlb.filter (fun e =>
    ¬ (op = 1 ∨ (op = 2 ∧ e.ctx = c) ∨ (op = 3 ∧ e.covers c va)))

/-- The walks in flight for a hearth's threads and smithy install nothing. -/
def Dev.staleWalks (d0 : Dev) (h : Nat) : Dev :=
  let y := d0.hth h
  let d := d0.setHth h { y with smq := y.smq.mapAll (fun _ => []) (fun _ l => l.map (fun o =>
    { o with blk := { o.blk with walk := o.blk.walk.map (fun w => { w with stale := true }) } })) }
  { d with eng := { d.eng with threads := ⟨d.eng.threads.entries.map (fun e =>
      match e.2.wait with
      | .walk i va _ => if hearthOf e.1 = h then (e.1, { e.2 with wait := .walk i va true }) else e
      | _ => e)⟩ } }

/-- An invalidation starts with GO: BUSY (R298). The walks in flight in its targets will install nothing. -/
def Dev.tlbiStart (d : Dev) : Dev :=
  let tgt := d.rd .mmuTlbiTgt
  let d1 := (List.range 16).foldl (fun d h => if tgt.getLsbD h then d.staleWalks h else d) d
  let d2 := if tgt.getLsbD 16 then
      { d1 with blw := { d1.blw with chs := ⟨d1.blw.chs.entries.map (fun e =>
          (e.1, { e.2 with walk := e.2.walk.map (fun w => (w.1, true)) }))⟩ } }
    else d1
  { d2.setBit .mmuTlbiStat 0 0 31 true with mmu := { d2.mmu with tlbi := true } }

/-- An invalidation completes: every target has removed the entries; BUSY clears, DONE sets, event 160 with EVT. -/
def Dev.tlbiFinish (d : Dev) : Dev :=
  let cmd := d.rd .mmuTlbiCmd
  let op := bits cmd 1 0
  let c := bits cmd 12 8
  let va := d.fld .mmuTlbiVaHi 0 0 3 0 * 2 ^ 32 + (d.rd .mmuTlbiVaLo).toNat / 65536 * 65536
  let tgt := d.rd .mmuTlbiTgt
  let d1 := (List.range 16).foldl (fun d h =>
    if tgt.getLsbD h then d.setHth h { d.hth h with tlb := tlbPurge (d.hth h).tlb op c va } else d) d
  let d2 := { d1 with
    mmu := ⟨false, if tgt.getLsbD 16 then tlbPurge d1.mmu.blwTlb op c va else d1.mmu.blwTlb⟩ }
  let d3 := (d2.setBit .mmuTlbiStat 0 0 31 false).setBit .mmuTlbiStat 0 0 30 true
  if cmd.getLsbD 7 then d3.raiseEvent 160 0 else d3

end Sys2Proof.Machine
end

