-- ==== Sys2Proof/Machine/Cache.lean ====
section
/-!
DEFINITION. The cluster caches, line buffers, prefetch streams, victim buffers and range engines (R268–R281).
-/
namespace Sys2Proof.Machine

/-! ### Lines -/

def Line.get (l : Line) (k : Nat) : Word := l.words.get Word.zero k
/-- The line holds unit `u`. -/
def Line.hasUnit (l : Line) (u : Nat) : Bool := l.whole || l.mask.getLsbD u
/-- Word `k` as a reader sees it: POISON where its check bits hold an uncorrectable error (R41). -/
def Line.seen (l : Line) (k : Nat) : Word := if 2 ≤ l.err.get 0 k then Word.poison (l.get k).v else l.get k
/-- A line fetched whole. -/
def Line.ofWords (addr : Nat) (ws : List Word) : Line :=
  { addr := addr, dirty := false, mask := 0, part := 0, full := 0, whole := true,
    words := ((List.range 32).zip ws).foldl (fun m kw => m.set Word.zero kw.1 kw.2) Map.empty,
    err := Map.empty, issued := false, clean := false }
/-- The 32 words of a line, as a reader sees them. -/
def Line.all (l : Line) : List Word := (List.range 32).map l.seen
/-- The bytes of word `k` that were written in a unit that was not written whole. -/
def Line.partWord (l : Line) (k : Nat) : WbWord :=
  ⟨k % 4, l.seen k, l.part.getLsbD (2 * k), l.part.getLsbD (2 * k + 1), l.full.getLsbD k⟩
/-- Word `k` of a line with what memory holds there: memory's under the written mask, and under the bytes written in a unit that was not
written whole (notes/assumptions/53.md). -/
def Line.over (l : Line) (k : Nat) (old : Word) : Word :=
  if l.hasUnit (k / 4) then l.seen k else mergeWord old (l.partWord k)
/-- Fetched words merged under the written mask (R272). -/
def Line.merge (l : Line) (ws : List Word) : Line :=
  let put := fun (m : Map Word) (kw : Nat × Word) => if l.hasUnit (kw.1 / 4) then m else m.set Word.zero kw.1 (l.over kw.1 kw.2)
  { l with whole := true, part := 0, full := 0, words := ((List.range 32).zip ws).foldl put l.words,
           err := l.err.filter (fun k _ => l.hasUnit (k / 4)) }

/-- The engines of hearth `h`. -/
def hearthEngines (h : Nat) : List Nat := (List.range 16).map (· + h * 16)

/-- Apply `f` to engine `e`. -/
def Dev.updEngn (d : Dev) (e : Nat) (f : Engine → Engine) : Dev := d.setEngn e (f (d.engn e))
/-- Apply `f` to hearth `h`. -/
def Dev.updHth (d : Dev) (h : Nat) (f : Hearth → Hearth) : Dev := d.setHth h (f (d.hth h))

/-- A read of words `k` to `k + n - 1` of a line of hearth `h` meets the errors of their check bits, and reports each (R41). -/
def Dev.lineMeet (d : Dev) (h : Nat) (l : Line) (k : Nat) : Nat → Dev
  | 0 => d
  | n + 1 =>
    let pa := l.addr * 64 + 2 * k
    let d1 := match l.err.get 0 k with
      | 0 => d
      | e => d.log4 (min e 2 - 1) 18 (2 + min e 2) h (w16 (pa / 2 ^ 32)) (w16 (pa / 65536)) (w16 pa)
    d1.lineMeet h l (k + 1) n

/-- The line leaves the line buffers of the hearth (R269). -/
def Dev.dropBuffers (d : Dev) (h la : Nat) : Dev :=
  (hearthEngines h).foldl (fun d e =>
    if (d.engn e).lines.contains la then d.updEngn e (fun x => { x with lines := x.lines.filter (· ≠ la) }) else d) d

/-! ### Finding and placing -/

/-- Where the cache of hearth `h` holds line `la`: set * 8 + way. -/
def Dev.cacheFind (d : Dev) (h la : Nat) : Option (Nat × Line) :=
  (List.range 8).findSome? (fun w =>
    match (d.hth h).cache.get none (la % 256 * 8 + w) with
    | some l => if l.addr = la then some (la % 256 * 8 + w, l) else none
    | none => none)

/-- The newest copy of line `la` in the victim buffer of hearth `h`. -/
def Dev.victimFind (d : Dev) (h la : Nat) : Option Line := (d.hth h).victim.reverse.find? (fun l => l.addr == la)

/-- The copy of line `la` that hearth `h` holds: in its cache, else the newest in its victim buffer. -/
def Dev.heldLine (d : Dev) (h la : Nat) : Option Line :=
  match d.cacheFind h la with
  | some (_, l) => some l
  | none => d.victimFind h la

/-- The fetch of line `la` that is in progress in hearth `h`. -/
def Dev.fetchOf (d : Dev) (h la : Nat) : Option Fetch := (d.hth h).fetches.find? (fun f => f.line == la)

def Dev.setLine (d : Dev) (h k : Nat) (l : Option Line) : Dev :=
  d.updHth h (fun x => { x with cache := x.cache.set none k l })

/-- Way `w` of hearth `h` is locked (R279). -/
def Dev.wayLocked (d : Dev) (h w : Nat) : Bool := d.bit .hthCacheLock h 0 w

/-- The nodes of a set's pseudo-LRU tree on the way down to way `w`, each with whether the way lies in its upper half. -/
def plruPath (w : Nat) : List (Nat × Bool) :=
  [(0, decide (4 ≤ w)), (1 + w / 4, decide (2 ≤ w % 4)), (3 + w / 2, decide (w % 2 = 1))]

/-- A tree after a use of way `w`: its nodes point away from the way, or with `last` to it, which makes it the least recently used. -/
def plruUse (t : BitVec 7) (w : Nat) (last : Bool) : BitVec 7 :=
  (plruPath w).foldl (fun t p =>
    if p.2 == last then t ||| BitVec.ofNat 7 (2 ^ p.1) else t &&& ~~~(BitVec.ofNat 7 (2 ^ p.1))) t

/-- The way that a tree points to, passing over those that are not `free`. -/
def plruVictim (t : BitVec 7) (free : Nat → Bool) : Option Nat :=
  let pick := fun (node lo n : Nat) =>
    let any := fun (a : Nat) => (List.range n).any (fun k => free (a + k))
    if (t.getLsbD node && any (lo + n)) || !any lo then lo + n else lo
  let a := pick 0 0 4
  let b := pick (1 + a / 4) a 2
  let c := pick (3 + b / 2) b 1
  if free c then some c else none

/-- Way `k` % 8 of its set is used (R272: pseudo-LRU, as a tree of the family's kind, notes/assumptions/52.md). -/
def Dev.touch (d : Dev) (h k : Nat) (last : Bool) : Dev :=
  d.updHth h (fun x => { x with plru := x.plru.set 0 (k / 8) (plruUse (x.plru.get 0 (k / 8)) (k % 8) last) })

/-- A record of an error that a target reports on a drained store (R77). -/
def Dev.targetError (d : Dev) (h pa : Nat) : Dev :=
  d.log4 1 18 0x05 h (w16 (pa / 2 ^ 32 % 16)) (w16 (pa / 65536)) (w16 pa)

/-- A line is written back to its memory (R275, R277); what it does not hold of the line is fetched and merged first (R272). -/
def Dev.writeLine (d : Dev) (h : Nat) (l : Line) : Dev :=
  let pa := l.addr * 64
  let d1 := (d.count .hthWritebacks h).lineMeet h l 0 32
  if d1.memOk pa then
    if l.whole then d1.storeWords pa l.all
    else
      let (ws, d2) := d1.readWords pa 32
      d2.storeWords pa (l.merge ws).all
  else d1.targetError h pa

/-- The oldest writeback of the victim buffer has issued; no younger one has. -/
def markIssued : List Line → List Line
  | [] => []
  | l :: r => { l with issued := true } :: r

/-- The victim buffer of hearth `h` still holds an issued copy of line `la`. -/
def Dev.issuedCopy (d : Dev) (h la : Nat) : Bool := (d.hth h).victim.any (fun l => l.addr == la && l.issued)

/-- A line that was re-installed from an issued writeback which has completed is clean, unless a store has reached it (R275). -/
def Dev.settleClean (d : Dev) (h la : Nat) : Dev :=
  match d.cacheFind h la with
  | some (k, c) => if c.clean ∧ !d.issuedCopy h la then d.setLine h k (some { c with dirty := false, clean := false }) else d
  | none => d

/-- The oldest writeback is accepted: its entry is free, and a line re-installed from it becomes clean (R275). One to a region being
filled waits (R287). -/
def Dev.victimDone (d : Dev) (h : Nat) : Dev :=
  match (d.hth h).victim with
  | [] => d
  | l :: r =>
    if d.filling (l.addr * 64) then d
    else ((d.writeLine h l).updHth h (fun x => { x with victim := markIssued r })).settleClean h l.addr

/-- A dirty line chosen for eviction moves to the victim buffer; with all eight entries in use the oldest writeback is
awaited first. None: that writeback waits for a region being filled. -/
def Dev.toVictim (d : Dev) (h : Nat) (l : Line) : Option Dev :=
  let d0 := if 8 ≤ (d.hth h).victim.length then d.victimDone h else d
  if 8 ≤ (d0.hth h).victim.length then none
  else some (d0.updHth h (fun x => { x with victim := markIssued (x.victim ++ [{ l with issued := false, clean := false }]) }))

/-- Way `w` of the set from `base` on may be taken from its line: it is not locked, and its line is not being fetched. -/
def Dev.evictable (d : Dev) (h base w : Nat) : Bool :=
  !d.wayLocked h w && (match (d.hth h).cache.get none (base + w) with
    | some l => (d.fetchOf h l.addr).isNone
    | none => true)

/-- The line in place `k` of the cache leaves it: a dirty one for the victim buffer. -/
def Dev.evict (d : Dev) (h k : Nat) : Option Dev :=
  match (d.hth h).cache.get none k with
  | some old =>
    let d1 := (d.dropBuffers h old.addr).setLine h k none
    if old.dirty then d1.toVictim h old else some d1
  | none => some d

/-- Place a line in its set: in an invalid way, else in the pseudo-least-recently-used way among those not locked. `locked`
places it in a locked way that is free; `last` installs it as the least recently used. None: no way can be had. -/
def Dev.placeLine (d : Dev) (h : Nat) (l : Line) (locked last : Bool) : Option Dev :=
  let base := l.addr % 256 * 8
  let free := (List.range 8).find? (fun w => d.wayLocked h w == locked && ((d.hth h).cache.get none (base + w)).isNone)
  match free with
  | some w => some ((d.setLine h (base + w) (some l)).touch h (base + w) last)
  | none =>
    if locked then none else
    match plruVictim ((d.hth h).plru.get 0 (l.addr % 256)) (d.evictable h base) with
    | none => none
    | some w => (d.evict h (base + w)).map (fun d1 => (d1.setLine h (base + w) (some l)).touch h (base + w) last)

/-- A line of the victim buffer that is requested is re-installed, with its dirty state and written mask (R275). -/
def Dev.reinstall (d : Dev) (h la : Nat) : Dev :=
  match d.cacheFind h la, d.victimFind h la with
  | none, some v =>
    let d1 := if v.issued then d else
      d.updHth h (fun x => { x with victim := markIssued (x.victim.filter (fun l => l.addr != la || l.issued)) })
    match d1.placeLine h { v with dirty := true, issued := false, clean := v.issued } false false with
    | some d2 => (d2.settleClean h la).count .hthVictimHits h
    | none => d
  | _, _ => d

/-! ### Fetches (R272, R273) -/

/-- The line buffers of engine `e` take line `la`, dropping the least recently used. -/
def Dev.bufferLine (d : Dev) (e la : Nat) : Dev :=
  d.updEngn e (fun x => { x with lines := (la :: x.lines.filter (· ≠ la)).take 4 })

/-- The line buffers of an engine take line `la` when the cache of its hearth holds it whole (R269). -/
def Dev.fillBuffer (d : Dev) (e : Option Nat) (la : Nat) : Dev :=
  match e with
  | none => d
  | some x =>
    match d.cacheFind (x / 16) la with
    | some (_, l) => if l.whole then d.bufferLine x la else d
    | none => d

/-- The fetch of line `la` has read its words: one that waited for its region to be filled (R287) reads them when that is over. -/
def Dev.fetchRead (d : Dev) (h la : Nat) : Dev :=
  match d.fetchOf h la with
  | some f =>
    if f.words ≠ [] ∨ d.filling (la * 64) then d
    else
      let (ws, d1) := d.readWords (la * 64) 32
      d1.updHth h (fun x => { x with fetches := x.fetches.map (fun y => if y.line = la then { y with words := ws } else y) })
  | none => d

/-- The fetch of line `la` completes: the line is merged under its written mask, or placed, and the line buffers of the engines that load
from it take it (R269). It goes on where its words cannot be read yet, and while no way can be had (R275). -/
def Dev.fetchDone (d0 : Dev) (h la : Nat) : Dev :=
  let d := (d0.fetchRead h la).reinstall h la
  match d.fetchOf h la with
  | none => d0
  | some f =>
    let d1 := d.updHth h (fun x => { x with fetches := x.fetches.filter (fun y => y.line != la) })
    let out : Option Dev := match d1.cacheFind h la with
      | some (k, l) => some (if l.whole then d1 else (d1.setLine h k (some (l.merge f.words))).touch h k false)
      | none => if (d1.victimFind h la).isSome then none else d1.placeLine h (Line.ofWords la f.words) false f.pre
    if f.words = [] then d0
    else match out with
      | none => d0
      | some d2 => f.users.foldl (fun d e => d.fillBuffer (some e) la) d2

/-- The fetch of line `la` can complete now: its words can be read, and a way can be had. -/
def Dev.fetchCan (d : Dev) (h la : Nat) : Bool := ((d.fetchDone h la).fetchOf h la).isNone

/-- A thread of hearth `h` waits for a half of the fetch of line `la`. -/
def Dev.waitsHalf (d : Dev) (h la : Nat) (second : Bool) : Bool :=
  d.listed.any (fun e => hearthOf e.1 == h && (match e.2.wait with
    | .line x y _ _ => x == la && y == second
    | _ => false))

/-- The fetches whose first half came before this TICKCLK, and those for which no thread waits, complete (notes/assumptions/52.md). -/
def Dev.tickFetches (d : Dev) : Dev :=
  (List.range 16).foldl (fun d h =>
    ((d.hth h).fetches.filter (fun f => f.got || !(d.waitsHalf h f.line false || d.waitsHalf h f.line true))).foldl
      (fun d f => d.fetchDone h f.line) d) d

/-! ### Streams (R274) -/

/-- Fetch line `la` ahead of need; one that would fault is dropped, and one of a region being filled waits (R287). -/
def Dev.prefetch (d : Dev) (h la : Nat) : Dev :=
  if (d.heldLine h la).isSome ∨ (d.fetchOf h la).isSome ∨ !d.memOk (la * 64) then d
  else
    ((d.updHth h (fun x => { x with fetches := x.fetches ++ [⟨la, false, false, true, [], []⟩] })).fetchRead h la).count .hthPrefetches h

/-- Engine `e` has accessed line `la` through WB; `missed` says that the access was a load miss. -/
def Dev.streamUse (d : Dev) (e la : Nat) (missed : Bool) : Dev :=
  let h := e / 16
  let now := d.engclk
  let live := (d.engn e).streams.filter (fun s => now - s.used < 256)
  let misses := (d.engn e).lastMiss.filter (fun m => now - m.2 ≤ 256)
  let depth := d.fld .hthCacheCfg h 0 2 0
  let d1 := d.updEngn e (fun x => { x with streams := live })
  let d2 : Dev := match live.find? (fun s => s.line == la) with
    | some s =>
      let ahead := ((List.range depth).map (fun k => la + 1 + k)).filter (fun x => x / 1024 = la / 1024)
      let d2 := ahead.foldl (fun d x => d.prefetch h x) d1
      let rest := live.erase s
      let new := if ahead.length = depth then [⟨la + depth, now⟩] else ([] : List Stream)
      d2.updEngn e (fun x => { x with streams := new ++ rest })
    | none => d1
  if missed then
    let d3 : Dev :=
      if misses.any (fun m => m.1 + 1 == la) && d2.bit .hthCacheCfg h 0 8 && live.all (fun s => s.line != la) then
        let old : List Stream := (d2.engn e).streams
        let keep := if 4 ≤ old.length then
            old.erase (old.foldl (fun (b s : Stream) => if s.used < b.used then s else b) (old.headD ⟨0, now⟩))
          else old
        d2.updEngn e (fun y => { y with streams := ⟨la, now⟩ :: keep })
      else d2
    d3.updEngn e (fun x => { x with lastMiss := (la, now) :: misses })
  else d2

/-! ### Loads and stores through the cache -/

/-- How a load is served: at once, by a fabric access, by a half of a line fetch, or not until fewer misses are outstanding. -/
inductive Served where
  | near
  | far
  | line (la : Nat) (second : Bool)
  | full
deriving DecidableEq, Repr

/-- The loads that hearth `h` has outstanding as line misses: a prefetch is none. -/
def Dev.missesOut (d : Dev) (h : Nat) : Nat := ((d.hth h).fetches.filter (fun f => !f.pre)).length

/-- A WB load of a unit that the cache does not hold, in the second half of its line or not: it joins the fetch in progress, or starts one
when fewer than 16 misses are outstanding. `old` is what the cache holds of the line. A reader that is no engine awaits the fetch. -/
def Dev.loadMiss (d : Dev) (h : Nat) (e : Option Nat) (la : Nat) (second : Bool) (old : Option Line) : Served × Line × Dev :=
  let make := fun (ws : List Word) => match old with
    | some l => l.merge ws
    | none => Line.ofWords la ws
  let d0 := d.fetchRead h la
  match d0.fetchOf h la, e with
  | some f, some x =>
    let d1 := d0.updHth h (fun y => { y with fetches := y.fetches.map (fun z =>
      if z.line = la then { z with users := z.users.filter (· ≠ x) ++ [x] } else z) })
    (if f.got && f.second == second then .near else .line la second, make f.words, d1.streamUse x la true)
  | some f, none => (.far, make f.words, d0.fetchDone h la)
  | none, _ =>
    if e.isSome && decide (16 ≤ d.missesOut h) then (.full, make ((List.range 32).map (fun k => d.seenWord (la * 64 + 2 * k))), d)
    else
      let (ws, d1) := d.readWords (la * 64) 32
      let d2 := (d1.updHth h (fun x => { x with fetches := x.fetches ++ [⟨la, second, false, false, ws, e.toList⟩] })).count .hthCacheMisses h
      match e with
      | some x => (.line la second, make ws, d2.streamUse x la true)
      | none => (.far, make ws, d2.fetchDone h la)

/-- A WB load of hearth `h` of `n` words of line `la` from word `k` on, all of one unit, for engine `e` when one makes it: how it is served,
and the line. -/
def Dev.loadLine (d : Dev) (h : Nat) (e : Option Nat) (la k n : Nat) : Served × Line × Dev :=
  let buffered := match e with
    | some x => (d.engn x).lines.contains la
    | none => false
  let d0 := d.reinstall h la
  match d0.cacheFind h la with
  | some (w, l) =>
    if l.hasUnit (k / 4) then
      let d1 := if buffered then d0 else (d0.count .hthCacheHits h).touch h w false
      let d2 := (d1.fillBuffer e la).lineMeet h l k n
      (.near, l, match e with
        | some x => d2.streamUse x la false
        | none => d2)
    else d0.loadMiss h e la (decide (16 ≤ k)) (some l)
  | none => d0.loadMiss h e la (decide (16 ≤ k)) (d0.victimFind h la)

/-- One word of a unit stored into a line. -/
def Line.putWord (l : Line) (u : Nat) (x : WbWord) : Line :=
  let k := u * 4 + x.slot
  { l with words := l.words.set Word.zero k (mergeWord (l.seen k) x),
           err := if x.whole then l.err.erase k else l.err,
           full := if x.whole then l.full ||| BitVec.ofNat 32 (2 ^ k) else l.full,
           part := l.part ||| (if x.hi then BitVec.ofNat 64 (2 ^ (2 * k)) else 0) ||| (if x.lo then BitVec.ofNat 64 (2 ^ (2 * k + 1)) else 0) }

/-- One 8-byte unit's words stored into a line. The written mask takes the unit once all its words are written whole; until then the line
keeps the bytes of a unit that it does not hold: bytes alone leave what may be a POISON word one (R31, R272, notes/assumptions/53.md). A POISON word stays one POISON word in the line, whatever its
memory's kind: the rest of its check unit becomes POISON at the writeback (R42; DESIGN CHOICE, notes/assumptions/42.md). -/
def Line.storeUnit (l : Line) (u : Nat) (ws : List WbWord) : Line :=
  let l1 := ws.foldl (fun l x => l.putWord u x) l
  let unit : BitVec 64 := BitVec.ofNat 64 (255 * 2 ^ (8 * u))
  let four : BitVec 32 := BitVec.ofNat 32 (15 * 2 ^ (4 * u))
  if l.hasUnit u || l1.full &&& four == four then
    { l1 with dirty := true, clean := false, mask := l1.mask ||| BitVec.ofNat 8 (2 ^ u), part := l1.part &&& ~~~unit,
              full := l1.full &&& ~~~four }
  else { l1 with dirty := true, clean := false }

/-- A store reaches the cache of hearth `h` (R272): into the line it finds, else into a line allocated without a fetch. None: the store
waits, for a fetch of the line to complete (R273) or for a way. -/
def Dev.cacheStore (d : Dev) (h unit : Nat) (ws : List WbWord) : Option Dev :=
  let la := unit / 8
  let u := unit % 8
  if (d.fetchOf h la).isSome then none
  else
    let d1 := (d.reinstall h la).dropBuffers h la
    match d1.cacheFind h la with
    | some (k, l) => some ((d1.setLine h k (some (l.storeUnit u ws))).touch h k false)
    | none =>
      if (d1.victimFind h la).isSome then none
      else d1.placeLine h ({ Line.ofWords la [] with whole := false }.storeUnit u ws) false false

/-- The word at a physical address as hearth `h` sees it through an attribute, with nothing moved: the cache and the victim
buffer stand before memory under WB. -/
def Dev.viewWord (d : Dev) (h pa : Nat) (attr : Attr) : Word :=
  let cached := match d.region pa with
    | .granary _ => decide (attr = .wb)
    | .lpddr _ => decide (attr = .wb)
    | _ => false
  match cached, d.heldLine h (pa / 64) with
  | true, some l => l.over (pa / 2 % 32) (d.peekWord pa)
  | _, _ => d.peekWord pa

/-- The dirty line that hearth `h` holds with bytes of the word at an address: it serves a snooped bellows read, and stays where it is
(R275, R316). -/
def Dev.snoopLine (d : Dev) (h pa : Nat) : Option Line :=
  match d.heldLine h (pa / 64) with
  | some l =>
    let k := pa / 2 % 32
    if l.dirty ∧ (l.hasUnit (k / 4) ∨ (l.partWord k).hi ∨ (l.partWord k).lo) then some l else none
  | none => none

/-! ### The write buffer's drain (R270) -/

/-- The words of an entry in the order of their addresses, as runs of bytes: byte offset in the unit, value, poison. -/
def WbEntry.bytes (x : WbEntry) : List (Nat × W8 × Bool) :=
  ((List.range 4).map (fun k =>
    match x.words.find? (fun w => w.slot == k) with
    | none => []
    | some w =>
      (if w.hi then [(2 * k, (w.w.v >>> (8 : Nat)).truncate 8, w.w.isPoison)] else []) ++
      (if w.lo then [(2 * k + 1, w.w.v.truncate 8, w.w.isPoison)] else []))).flatten

/-- Runs of bytes at adjoining offsets. -/
def byteRuns : List (Nat × W8 × Bool) → List (Nat × List (W8 × Bool))
  | [] => []
  | (o, b, p) :: r =>
    match byteRuns r with
    | (o', bs) :: rest => if o' = o + 1 then (o, (b, p) :: bs) :: rest else (o, [(b, p)]) :: (o', bs) :: rest
    | [] => [(o, [(b, p)])]

/-- Bytes as words for a message, in the order of their addresses; a word with a poisoned byte is POISON. -/
def messageWords : List (W8 × Bool) → List Word
  | [] => []
  | [(a, p)] => [⟨if p then .poison else .plain, a.append (0 : W8)⟩]
  | (a, p) :: (b, q) :: r => ⟨if p || q then .poison else .plain, a.append b⟩ :: messageWords r

/-- Write bytes to a host address: the Bool says that the link took them. -/
def Dev.hostWriteBytes (d : Dev) (addr : W64) (bs : List (W8 × Bool)) : Dev × Bool :=
  if d.linkUp then
    (d.sendFlits ((.mwr addr bs.length, 0) :: dataFlits 0 (messageWords bs) (bs.length + 1)), true)
  else (d.count .lnkWrLost, false)

/-- The stored words of a unit of the program-store load window of hearth `h` (R46). -/
def Dev.storeProg (d : Dev) (h unit : Nat) (ws : List WbWord) : Dev :=
  ws.foldl (fun d x =>
    let a := h * 32768 + (unit * 8 + x.slot * 2) / 2 % 32768
    let old : BitVec 14 := d.mem.prog.get 0 a
    let v : W16 := (if x.hi then x.w.v &&& 0xFF00 else (old.zeroExtend 16) &&& 0xFF00) |||
                   (if x.lo then x.w.v &&& 0x00FF else (old.zeroExtend 16) &&& 0x00FF)
    { d with mem := { d.mem with prog := d.mem.prog.set 0 a (v.truncate 14) } }) d

/-- The cache holds addresses of a region under an attribute (R268, R271). -/
def Dev.cacheable (d : Dev) (pa : Nat) (attr : Attr) : Bool :=
  attr == .wb && (match d.region pa with
    | .granary _ => true
    | .lpddr _ => true
    | _ => false)

/-- An entry that is not bound for a set-up register reaches its point of visibility. None: it waits, for a region being
filled (R287), or for the fetch of its line (R273). -/
def Dev.drainEntry (d : Dev) (h : Nat) (x : WbEntry) : Option Dev :=
  let pa := x.unit * 8
  if d.filling pa then none
  else if d.cacheable pa x.attr then d.cacheStore h x.unit x.words
  else match d.region pa with
    | .host w =>
      some ((byteRuns x.bytes).foldl (fun d r => (d.hostWriteBytes (d.hostAddr w (pa + r.1)) r.2).1) d)
    | .window k => some (d.storeProg k x.unit x.words)
    | _ => some (if d.memOk pa then d.storeUnit x.unit x.words else d.targetError h pa)

/-! ### The range engine (R276–R279) -/

/-- The writebacks of line `la` that are in the victim buffer complete, after those before them. -/
def Dev.flushVictim (d : Dev) (h la : Nat) : Dev :=
  (List.range 8).foldl (fun d _ => if (d.victimFind h la).isSome then d.victimDone h else d) d

/-- The range engine writes line `la` back if it is dirty. The cached copy becomes clean, and the victim buffer holds no copy any more. -/
def Dev.rangeWrite (d : Dev) (h la : Nat) : Dev :=
  let dirty := match d.cacheFind h la with
    | some (_, l) => l.dirty
    | none => (d.victimFind h la).isSome
  if !dirty then d
  else
    let d1 := d.flushVictim h la
    match d1.cacheFind h la with
    | some (k, l) => if l.dirty then (d1.writeLine h l).setLine h k (some { l with dirty := false, clean := false }) else d1
    | none => d1

/-- Line `la` leaves the cache, the line buffers and the victim buffer, and what was dirty is discarded; a writeback that has issued
goes to its memory. -/
def Dev.rangeKill (d : Dev) (h la : Nat) : Dev :=
  let d1 := match d.cacheFind h la with
    | some (k, _) => (d.dropBuffers h la).setLine h k none
    | none => d
  (d1.updHth h (fun x => { x with victim := markIssued (x.victim.filter (fun y => y.addr != la || y.issued)) })).flushVictim h la

/-- CLEAN (1), INVAL (2) or CLEAN_INVAL (3) of one line that the hearth holds. A line whose memory cannot be reached is skipped with ERR
(R277). -/
def Dev.rangeLine (d : Dev) (h op : Nat) (force : Bool) (la : Nat) : Dev :=
  if !d.memOk (la * 64) then d.setBit .hthRngStat h 0 28 true else
  let locked := match d.cacheFind h la with
    | some (k, _) => d.wayLocked h (k % 8)
    | none => false
  let kept := locked && !force && op != 1
  if op = 2 ∧ !kept then d.rangeKill h la
  else
    let d1 := d.rangeWrite h la
    if op = 1 then d1 else if kept then d1.count32 .hthRngSkipped h 0 1 else d1.rangeKill h la

/-- LOCK of one line: a line that the cache holds in an unlocked way moves to a locked way that is free, one of the victim buffer or of
memory is placed there; one that cannot be fetched is skipped with ERR. -/
def Dev.rangeLock (d : Dev) (h la : Nat) : Dev :=
  let fail := d.count32 .hthRngLockFail h 0 1
  if !d.memOk (la * 64) then d.setBit .hthRngStat h 0 28 true else
  match d.cacheFind h la, d.victimFind h la with
  | some (k, l), _ =>
    if d.wayLocked h (k % 8) then d else ((d.setLine h k none).placeLine h l true false).getD fail
  | none, some v =>
    let d1 := if v.issued then d else
      d.updHth h (fun x => { x with victim := markIssued (x.victim.filter (fun l => l.addr != la || l.issued)) })
    (d1.placeLine h { v with dirty := true, issued := false, clean := v.issued } true false).getD fail
  | none, none =>
    if !d.cacheable (la * 64) .wb then d.setBit .hthRngStat h 0 28 true
    else
      let (ws, d1) := d.readWords (la * 64) 32
      (d1.placeLine h (Line.ofWords la ws) true false).getD fail

/-- The lines in the cache and the victim buffer of hearth `h`. -/
def Dev.heldLines (d : Dev) (h : Nat) : List Nat :=
  ((d.hth h).cache.entries.filterMap (fun e => e.2.map Line.addr) ++ (d.hth h).victim.map Line.addr).eraseDups

/-- The fetches in progress in hearth `h` complete. -/
def Dev.fetchAll (d : Dev) (h : Nat) : Dev := (d.hth h).fetches.foldl (fun d f => d.fetchDone h f.line) d

/-- The lines from the range base on that the range registers of hearth `h` name. -/
def Dev.rangeSpan (d : Dev) (h : Nat) : List Nat :=
  let first := d.fld .hthRngBaseHi h 0 3 0 * 2 ^ 26 + (d.rd .hthRngBaseLo h).toNat / 64
  (List.range (d.fld .hthRngLen h 0 25 0)).map (first + ·)

/-- The lines on which the range operation of hearth `h` acts: those it holds, or all of the range for LOCK. -/
def Dev.rangeLines (d : Dev) (h : Nat) : List Nat :=
  let cmd := d.rd .hthRngCmd h
  if bits cmd 2 0 = 4 then d.rangeSpan h
  else if cmd.getLsbD 8 then d.heldLines h
  else (d.heldLines h).filter (d.rangeSpan h).contains

/-- The range operation of the registers of hearth `h`, carried out on every line it names, the fetches in progress awaited
(R278). A line of the range that the cache does not hold and that cannot be fetched is skipped with ERR. -/
def Dev.rangeRun (d : Dev) (h : Nat) : Dev :=
  let cmd := d.rd .hthRngCmd h
  let op := bits cmd 2 0
  let d1 := d.fetchAll h
  let bad := !cmd.getLsbD 8 && (d1.rangeSpan h).any (fun la => !d1.memOk (la * 64))
  let d2 := if bad then d1.setBit .hthRngStat h 0 28 true else d1
  (d2.rangeLines h).foldl (fun d la => if op = 4 then d.rangeLock h la else d.rangeLine h op (cmd.getLsbD 4) la) d2

/-- A line that the range operation of hearth `h` may read or write lies in a region that is being filled: it waits (R287). -/
def Dev.rangeWaits (d : Dev) (h : Nat) : Bool :=
  (d.rangeLines h).any (fun la => d.filling (la * 64)) || (d.hth h).victim.any (fun l => d.filling (l.addr * 64))

/-- GO: BUSY, the counters of the last operation clear, and the operation starts (R276, R277). -/
def Dev.rangeStart (d : Dev) (h : Nat) : Dev :=
  let d1 := { d with ctrs := (d.ctrs.erase (CtrKind.off .hthRngSkipped h 0)).erase (CtrKind.off .hthRngLockFail h 0) }
  let n := if d.bit .hthRngCmd h 0 8 then 256 else d.fld .hthRngLen h 0 25 0
  (d1.setBit .hthRngStat h 0 31 true).setFld .hthRngStat h 0 25 0 n

/-- Completion: the lines are done, BUSY clears, DONE sets, event 144 + h with EVT (R277). -/
def Dev.rangeFinish (d : Dev) (h : Nat) : Dev :=
  if d.rangeWaits h then d
  else
    let d1 := d.rangeRun h
    let d2 := ((d1.setBit .hthRngStat h 0 31 false).setBit .hthRngStat h 0 29 true).setFld .hthRngStat h 0 25 0 0
    if d2.bit .hthRngCmd h 0 9 then d2.raiseEvent (144 + h) 0 else d2

/-- A hearth reset stops the range engine (R281): its command and status registers are cleared (R387), but that ABORT tells of an operation
that was in progress. -/
def Dev.rangeAbort (d : Dev) (h : Nat) : Dev :=
  (d.wr .hthRngStat h 0 (if d.bit .hthRngStat h 0 31 then 0x40000000 else 0)).wr .hthRngCmd h 0 0

/-- Write back every dirty line of hearth `h`, as CLEAN with ALL would. -/
def Dev.cleanAll (d : Dev) (h : Nat) : Dev :=
  let d1 := d.fetchAll h
  (d1.heldLines h).foldl (fun d la => d.rangeLine h 1 false la) d1

/-- The line buffers, write buffers and streams of a hearth are cleared (R281), and no release waits for their drain. -/
def Dev.clearNear (d : Dev) (h : Nat) : Dev :=
  ((hearthEngines h).foldl (fun d e => d.updEngn e (fun x =>
    { x with wb := [], wbOut := x.wbIn, lines := [], streams := [], lastMiss := [] })) d).sendReleases

/-- Every line of hearth `h` is lost; the number of dirty ones. -/
def Dev.loseCache (d : Dev) (h : Nat) : Nat × Dev :=
  let x := d.hth h
  let dirty := x.cache.entries.filterMap (fun e => match e.2 with
    | some l => if l.dirty then some l.addr else none
    | none => none)
  ((dirty ++ x.victim.map Line.addr).eraseDups.length,
   d.setHth h { x with cache := Map.empty, plru := Map.empty, fetches := [], victim := [] })

end Sys2Proof.Machine
end

