-- ==== Sys2Proof/Machine/Flues.lean ====
section
/-!
DEFINITION. Flues and the instructions on them (R81, R120–R123), release operations (R76), the timer compare (R80, R117,
R118), `YIELD`, traps and their return (R88, R93–R97), and the repeat-free control of a thread.
-/
namespace Sys2Proof.Machine

/-! ### Release operations (R76) -/

/-- A release operation: its faults are raised at once; its effect waits until the engine has drained the stores it accepted
before. -/
def Dev.release (d : Dev) (g : Nat) (i : Instr) (body : Dev → IRes) : IRes :=
  let e := engineOf g
  match body d with
  | .fault f => .fault f
  | .faultAt d1 f => .faultAt d1 f
  | .emu => .emu
  | r =>
    if d.drained e (d.engn e).wbIn then r
    else .ended (d.updThr g (fun t => { t with wait := .drain i (d.engn e).wbIn }))

/-- `FENCE` does nothing beside its drain. -/
def fenceBody (d : Dev) : IRes := .done d

def execFence (g : Thr) (s : State) : Host.Outcome State Fault Refusal :=
  s.onDev (·.issue g 0 true false (fun d => d.release g (.fence g) fenceBody))

/-! ### Flue state (R120, R121) -/

/-- Flues by the number of `flueOf`: below 4,096 a local flue. -/
def localFlue (f : Nat) : Bool := decide (f < 4096)
/-- The free word places of a flue. -/
def Dev.places (d : Dev) (f : Nat) : Nat := 8 - ((d.flue f).map (fun m => m.words.length)).foldl (· + ·) 0

/-- The flue to a message of which thread `g` is bound. -/
def Dev.boundTo (d : Dev) (g : Nat) : Option Nat :=
  match flueOf (hearthOf g) (d.thr g).bindName with
  | none => none
  | some f => if (d.flue f).any (fun m => m.reader == some g) then some f else none

/-- The threads blocked in `RECV` on a flue, with the order in which they blocked. -/
def Dev.receivers (d : Dev) (f : Nat) : List (Nat × Nat) :=
  d.listed.filterMap (fun e => match e.2.wait with
    | .recv _ x => if x = f ∧ e.2.st = .blocked then some (e.1, e.2.blockSeq) else none
    | _ => none)

/-- The threads blocked in `SENDE` on a flue. -/
def Dev.senders (d : Dev) (f : Nat) : List (Nat × Nat) :=
  d.listed.filterMap (fun e => match e.2.wait with
    | .sende x => if x = f ∧ e.2.st = .blocked then some (e.1, e.2.blockSeq) else none
    | _ => none)

/-- Thread `g` blocked before every other of a list. -/
def firstBlocked (l : List (Nat × Nat)) (g : Nat) : Bool :=
  match l.find? (fun x => x.1 == g) with
  | none => false
  | some x => l.all (fun y => decide (x.2 ≤ y.2))

/-- The flue that a name operand names, or the fault that it raises (R27, R120, R122). -/
def flueOperand (h : Nat) (w : Word) (src : Nat) : FaultInfo ⊕ Nat :=
  match addrOperand w src with
  | some x => .inl x
  | none =>
    match flueOf h w.v with
    | none => .inl (busFault 6)
    | some f => .inr f

/-- The flue that a `SEND` or `SENDE` may stage a word for, or its fault (R122). -/
def Dev.stageCheck (d : Dev) (g b : Nat) : FaultInfo ⊕ Nat :=
  let t := d.thr g
  let w := t.get b
  match flueOperand (hearthOf g) w b with
  | .inl x => .inl x
  | .inr f =>
    if t.staged ≠ [] ∧ t.stagedName ≠ w.v then .inl (busFault 6)
    else if 8 ≤ t.staged.length then .inl (busFault 6)
    else if f = hearthOf g * 256 then .inl (busFault 6)
    else .inr f

/-- A word joins the staging area. -/
def Thread.stage (t : Thread) (w : Word) (name : W16) : Thread :=
  { t with staged := t.staged ++ [w], stagedName := name }

/-- Publish the staged message of thread `g` into a flue and empty its staging area. -/
def Dev.publish (d : Dev) (g f : Nat) : Dev :=
  let t := d.thr g
  (d.setFlue f (d.flue f ++ [⟨t.staged, none⟩])).setThr g { t with staged := [], stagedName := 0 }

/-- The body of `SEND wA, wB`. -/
def sendBody (g a b : Nat) (d : Dev) : IRes :=
  match d.stageCheck g b with
  | .inl x => .fault x
  | .inr _ => .done (d.updThr g (fun t => t.stage (t.get a) (t.get b).v))

/-- The body of `SENDE wA, wB`: it publishes when there is room and no message blocked before it, else it blocks. -/
def sendeBody (g a b : Nat) (d : Dev) : IRes :=
  match d.stageCheck g b with
  | .inl x => .fault x
  | .inr f =>
    let d1 := d.updThr g (fun t => t.stage (t.get a) (t.get b).v)
    if d.senders f = [] ∧ (d1.thr g).staged.length ≤ d.places f then .done (d1.publish g f)
    else .block d1 (if localFlue f then 5 else 6) (.sende f)

def execSend (g : Thr) (a b : Reg) (s : State) : Host.Outcome State Fault Refusal :=
  s.onDev (·.issue g 0 true false (fun d => d.release g (.send g a b) (sendBody g a b)))
def execSende (g : Thr) (a b : Reg) (s : State) : Host.Outcome State Fault Refusal :=
  s.onDev (·.issue g 0 true false (fun d => d.release g (.sende g a b) (sendeBody g a b)))

/-- `DELAYED_PUBLISH`: the thread that blocked first publishes once the flue has its places. -/
def execDelayedPublish (g : Thr) (s : State) : Host.Outcome State Fault Refusal :=
  s.onDev (fun d =>
    match (d.thr g).wait with
    | .sende f =>
      if (d.thr g).st = .blocked ∧ firstBlocked (d.senders f) g ∧ (d.thr g).staged.length ≤ d.places f then
        ((d.publish g f).makeReady g).finish g
      else d
    | _ => d)

/-- The next word of the message that thread `g` is bound to in flue `f`: the word, whether it is the last, and the flue
after the delivery. -/
def takeWord (g : Nat) : List FlueMsg → Option (Word × Bool × List FlueMsg)
  | [] => none
  | m :: r =>
    if m.reader = some g then
      match m.words with
      | [] => none
      | [w] => some (w, true, r)
      | w :: ws => some (w, false, { m with words := ws } :: r)
    else
      match takeWord g r with
      | some (w, l, r') => some (w, l, m :: r')
      | none => none

/-- Bind thread `g` to the oldest complete message of a flue that no thread is bound to. -/
def bindOldest (g : Nat) : List FlueMsg → Option (List FlueMsg)
  | [] => none
  | m :: r =>
    if m.reader = none then some ({ m with reader := some g } :: r)
    else (bindOldest g r).map (m :: ·)

/-- Deliver the next word of the bound message: its word, whether it was the last, and the device after it. -/
def Dev.deliver (d : Dev) (g f : Nat) : Option (Word × Bool × Dev) :=
  match takeWord g (d.flue f) with
  | none => none
  | some (w, last, l) =>
    let d1 := d.setFlue f l
    some (w, last, if last then d1.updThr g (fun t => { t with bindName := 0 }) else d1)

/-- A `RECV` delivers a word into wA with Z: at once from a local flue, with the fabric response from a long one. -/
def Dev.received (d : Dev) (g a f : Nat) : IRes :=
  match d.deliver g f with
  | none => .done d
  | some (w, last, d1) =>
    if localFlue f then .done (d1.updThr g (fun t => { t.set a w with fl := flagsZ last }))
    else .block d1 1 (.resp ⟨[(a, w)], some (flagsZ last), none⟩)

/-- Flue `f` is the transmit flue of a CAN controller, which is its only reader (R376). -/
def Dev.isTxFlue (d : Dev) (f : Nat) : Bool :=
  (List.range 32).any (fun c => d.bit .canCtrl c 0 24 && f == 4096 + d.fld .canCtrl c 0 9 0)

/-- The body of `RECV wA, wB` (R81, R121, R122, R376). -/
def recvBody (g a b : Nat) (d : Dev) : IRes :=
  let w := (d.thr g).get b
  match flueOperand (hearthOf g) w b with
  | .inl x => .fault x
  | .inr f =>
    if (f = hearthOf g * 256 ∧ g % 128 ≠ 0) ∨ d.isTxFlue f then .fault (busFault 6)
    else match d.boundTo g with
      | some f' => if f' = f then d.received g a f else .fault (busFault 6)
      | none =>
        match (if d.receivers f = [] then bindOldest g (d.flue f) else none) with
        | some l => ((d.setFlue f l).updThr g (fun t => { t with bindName := w.v })).received g a f
        | none => .block d (if localFlue f then 3 else 4) (.recv a f)

def execRecv (g : Thr) (a b : Reg) (s : State) : Host.Outcome State Fault Refusal :=
  s.onDev (·.issue g 0 true false (recvBody g a b))

/-- The name word of a flue number. -/
def flueName (f : Nat) : W16 := if f < 4096 then w16 (f % 256) else w16 (0x8000 + (f - 4096))

/-- `DELAYED_BIND`: the thread that blocked first in `RECV` is bound to the message and receives its first word. -/
def execDelayedBind (g : Thr) (s : State) : Host.Outcome State Fault Refusal :=
  s.onDev (fun d =>
    match (d.thr g).wait with
    | .recv a f =>
      if (d.thr g).st = .blocked ∧ firstBlocked (d.receivers f) g ∧ ¬ d.isTxFlue f then
        match bindOldest g (d.flue f) with
        | none => d
        | some l =>
          match ((d.setFlue f l).updThr g (fun t => { t with bindName := flueName f })).deliver g f with
          | none => d
          | some (w, last, d1) =>
            ((d1.updThr g (fun t => { t.set a w with fl := flagsZ last })).makeReady g).finish g
      else d
    | _ => d)

/-- The body of `CHKC wA, wB` (R81, R376). -/
def chkcBody (g a b : Nat) (d : Dev) : IRes :=
  match flueOperand (hearthOf g) ((d.thr g).get b) b with
  | .inl x => .fault x
  | .inr f =>
    let w := Word.plain (w16 ((d.flue f).length * 16 + d.places f))
    if d.isTxFlue f then .fault (busFault 6)
    else if localFlue f then .done (d.updThr g (fun t => t.set a w))
    else .block d 1 (.resp ⟨[(a, w)], none, none⟩)

def execChkc (g : Thr) (a b : Reg) (s : State) : Host.Outcome State Fault Refusal :=
  s.onDev (·.issue g 0 true false (chkcBody g a b))

/-! ### WAIT, YIELD and SETTC (R80, R115, R118) -/

def execWait (g : Thr) (s : State) : Host.Outcome State Fault Refusal :=
  s.onDev (·.issue g 0 false false (fun d => if (d.thr g).tcArmed then .block d 8 .tc else .done d))

/-- `YIELD`: the yielded mark of a swift thread, a patient switch for the current patient thread. -/
def execYield (g : Thr) (s : State) : Host.Outcome State Fault Refusal :=
  s.onDev (·.issue g 0 true false (fun d =>
    let e := engineOf g
    if (d.engn e).isSwift (g.val % 8) then .done (d.updThr g (fun t => { t with yielded := true }))
    else
      let d1 := d.finish g
      .ended (if (d1.engn e).cur = some (g.val % 8) then d1.patientSwitch e (some (g.val % 8)) else d1)))

/-- `SETTC` with a pair: the fault of an operand that is not PLAIN, else TC armed at what `f` gives. -/
def Dev.setTc (d : Dev) (g a : Nat) (f : BitVec 36 → Nat → BitVec 36) : IRes :=
  let t := d.thr g
  match addrOperands (t.get (2 * a)) (2 * a) (t.get (2 * a + 1)) (2 * a + 1) with
  | some x => .fault x
  | none => .done (d.setThr g { t with tc := f d.now36 (pairNum (t.pair a)), tcArmed := true, tcTick := d.time.tick })

def execSettcRelative (g : Thr) (a : PairN) (s : State) : Host.Outcome State Fault Refusal :=
  s.onDev (·.issue g 0 true true (fun d => d.setTc g a (fun now n => now + BitVec.ofNat 36 n)))
def execSettcAbsolute (g : Thr) (a : PairN) (s : State) : Host.Outcome State Fault Refusal :=
  s.onDev (·.issue g 0 true true (fun d => d.setTc g a (fun now n =>
    let hi := now.toNat / 2 ^ 32
    let hi' := if n < now.toNat % 2 ^ 32 then (hi + 1) % 16 else hi
    BitVec.ofNat 36 (hi' * 2 ^ 32 + n))))
def execSettcDisarm (g : Thr) (s : State) : Host.Outcome State Fault Refusal :=
  s.onDev (·.issue g 0 true true (fun d => .done (d.updThr g (fun t => { t with tcArmed := false }))))

/-- `TC_MATCH` (R118): an armed TC that the time of a TICKCLK after its arming has reached disarms and ends a `WAIT`. -/
def execTcMatch (g : Thr) (s : State) : Host.Outcome State Fault Refusal :=
  s.onDev (fun d =>
    let t := d.thr g
    if t.tcArmed ∧ t.tcTick < d.time.tick ∧ (d.now36 - t.tc).toNat < 2 ^ 35 then
      let d1 := d.setThr g { t with tcArmed := false }
      if t.st = .blocked ∧ t.wait = .tc then (d1.makeReady g).finish g else d1
    else d)

/-! ### Traps (R88, R93–R97) -/

def execTrap (g : Thr) (n : Fin 32) (s : State) : Host.Outcome State Fault Refusal :=
  s.onDev (·.issue g 0 false false (fun d => .trap n 0 ((d.thr g).pc.toNat + 1)))

/-- A word as a load of engine `e` returns it: the bytes of its write buffer before those of memory (R75). -/
def Dev.overlay (d : Dev) (e pa : Nat) (w : Word) : Word := overlayWord (d.engn e).wb pa w

/-- The fault of words read from memory that must be PLAIN: a tag fault of the first HANDLE or TICKET, else a poison fault of the first
POISON word (R28). -/
def wordsFault (ws : List Word) : Option FaultInfo :=
  match ws.find? Word.isRef with
  | some w => some (operandFault 1 16 0 w.v)
  | none => (ws.find? Word.isPoison).map (fun w => operandFault 2 16 0 w.v)

/-- `RFT` (R96): all four words of the frame are checked, and words +0 and +2 restore PC and FLAGS. -/
def execRft (g : Thr) (s : State) : Host.Outcome State Fault Refusal :=
  s.onDev (·.issue g 0 false false (fun d =>
    if !(d.thr g).inTrap then .emu else
    let pa := trapFrame g * 8
    let (ms, d1) := d.readWords pa 4
    let ws := ((List.range 4).zip ms).map (fun kw => d.overlay (engineOf g) (pa + 2 * kw.1) kw.2)
    let w0 := ws.headD Word.zero
    match wordsFault ws with
    | some x => .faultAt d1 x
    | none =>
      if w0.v.msb then .faultAt d1 (addrFault 6 7 false 0x1F pa)
      else .jump (d1.updThr g (fun t => { t with fl := Flags.ofWord (ws.getD 1 Word.zero).v, inTrap := false })) w0.v.toNat))

/-- `BKPT n`: with a debugger attached the instruction completes and the thread stops, with n for the debugger; else it vectors, with n in
the trap frame (R88). -/
def execBkpt (g : Thr) (n : Fin 64) (s : State) : Host.Outcome State Fault Refusal :=
  s.onDev (·.issue g 0 false false (fun d =>
    if d.bit .dbgCtrl 0 0 (hearthOf g) then
      .ended ((d.updThr g (fun t => { t with pc := t.pc + 1, bkpt := some n })).stopNow g)
    else .trap 33 n ((d.thr g).pc.toNat + 1)))

/-- `EMU_TRAP` (R60): a reserved unit takes vector 32 with no prior effect. -/
def execEmuTrap (g : Thr) (s : State) : Host.Outcome State Fault Refusal :=
  s.onDev (·.issue g 0 false false (fun _ => .emu))

end Sys2Proof.Machine
end

