-- ==== Sys2Proof/Machine/Access.lean ====
section
/-!
DEFINITION. How a hearth reads memory (R268, R289): words served by the line buffers, the cluster cache, the own larder or the
fabric, with the bytes of the engine's write buffer before those of memory (R75).
-/
namespace Sys2Proof.Machine

/-- Hearth `h` reads `n` words of one aligned 8-byte unit from a physical address of memory, for engine `e` when one loads:
how the read is served, the words, and the device after. -/
def Dev.hearthLoad (d : Dev) (h : Nat) (e : Option Nat) (pa n : Nat) (attr : Attr) : Served × List Word × Dev :=
  let (how, ws, d1) :=
    if d.cacheable pa attr then
      let (how, l, d1) := d.loadLine h e (pa / 64) (pa / 2 % 32) n
      (how, (List.range n).map (fun k => l.seen (pa / 2 % 32 + k)), d1)
    else
      let (ws, d1) := d.readWords pa n
      (if d.region pa == .larder h then .near else .far, ws, d1)
  let ws1 := match e with
    | some x => ((List.range n).zip ws).map (fun kw => d1.overlay x (pa + 2 * kw.1) kw.2)
    | none => ws
  (how, ws1, d1)

/-- Where the next pair of a span lies: within the segment (R64). -/
def nextPair (va : Nat) : Nat := va / 2 ^ 32 * 2 ^ 32 + (va + 4) % 2 ^ 32

/-- Translate each pair of a span of `n` pairs from a virtual address of hearth `h` on: each with its virtual and physical address and
attribute, or the virtual address that needs a walk, or the translation fault, which ranks before the bus fault of any pair (R28). -/
def Dev.spanPairs (d : Dev) (h va : Nat) (store : Bool) : Nat → (FaultInfo ⊕ Nat) ⊕ List (Nat × Nat × Attr)
  | 0 => .inr []
  | n + 1 =>
    match d.translate (d.hth h).tlb (d.ctxOf h) va store with
    | .miss => .inl (.inr va)
    | .fault s => .inl (.inl (addrFault 4 s store (d.ctxOf h) va))
    | .ok pa attr =>
      match d.spanPairs h (nextPair va) store n with
      | .inl x => .inl x
      | .inr l => .inr ((va, pa, attr) :: l)

/-- The bus fault of a translated span that must lie wholly in one tagged region (R84, R430): subcause 7 of its first address, else of the
first pair whose access a domain refuses. -/
def Dev.spanFault (d : Dev) (h : Nat) (l : List (Nat × Nat × Attr)) : Option FaultInfo :=
  let r := l.map (fun p => d.taggedRegion p.2.1)
  if r.headD none = none ∨ r.any (fun x => x ≠ r.headD none) then
    some (addrFault 6 7 false (d.ctxOf h) ((l.map Prod.fst).headD 0))
  else l.findSome? (fun p => (d.busCheck p.2.1 p.2.2).map (fun s => addrFault 6 s false (d.ctxOf h) p.1))

/-! ### Walks in flight (R296) -/

/-- The operation at the head of each smithy unit of hearth `h`, with a walk in flight. -/
def Dev.smWalks (d : Dev) (h : Nat) : List SmWalk :=
  (List.range 3).filterMap (fun x => (((d.hth h).smq.get [] x).head?).bind (fun o => o.blk.walk))

/-- The walks in flight of hearth `h`, for its threads and its smithy: the place in the order of misses, the page, and whether a miss to
the page may join it, which it may not once an invalidation has passed it (R298). -/
def Dev.walksOf (d : Dev) (h : Nat) : List (Nat × Nat × Bool) :=
  d.listed.filterMap (fun e => match e.2.wait with
    | .walk _ va stale => if hearthOf e.1 = h then some (e.2.blockSeq, va / 65536, !stale) else none
    | _ => none) ++
  (d.smWalks h).map (fun w => (w.seq, w.va / 65536, !w.stale && w.failed.isNone))

/-- A walk for the page is in flight in hearth `h`, which a miss joins. -/
def Dev.walkInFlight (d : Dev) (h va : Nat) : Bool :=
  (d.walksOf h).any (fun w => w.2.2 && w.2.1 == va / 65536)

/-- A miss in hearth `h` counts unless it joins a walk in flight. -/
def Dev.countMiss (d : Dev) (h va : Nat) : Dev := if d.walkInFlight h va then d else d.count .hthTlbMisses h

/-- The walk of a page is one of the four that hearth `h` runs at once: fewer than four pages were missed before it. -/
def Dev.walking (d : Dev) (h page : Nat) : Bool :=
  let ws := d.walksOf h
  let first := fun (p : Nat) => (ws.filter (fun w => w.2.1 == p)).foldl (fun m w => min m w.1) d.eng.seq
  decide (((ws.filter (fun w => decide (first w.2.1 < first page))).map (fun w => w.2.1)).eraseDups.length < 4)

/-- A TLB miss of an instruction: its thread is blocked for a walk, which counts unless it joins one in flight (R296). -/
def Dev.startWalk (d : Dev) (g : Nat) (i : Instr) (va : Nat) : IRes :=
  .block (d.countMiss (hearthOf g) va) 1 (.walk i va false)

/-- A watchpoint of its hearth matches an access of thread `g` to `size` bytes at a virtual address. -/
def Dev.wpHit (d : Dev) (g va size : Nat) (store : Bool) : Bool :=
  let h := hearthOf g
  (List.range 4).any (fun k =>
    let v := d.rd .dbgWp h k
    v.getLsbD 31 && v.getLsbD (if store then 29 else 30) && (v.getLsbD 28 || decide (bits v 22 16 = g % 128)) &&
    decide (bits v 12 8 = d.ctxOf h) &&
    (List.range size).any (fun n =>
      decide ((va + n) / 2 ^ 32 % 16 = d.fld .dbgWpHi h k 3 0) &&
      ((BitVec.ofNat 32 (va + n) ^^^ d.rd .dbgWpLo h k) &&& d.rd .dbgWpMask h k) == 0))

/-- The instruction's access is a store. -/
def isStore : Instr → Bool
  | .st _ _ _ _ _ => true
  | .stp _ _ _ _ _ => true
  | .stb _ _ _ _ _ => true
  | _ => false

/-- The walk for which thread `g` waits has faulted with subcause `sub`: so has its access (R296). A load that joined the walk of a store is
not stopped by its WRITE fault, and walks again. -/
def Dev.walkFault (d : Dev) (g sub : Nat) : Dev :=
  let t := d.thr g
  match t.wait with
  | .walk i va _ =>
    if sub = 3 ∧ !isStore i then d
    else
      let d1 := (d.makeReady g).hold g (addrFault 4 sub (isStore i) (d.ctxOf (hearthOf g)) va) (t.ulen - 1) none
      let hit := match i with
        | .post _ _ => false
        | .ldp _ _ _ _ _ => d.wpHit g va 4 false
        | .stp _ _ _ _ _ => d.wpHit g va 4 true
        | .ldb _ _ _ _ _ => d.wpHit g va 1 false
        | .stb _ _ _ _ _ => d.wpHit g va 1 true
        | _ => d.wpHit g va 2 (isStore i)
      if hit then d1.stopNow g else d1
  | _ => d

/-- The threads of hearth `h` that wait for a walk which no invalidation has passed, of the page of a virtual address. -/
def Dev.joined (d : Dev) (h va : Nat) : List Nat :=
  (d.listed.filter (fun e => hearthOf e.1 == h && (match e.2.wait with
    | .walk _ va' false => va' / 65536 == va / 65536
    | _ => false))).map Prod.fst

/-- The smithy operations that joined the walk of a page end with its fault. One that reads is not stopped by a WRITE fault. -/
def Dev.smWalkFault (d : Dev) (h va sub : Nat) : Dev :=
  d.updHth h (fun y => { y with smq := y.smq.mapAll (fun _ => []) (fun _ l => match l with
    | o :: rest =>
      (match o.blk.walk with
        | some w =>
          if w.va / 65536 = va / 65536 ∧ !w.stale ∧ (w.store ∨ sub ≠ 3) then
            { o with blk := { o.blk with walk := some { w with failed := some sub } } } :: rest
          else l
        | none => l)
    | [] => []) })

/-- The walk of a page of hearth `h` has faulted: so have the accesses that joined it. Loads which joined the walk of a store that faulted
with WRITE miss again (R296). -/
def Dev.walkFailed (d : Dev) (h va sub : Nat) : Dev :=
  let d1 := ((d.joined h va).foldl (fun d k => d.walkFault k sub) d).smWalkFault h va sub
  if d1.walkInFlight h va then d1.count .hthTlbMisses h else d1

end Sys2Proof.Machine
end

