-- ==== Sys2Proof/Machine/MemCtl.lean ====
section
/-!
DEFINITION. The memory channels and regions (R285–R288), pool initialisation (R253, R254), and the completions of range
operations, invalidations and writebacks (R275, R277, R298).
-/
namespace Sys2Proof.Machine

/-! ### Channels (R285, R288, R388) -/

/-- GiB from which, and over which, a channel configured as `v` serves addresses, with its interleave set. -/
def mcSpan (v : W32) : Nat × Nat := (bits v 23 16, bits v 3 0 * [1, 2, 4, 4].getD (bits v 9 8) 1)

/-- The word addresses that channel `c` serves under the CFG value `v`, as a fill. -/
def mcFill (c : Nat) (v : W32) (zero : Bool) : Fill :=
  let lo := bits v 23 16 * 2 ^ 29
  let n := [1, 2, 4, 4].getD (bits v 9 8) 1
  ⟨lo, lo + bits v 3 0 * n * 2 ^ 29, zero, n, c % n⟩

/-- What channel `c` holds under the CFG value `v` is lost: undefined until written, PLAIN zero in this model (R287; notes/assumptions/4.md). -/
def Dev.loseChannel (d : Dev) (c : Nat) (v : W32) : Dev := { d with mem := d.mem.fillAs (mcFill c v true) }

/-- The channel trains: EN is 1, its domain is ON, and it is neither READY nor failed since its domain turned ON. -/
def Dev.mcTraining (d : Dev) (c : Nat) : Bool :=
  d.bit .memMcCfg c 0 31 && d.domFull (domMc c) && !d.bit .memMcStatus c 0 31 && !d.bit .memMcStatus c 0 30

/-- `TRACKING_RUN` (R288): periodic tracking pauses the channel for at most 500 ns, which this model does not show. -/
def execTrackingRun (_c : Fin 4) (s : State) : Host.Outcome State Fault Refusal := s.onDev (fun d => d)

/-- The channels of the interleave set that channel `c` forms under the CFG value `v`. -/
def mcMembers (c : Nat) (v : W32) : List Nat :=
  if bits v 9 8 = 0 then [c] else if bits v 9 8 = 1 then [c / 2 * 2, c / 2 * 2 + 1] else [0, 1, 2, 3]

/-- A write that sets EN of channel `c` to 1 breaks no rule of R285: the set that it forms agrees, and so does the set of an enabled channel
that takes it in. -/
def Dev.mcLegal (d : Dev) (c : Nat) (v : W32) : Bool :=
  let size := bits v 3 0
  let intl := bits v 9 8
  let (lo, len) := mcSpan v
  let members := mcMembers c v
  decide (size ∈ [1, 2, 4, 8]) && decide (intl < 3) && decide (4 ≤ lo) && decide (lo ≤ 35) && decide (lo + len ≤ 36) &&
  (List.range 4).all (fun m =>
    let x := d.rd .memMcCfg m
    let (xlo, xlen) := mcSpan x
    m == c || (if members.contains m || (x.getLsbD 31 && (mcMembers m x).contains c) then
        bits x 23 16 == bits v 23 16 && bits x 3 0 == size && bits x 9 8 == intl
      else !x.getLsbD 31 || decide (xlo + xlen ≤ lo) || decide (lo + len ≤ xlo)))

/-! ### Regions (R286, R287) -/

/-- The first channel of the set that serves a byte address under the enabled channels' CFG, with the set's span. -/
def Dev.mcSetOf (d : Dev) (lo hi : Nat) : Option (Nat × Nat) :=
  (List.range 4).findSome? (fun c =>
    let v := d.rd .memMcCfg c
    let (b, n) := mcSpan v
    if v.getLsbD 31 ∧ b * 2 ^ 30 ≤ lo ∧ hi ≤ (b + n) * 2 ^ 30 then some (b, n) else none)

/-- The spans [lo, hi) of region `r` and of its shadow. -/
def Dev.regSpan (d : Dev) (r : Nat) : Nat × Nat :=
  let b := d.fld .memRegBase r 0 9 0 * 2 ^ 26
  (b, b + d.fld .memRegSize r 0 9 0 * 2 ^ 26)
def Dev.shadowSpan (d : Dev) (r : Nat) : Nat × Nat :=
  let b := d.fld .memRegShadow r 0 12 0 * 2 ^ 23
  (b, b + d.fld .memRegSize r 0 9 0 * 2 ^ 23)

/-- Two spans share no byte. -/
def apart (a b : Nat × Nat) : Bool := decide (a.2 ≤ b.1) || decide (b.2 ≤ a.1)

/-- A write that sets EN of region `r` to 1, with KIND `tagged`, breaks no rule of R286. -/
def Dev.regLegal (d : Dev) (r : Nat) (tagged : Bool) : Bool :=
  let x := d.regSpan r
  let y := d.shadowSpan r
  let others := (List.range 16).filter (fun k => k != r && d.bit .memRegCtrl k 0 31)
  decide (x.1 < x.2) && (d.mcSetOf x.1 x.2).isSome &&
  others.all (fun k => apart x (d.regSpan k) && (!d.bit .memRegCtrl k 0 30 || apart x (d.shadowSpan k))) &&
  (!tagged || ((d.mcSetOf y.1 y.2) == (d.mcSetOf x.1 x.2) && apart x y &&
    others.all (fun k => apart y (d.regSpan k) && (!d.bit .memRegCtrl k 0 30 || apart y (d.shadowSpan k)))))

/-- INIT starts: the region is being filled (R287). -/
def Dev.regionInit (d : Dev) (r : Nat) : Dev :=
  { d.setBit .memRegCtrl r 0 28 false with mem := { d.mem with init := d.mem.init.set false r true } }

/-- `REGION_INIT_DONE` (R287): the region, and the shadow of a tagged one (DEDUCED, notes/assumptions/56.md), read PLAIN zero, INIT_DONE is set, and
the stores that waited go on. -/
def execRegionInitDone (n : Fin 16) (s : State) : Host.Outcome State Fault Refusal :=
  s.onDev (fun d =>
    if d.mem.init.get false n then
      let (lo, hi) := d.regSpan n
      let (slo, shi) := d.shadowSpan n
      let m1 := d.mem.fill (lo / 2) (hi / 2) true
      let m := if d.bit .memRegCtrl n 0 30 then m1.fill (slo / 2) (shi / 2) true else m1
      { d.setBit .memRegCtrl n 0 28 true with mem := { m with init := m.init.set false n false } }.storeHeld
    else d)

/-! ### Pools (R253, R254) -/

/-- A write that sets EN of pool `n` to 1 breaks no rule of R253. -/
def Dev.poolLegal (d : Dev) (n : Nat) : Bool :=
  let cnt := d.poolCount n
  let x := (d.poolBase n, d.poolBase n + cnt * poolSize n)
  let regs := (List.range 16).filter (fun k => d.bit .memRegCtrl k 0 31)
  decide (1 ≤ cnt) && decide (cnt ≤ 65536) &&
  (decide (0x8000000 ≤ x.1 ∧ x.2 ≤ 0x9000000) ||
   (decide (0x100000000 ≤ x.1 ∧ x.2 ≤ 0x900000000) &&
    (regs.all (fun k => apart x (d.regSpan k)) ||
     regs.any (fun k => !d.bit .memRegCtrl k 0 30 && decide ((d.regSpan k).1 ≤ x.1 ∧ x.2 ≤ (d.regSpan k).2)))))

/-- EN of pool `n` has been set: its state entries are being initialised. -/
def Dev.poolEnabled (d : Dev) (n : Nat) : Dev := { d with bpm := { d.bpm with init := d.bpm.init.set false n true } }

/-- `POOL_READY` (R254): every buffer below COUNT is free with generation 0, and READY is set. -/
def execPoolReady (n : Fin 8) (s : State) : Host.Outcome State Fault Refusal :=
  s.onDev (fun d =>
    if d.bpm.init.get false n then
      let b := { d.bpm with
        init := d.bpm.init.set false n false,
        bufs := d.bpm.bufs.filter (fun k _ => k / 65536 ≠ n.val),
        free := d.bpm.free.set 0 n (d.poolCount n) }
      ({ d with bpm := b }.setBit .bpmPoolStat n 0 31 true).xoff
    else d)

/-! ### Completions -/

/-- `VICTIM_WRITEBACK_DONE` (R275): the oldest writeback of the hearth's victim buffer is accepted. -/
def execVictimWritebackDone (h : Fin 16) (s : State) : Host.Outcome State Fault Refusal := s.onDev (·.victimDone h)

/-- `RANGE_DONE` (R277): the range engine's operation completes. -/
def execRangeDone (h : Fin 16) (s : State) : Host.Outcome State Fault Refusal :=
  s.onDev (fun d => if d.bit .hthRngStat h 0 31 then d.rangeFinish h else d)

/-- A walk that an invalidation has passed is still in flight in one of its targets (R298). -/
def Dev.staleLeft (d : Dev) : Bool :=
  let tgt := d.rd .mmuTlbiTgt
  d.listed.any (fun e => tgt.getLsbD (hearthOf e.1) && (match e.2.wait with | .walk _ _ st => st | _ => false))
    || (List.range 16).any (fun h => tgt.getLsbD h && (d.smWalks h).any (fun w => w.stale))
    || (tgt.getLsbD 16 && d.blw.chs.entries.any (fun e => match e.2.walk with | some (_, st) => st | none => false))

/-- `TLBI_DONE` (R298): every target has removed the entries, and the walks that were in flight have ended. -/
def execTlbiDone (s : State) : Host.Outcome State Fault Refusal :=
  s.onDev (fun d => if d.mmu.tlbi ∧ !d.staleLeft then d.tlbiFinish else d)

end Sys2Proof.Machine
end

