-- ==== Sys2Proof/Machine/Crypto.lean ====
section
/-!
DEFINITION. The published algorithms that the manual names without restating them: CRC-32 and CRC-32C, the folded
one's-complement sum, the Toeplitz hash, AES with GCM and CMAC, SHA-512, and Ed25519ph (R159, R167, R209, R337, R393).
PRESUMED: their constants and steps come from the published standards.
-/
namespace Sys2Proof.Crypto

/-- Apply `f` n times. -/
def times {α : Type} (f : α → α) : Nat → α → α
  | 0, x => x
  | n + 1, x => times f n (f x)

/-! ### Cyclic redundancy checks -/

/-- One bit of a reflected CRC register. -/
def crcBit (poly c : Nat) : Nat := if c % 2 = 1 then (c / 2) ^^^ poly else c / 2
/-- A reflected CRC register after some bytes. -/
def crcRun (poly init : Nat) (bs : List W8) : Nat :=
  bs.foldl (fun c (b : W8) => times (crcBit poly) 8 (c ^^^ b.toNat)) init
/-- The CRC-32 register run (IEEE 802.3), before the final inversion. -/
def crc32Run (init : Nat) (bs : List W8) : Nat := crcRun 0xEDB88320 init bs
/-- The CRC-32C register run (Castagnoli), before any final inversion. -/
def crc32cRun (init : Nat) (bs : List W8) : Nat := crcRun 0x82F63B78 init bs
/-- The CRC-32 of some bytes: initial value all ones, inverted at the end. -/
def crc32 (bs : List W8) : Nat := crc32Run 0xFFFFFFFF bs ^^^ 0xFFFFFFFF

/-- The FCS of a frame: its CRC-32, least significant byte first on the line. -/
def fcs (bs : List W8) : List W8 :=
  let c := crc32 bs
  [BitVec.ofNat 8 c, BitVec.ofNat 8 (c / 256), BitVec.ofNat 8 (c / 65536), BitVec.ofNat 8 (c / 16777216)]

/-! ### The folded one's-complement sum -/

/-- Fold a sum to 16 bits with end-around carry. -/
def fold16 (n : Nat) : Nat := times (fun x => x % 65536 + x / 65536) 4 n

/-! ### Bytes and numbers -/

/-- The number that bytes spell, first byte most significant. -/
def beNat (bs : List W8) : Nat := bs.foldl (fun n (b : W8) => n * 256 + b.toNat) 0
/-- The number that bytes spell, first byte least significant. -/
def leNat (bs : List W8) : Nat := bs.foldr (fun (b : W8) n => n * 256 + b.toNat) 0
/-- The `k` low bytes of a number, most significant first. -/
def toBe (k n : Nat) : List W8 := (List.range k).map (fun i => BitVec.ofNat 8 (n >>> (8 * (k - 1 - i))))
/-- Bytes combined one by one with exclusive or, as long as the shorter list. -/
def xorBytes (a b : List W8) : List W8 := List.zipWith (fun (x y : W8) => x ^^^ y) a b

/-! ### AES -/

/-- Double in GF(2^8) with the AES polynomial. -/
def xtime (a : Nat) : Nat := if 128 ≤ a then ((a * 2) ^^^ 0x11B) % 256 else a * 2
/-- The product in GF(2^8). -/
def gmul (a b : Nat) : Nat :=
  ((List.range 8).foldl (fun (acc : Nat × Nat) i =>
    (if b.testBit i then acc.1 ^^^ acc.2 else acc.1, xtime acc.2)) (0, a)).1
/-- The AES substitution: the inverse (the 254th power) and the affine map. -/
def sbox (a : Nat) : Nat :=
  let sq := fun x => gmul x x
  let p2 := sq a
  let p4 := sq p2
  let p8 := sq p4
  let p16 := sq p8
  let p32 := sq p16
  let p64 := sq p32
  let p128 := sq p64
  let inv := gmul p128 (gmul p64 (gmul p32 (gmul p16 (gmul p8 (gmul p4 p2)))))
  let rot := fun (x k : Nat) => ((x <<< k) ||| (x >>> (8 - k))) % 256
  inv ^^^ rot inv 1 ^^^ rot inv 2 ^^^ rot inv 3 ^^^ rot inv 4 ^^^ 0x63

/-- The key schedule's words, from the last backwards, `nk` words of key in force. -/
def expandKey (nk : Nat) (key : List (List Nat)) (total : Nat) : List (List Nat) :=
  ((List.range (total - nk)).foldl (fun (ws : Array (List Nat)) j =>
    let i := j + nk
    let prev := ws.getD (i - 1) []
    let t :=
      if i % nk = 0 then
        let r := (prev.drop 1 ++ prev.take 1).map sbox
        let rc := times xtime (i / nk - 1) 1
        match r with
        | a :: b => (a ^^^ rc) :: b
        | [] => []
      else if 6 < nk ∧ i % nk = 4 then prev.map sbox else prev
    ws.push (List.zipWith (· ^^^ ·) (ws.getD (i - nk) []) t)) key.toArray).toList

/-- A list cut into pieces of `k`. -/
def chunks {α : Type} (k : Nat) : Nat → List α → List (List α)
  | 0, _ => []
  | n + 1, l => match l with
    | [] => []
    | _ => l.take k :: chunks k n (l.drop k)

/-- The round keys of a 16-byte or 32-byte key, sixteen bytes each. -/
def roundKeys (key : List W8) : List (List Nat) :=
  let nk := key.length / 4
  let ws := expandKey nk (chunks 4 8 (key.map BitVec.toNat)) (4 * (nk + 7))
  chunks 16 15 ws.flatten

/-- Rotate the rows of a block, byte r + 4c being row r of column c. -/
def shiftRows (s : List Nat) : List Nat :=
  (List.range 16).map (fun i => s.getD ((i + 4 * (i % 4)) % 16) 0)
/-- Mix one column. -/
def mixColumn (c : List Nat) : List Nat :=
  (List.range 4).map (fun r =>
    gmul 2 (c.getD r 0) ^^^ gmul 3 (c.getD ((r + 1) % 4) 0) ^^^ c.getD ((r + 2) % 4) 0 ^^^ c.getD ((r + 3) % 4) 0)
/-- Add a round key. -/
def addKey (s k : List Nat) : List Nat := List.zipWith (· ^^^ ·) s k

/-- Encrypt one block under round keys. -/
def aesBlock (rk : List (List Nat)) (blk : List W8) : List W8 :=
  let s0 := addKey (blk.map BitVec.toNat) (rk.headD [])
  let mid := (rk.drop 1).dropLast
  let s1 := mid.foldl (fun s k => addKey ((chunks 4 4 (shiftRows (s.map sbox))).map mixColumn).flatten k) s0
  (addKey (shiftRows (s1.map sbox)) (rk.getLastD [])).map (BitVec.ofNat 8)

/-- Fill a list with zero bytes to `k`. -/
def padTo (k : Nat) (bs : List W8) : List W8 := bs ++ List.replicate (k - bs.length) 0

/-! ### GCM -/

/-- The product in GF(2^128), bit 127 of the number being the first bit of the block. -/
def ghMul (x y : Nat) : Nat :=
  ((List.range 128).foldl (fun (a : Nat × Nat) i =>
    (if x.testBit (127 - i) then a.1 ^^^ a.2 else a.1,
     if a.2 % 2 = 1 then (a.2 / 2) ^^^ (0xE1 <<< 120) else a.2 / 2)) (0, y)).1

/-- GHASH continued from a state over whole or padded blocks. -/
def ghRun (h st : Nat) (bs : List W8) : Nat :=
  (chunks 16 (bs.length / 16 + 1) bs).foldl (fun y b => ghMul (y ^^^ beNat (padTo 16 b)) h) st

/-- The keystream of GCM from a block counter on, combined with bytes. -/
def gctr (rk : List (List Nat)) (iv : List W8) (ctr : Nat) (bs : List W8) : List W8 :=
  let blocks := chunks 16 (bs.length / 16 + 1) bs
  (((List.range blocks.length).zip blocks).map (fun kb => xorBytes kb.2 (aesBlock rk (iv ++ toBe 4 (ctr + kb.1))))).flatten

/-- The tag of GCM over associated data and ciphertext, sixteen bytes. -/
def gcmTag (rk : List (List Nat)) (iv aad ct : List W8) : List W8 :=
  let h := beNat (aesBlock rk (List.replicate 16 0))
  let s := ghRun h (ghRun h 0 aad) ct
  let s := ghMul (s ^^^ (aad.length * 8 * 2 ^ 64 + ct.length * 8)) h
  xorBytes (toBe 16 s) (aesBlock rk (iv ++ toBe 4 1))

/-- Encrypt with GCM: the ciphertext and the tag. -/
def gcmSeal (key iv aad pt : List W8) : List W8 × List W8 :=
  let rk := roundKeys key
  let ct := gctr rk iv 2 pt
  (ct, gcmTag rk iv aad ct)

/-- Decrypt with GCM: the plaintext, and the tag that the ciphertext should carry. -/
def gcmOpen (key iv aad ct : List W8) : List W8 × List W8 :=
  let rk := roundKeys key
  (gctr rk iv 2 ct, gcmTag rk iv aad ct)

/-! ### CMAC -/

/-- Double in GF(2^128) as CMAC's subkeys do. -/
def dbl (n : Nat) : Nat := if n.testBit 127 then ((n * 2) ^^^ 0x87) % 2 ^ 128 else n * 2

/-- AES-CMAC of a message. -/
def cmac (key msg : List W8) : List W8 :=
  let rk := roundKeys key
  let k1 := dbl (beNat (aesBlock rk (List.replicate 16 0)))
  let n := (msg.length + 15) / 16
  let body := msg.take (16 * (n - 1))
  let last := msg.drop (16 * (n - 1))
  let m := if last.length = 16 then xorBytes last (toBe 16 k1)
           else xorBytes (padTo 16 (last ++ [0x80])) (toBe 16 (dbl k1))
  let x := (chunks 16 n body).foldl (fun x b => aesBlock rk (xorBytes x b)) (List.replicate 16 0)
  aesBlock rk (xorBytes x m)

/-! ### The Toeplitz hash -/

/-- The Toeplitz hash of bytes under a key: the exclusive or of the 32-bit key windows at the ones of the input. -/
def toeplitz (key bs : List W8) : Nat :=
  let k := beNat key
  let n := 8 * key.length
  let x := beNat bs
  let m := 8 * bs.length
  (List.range m).foldl (fun acc i =>
    if x.testBit (m - 1 - i) then acc ^^^ ((k >>> (n - 32 - i)) % 2 ^ 32) else acc) 0

/-! ### SHA-512 -/

/-- The largest x with x^k at most n, by bits from 2^b down. -/
def root (k n b : Nat) : Nat :=
  (List.range (b + 1)).foldl (fun x i => let y := x + 2 ^ (b - i); if y ^ k ≤ n then y else x) 0
/-- The first 80 primes. -/
def primes80 : List Nat := (List.range 410).filter (fun n => 2 ≤ n ∧ (List.range n).all (fun d => d < 2 ∨ n % d ≠ 0))
/-- The round constants: fractions of the cube roots of the first 80 primes. -/
def shaK : List Nat := primes80.map (fun p => root 3 (p <<< 192) 68 % 2 ^ 64)
/-- The initial state: fractions of the square roots of the first eight primes. -/
def shaH : List Nat := (primes80.take 8).map (fun p => root 2 (p <<< 128) 68 % 2 ^ 64)

def w64 : Nat → Nat := fun n => n % 2 ^ 64
def ror64 (x k : Nat) : Nat := ((x >>> k) ||| (x <<< (64 - k))) % 2 ^ 64

/-- One block of SHA-512. -/
def shaBlock (ks : List Nat) (h : List Nat) (blk : List W8) : List Nat :=
  let w0 := ((chunks 8 16 blk).map beNat).toArray
  let w := (List.range 64).foldl (fun (w : Array Nat) j =>
    let i := j + 16
    let a := w.getD (i - 15) 0
    let b := w.getD (i - 2) 0
    let s0 := ror64 a 1 ^^^ ror64 a 8 ^^^ (a >>> 7)
    let s1 := ror64 b 19 ^^^ ror64 b 61 ^^^ (b >>> 6)
    w.push (w64 (w.getD (i - 16) 0 + s0 + w.getD (i - 7) 0 + s1))) w0
  let v := ((List.range 80).zip ks).foldl (fun (v : List Nat) ik =>
    let g := fun k => v.getD k 0
    let s1 := ror64 (g 4) 14 ^^^ ror64 (g 4) 18 ^^^ ror64 (g 4) 41
    let ch := (g 4 &&& g 5) ^^^ ((2 ^ 64 - 1 - g 4) &&& g 6)
    let t1 := g 7 + s1 + ch + ik.2 + w.getD ik.1 0
    let s0 := ror64 (g 0) 28 ^^^ ror64 (g 0) 34 ^^^ ror64 (g 0) 39
    let maj := (g 0 &&& g 1) ^^^ (g 0 &&& g 2) ^^^ (g 1 &&& g 2)
    [w64 (t1 + s0 + maj), g 0, g 1, g 2, w64 (g 3 + t1), g 4, g 5, g 6]) h
  List.zipWith (fun a b => w64 (a + b)) h v

/-- SHA-512 of a message, 64 bytes. -/
def sha512 (msg : List W8) : List W8 :=
  let l := msg.length
  let z := (111 + 128 - l % 128) % 128
  let m := msg ++ [0x80] ++ List.replicate z 0 ++ toBe 16 (8 * l)
  let ks := shaK
  (((chunks 128 (m.length / 128) m).foldl (shaBlock ks) shaH).map (toBe 8)).flatten

/-! ### Ed25519 -/

/-- The field of the curve. -/
def edP : Nat := 2 ^ 255 - 19
/-- The order of the base point. -/
def edL : Nat := 2 ^ 252 + 27742317777372353535851937790883648493

/-- b to the power of a number of fewer than `n` bits, modulo m. -/
def powMod (m b e n : Nat) : Nat :=
  ((List.range n).foldl (fun (a : Nat × Nat) i =>
    (if e.testBit i then a.1 * a.2 % m else a.1, a.2 * a.2 % m)) (1, b % m)).1
def edInv (a : Nat) : Nat := powMod edP a (edP - 2) 255
/-- The constant d of the curve. -/
def edD : Nat := (edP - 121665) * edInv 121666 % edP

/-- A point in extended coordinates. -/
structure Pt where
  x : Nat
  y : Nat
  z : Nat
  t : Nat
deriving DecidableEq

/-- The sum of two points. -/
def Pt.add (d : Nat) (p q : Pt) : Pt :=
  let m := edP
  let a := (p.y + m - p.x) * (q.y + m - q.x) % m
  let b := (p.y + p.x) * (q.y + q.x) % m
  let c := p.t * 2 * d % m * q.t % m
  let e := p.z * 2 * q.z % m
  let f := (e + m - c) % m
  let g := (e + c) % m
  let i := (b + m - a) % m
  let j := (a + b) % m
  ⟨i * f % m, g * j % m, f * g % m, i * j % m⟩

/-- The neutral point. -/
def Pt.zero : Pt := ⟨0, 1, 1, 0⟩

/-- A multiple of a point by a number of fewer than `n` bits. -/
def Pt.mul (d n k : Nat) (p : Pt) : Pt :=
  ((List.range n).foldl (fun (a : Pt × Pt) i =>
    (if k.testBit i then Pt.add d a.1 a.2 else a.1, Pt.add d a.2 a.2)) (Pt.zero, p)).1

/-- The same point of the curve. -/
def Pt.same (p q : Pt) : Bool :=
  decide (p.x * q.z % edP = q.x * p.z % edP ∧ p.y * q.z % edP = q.y * p.z % edP)

/-- The point that 32 bytes encode, if they encode one. -/
def Pt.decode (d : Nat) (bs : List W8) : Option Pt :=
  let n := leNat bs
  let y := n % 2 ^ 255
  let sign := n / 2 ^ 255 % 2
  if edP ≤ y then none else
    let u := (y * y + edP - 1) % edP
    let v := (d * (y * y % edP) + 1) % edP
    let x2 := u * edInv v % edP
    let r := powMod edP x2 ((edP + 3) / 8) 255
    let r := if r * r % edP = x2 then r else r * powMod edP 2 ((edP - 1) / 4) 255 % edP
    if r * r % edP ≠ x2 then none
    else if r = 0 ∧ sign = 1 then none
    else
      let x := if r % 2 = sign then r else (edP - r) % edP
      some ⟨x, y, 1, x * y % edP⟩

/-- The base point: y is 4/5 and x is even. -/
def edBase (d : Nat) : Pt :=
  let y := 4 * edInv 5 % edP
  ((Pt.decode d ((toBe 32 y).reverse)).getD Pt.zero)

/-- The prefix of Ed25519ph with an empty context. -/
def edDom : List W8 := ("SigEd25519 no Ed25519 collisions".toList.map (fun c => BitVec.ofNat 8 c.toNat)) ++ [1, 0]

/-- Whether a 64-byte Ed25519ph signature of a prehash verifies under a 32-byte public key. -/
def edVerify (pub sig prehash : List W8) : Bool :=
  let d := edD
  let r := sig.take 32
  let s := leNat (sig.drop 32)
  match Pt.decode d pub, Pt.decode d r with
  | some a, some rp =>
    if edL ≤ s then false else
      let k := leNat (sha512 (edDom ++ r ++ pub ++ prehash)) % edL
      let lhs := Pt.mul d 4 8 (Pt.mul d 253 s (edBase d))
      let rhs := Pt.mul d 4 8 (Pt.add d rp (Pt.mul d 253 k a))
      Pt.same lhs rhs
  | _, _ => false

end Sys2Proof.Crypto
end

