-- ==== Sys2Proof/Machine/Ports.lean ====
section
/-!
DEFINITION. The Ethernet ports' receive side (R159–R165), flow control (R163, R265), and MACsec in both directions (R167–R174).
-/
namespace Sys2Proof.Machine

open Sys2Proof.Crypto

/-! ### Ports -/

/-- LINK of port `p`, with its quad's domain on. -/
def Dev.portLink (d : Dev) (p : Nat) : Bool := d.bit .prtStatus p 0 0 && d.domOn (domPortq (p / 4))
/-- The rate of port `p` in Mb/s, by PRT.STATUS.SPEED. -/
def Dev.portRate (d : Dev) (p : Nat) : Nat := [1000, 2500, 5000, 10000, 25000].getD (d.fld .prtStatus p 0 6 4) 1000
/-- A byte of a frame. -/
def byteAt (bs : Bytes) (k : Nat) : Nat := (bs.getD k 0).toNat
/-- Two bytes of a frame, first high. -/
def half (bs : Bytes) (k : Nat) : Nat := byteAt bs k * 256 + byteAt bs (k + 1)
/-- The frame's first tag is a VLAN tag. -/
def vlanTagged (bs : Bytes) : Bool := half bs 12 == 0x8100
/-- The EtherType after at most one VLAN tag. -/
def innerType (bs : Bytes) : Nat := if vlanTagged bs then half bs 16 else half bs 12

/-! ### Flow control (R163, R265) -/

/-- TICKCLK that a number of quanta of 512 bit times takes at the port's rate. -/
def Dev.quantaTicks (d : Dev) (p q : Nat) : Nat := (q * 51200 + d.portRate p - 1) / d.portRate p
/-- The tick at which a stop of `q` quanta ends; none for zero time. -/
def Dev.stopUntil (d : Dev) (p q : Nat) : Option Nat := if q = 0 then none else some (d.time.tick + d.quantaTicks p q)

/-- A received MAC control frame is consumed, counted, and honoured as RXCTRL says (R163). -/
def Dev.macControl (d : Dev) (p op : Nat) (prios : W8) (times : List W16) : Dev :=
  let d1 := d.count .prtRxPause p
  let q := fun (n : Nat) => (times.getD n 0).toNat
  if op = 1 ∧ d1.bit .prtRxctrl p 0 16 then
    { d1 with prt := { d1.prt with pause := d1.prt.pause.set none p (d1.stopUntil p (q 0)) } }
  else if op = 0x0101 ∧ d1.bit .prtRxctrl p 0 17 then
    (List.range 8).foldl (fun d n =>
      if prios.getLsbD n then
        { d with prt := { d.prt with pfc := d.prt.pfc.set none (p * 8 + n) (d.stopUntil p (q n)) } }
      else d) d1
  else d1

/-- A frame whose first byte came at tick `t` found no room (R160): what the FIFO held then, the frames that have left it since among it,
and a frame of the maximum length did not fit together. An express frame that arrives within a preemptable one does not see the room that
the latter has reserved, of which a command tells only at its end (DESIGN CHOICE, notes/assumptions/23.md). -/
def Dev.noRoom (d : Dev) (p t : Nat) : Bool :=
  let gone := (d.prt.left.get [] p).filter (fun x => decide (t < x.1 ∧ x.2.1 ≤ t))
  let used := ((d.prt.rxq.get [] p).filter (fun e => decide (e.since ≤ t))).map RxEntry.fifo ++ gone.map (fun x => x.2.2)
  decide (20480 < used.foldl (· + ·) 0 + d.fld .prtRxctrl p 0 13 0)

/-- The tick at which the first byte of a frame came that crossed the MAC `ago` ns ago. -/
def Dev.firstByte (d : Dev) (ago : W32) : Nat := d.time.tick - ago.toNat / 10

/-- Frames that left the FIFO before a frame's first byte are forgotten: later frames begin later, but for one that an express frame cut
into. -/
def Dev.forgetLeft (d : Dev) (p t : Nat) : Dev :=
  { d with prt := { d.prt with left := d.prt.left.upd [] p (·.filter (fun x => decide (t < x.1))) } }

/-- `MAC_CONTROL_FRAME`: a frame of the minimum length that finds room (R160) and passes R159. -/
def execMacControlFrame (p : Fin 32) (f : MacControl) (s : State) : Host.Outcome State Fault Refusal :=
  s.onDev (fun d =>
    if !d.portLink p then d
    else if d.noRoom p (d.time.tick - d.quantaTicks p 1) then d.count .prtRxOverrun p
    else ((d.count .prtRxFrames p).count .prtRxBytes p 0 64).macControl p f.op.toNat f.prios f.times)

/-- `PAUSE_EXPIRY` (R163, R243): a received stop has run out. -/
def execPauseExpiry (p : Fin 32) (prio : Option (Fin 8)) (s : State) : Host.Outcome State Fault Refusal :=
  s.onDev (fun d =>
    match prio with
    | none =>
      match d.prt.pause.get none p with
      | some t => if t ≤ d.time.tick then { d with prt := { d.prt with pause := d.prt.pause.set none p none } } else d
      | none => d
    | some n =>
      match d.prt.pfc.get none (p.val * 8 + n.val) with
      | some t =>
        if t ≤ d.time.tick then { d with prt := { d.prt with pfc := d.prt.pfc.set none (p.val * 8 + n.val) none } } else d
      | none => d)

/-- `PFC_TX` (R163, R265): a PFC frame for the lossless priorities of the port that PFC_TX enables: at once when XOFF begins,
again each half QUANTA while it holds, and with zero time when it has cleared. -/
def execPfcTx (p : Fin 32) (s : State) : Host.Outcome State Fault Refusal :=
  s.onDev (fun d =>
    let prios := d.fld .bpmLlCfg p 0 15 8 &&& d.fld .prtFc p 0 7 0
    let q := d.fld .prtFc p 0 31 16
    let due := d.bpm.pfcDue.get 0 p
    let again := d.bit .bpmLlStat p 0 31 && decide (d.quantaTicks p q ≤ 2 * (d.time.tick - d.bpm.pfcLast.get 0 p))
    if prios = 0 ∨ !d.portLink p ∨ (due = 0 ∧ !again) then d
    else
      let time := if due = 2 then 0 else q
      ({ d with bpm := { d.bpm with pfcDue := d.bpm.pfcDue.set 0 p 0, pfcLast := d.bpm.pfcLast.set 0 p d.time.tick },
                prt := { d.prt with pfcSent := d.prt.pfcSent.set (0, 0) p (BitVec.ofNat 8 prios, w16 time) } }).count
        .prtTxPause p)

/-- `VERIFY_MPACKET` (R164): with PREEMPT_EN the port answers with a respond mPacket. -/
def execVerifyMpacket (p : Fin 32) (s : State) : Host.Outcome State Fault Refusal :=
  s.onDev (fun d =>
    if d.portLink p ∧ d.bit .prtRxctrl p 0 18 then
      { d with prt := { d.prt with responds := d.prt.responds.upd 0 p (· + 1) } }
    else d)

/-! ### Secure channels and associations (R173) -/

def MsecSc.init : MsecSc := ⟨0, 0⟩
def MsecSa.init : MsecSa := ⟨0, 0, 0, 0, 0, false, false⟩
/-- The key of SC `sc` of a port and direction (1 transmit). -/
def scKey (p dir sc : Nat) : Nat := (p * 2 + dir) * 32 + sc
def Dev.msc (d : Dev) (k : Nat) : MsecSc := d.prt.scs.get MsecSc.init k
def Dev.msa (d : Dev) (k an : Nat) : MsecSa := d.prt.sas.get MsecSa.init (k * 4 + an)
def Dev.setMsa (d : Dev) (k an : Nat) (x : MsecSa) : Dev :=
  { d with prt := { d.prt with sas := d.prt.sas.set MsecSa.init (k * 4 + an) x } }
def MsecSc.en (x : MsecSc) : Bool := x.ctrl.getLsbD 0
def MsecSa.en (x : MsecSa) : Bool := x.ctrl.getLsbD 0
def MsecSa.xpn (x : MsecSa) : Bool := x.ctrl.getLsbD 2
def MsecSa.big (x : MsecSa) : Bool := x.ctrl.getLsbD 1
/-- The confidentiality offset of an SC. -/
def MsecSc.confOfs (x : MsecSc) : Nat := [0, 30, 50, 0].getD (bits x.ctrl 6 5) 0
/-- The key bytes of an SA. -/
def MsecSa.keyBytes (x : MsecSa) : List W8 := (toBe 32 x.key).take (if x.big then 32 else 16)
/-- The initialisation vector of an SA for a PN (PRESUMED: IEEE 802.1AE). -/
def MsecSa.iv (x : MsecSa) (sci : W64) (pn : Nat) : List W8 :=
  if x.xpn then xorBytes (toBe 4 x.ssci.toNat ++ toBe 8 pn) (toBe 12 x.salt) else toBe 8 sci.toNat ++ toBe 4 pn

/-- The SC and SA that `MSEC.SEL` selects: the SC's key and the AN. -/
def Dev.msecSel (d : Dev) : Nat × Nat :=
  (scKey (d.fld .msecSel 0 0 12 8) (d.fld .msecSel 0 0 7 7) (d.fld .msecSel 0 0 6 2), d.fld .msecSel 0 0 1 0)

/-- A value of `n` registers of a kind, the first most significant. -/
def Dev.rdMany (d : Dev) (k : RegKind) (n : Nat) : Nat := (List.range n).foldl (fun a i => a * 2 ^ 32 + (d.rd k i).toNat) 0

/-- A write of `MSEC.CMD` (R173): COMMIT_SC, then COMMIT_SA, then READ; BUSY until the command is done. A write while BUSY is 1 executes too:
R173 refuses those of SEL and the staging registers alone (DESIGN CHOICE, notes/assumptions/56.md). -/
def Dev.msecCmd (d : Dev) (v : W32) : Dev :=
  let (k, an) := d.msecSel
  let d1 := if v.getLsbD 0 then
      { d with prt := { d.prt with
          scs := d.prt.scs.set MsecSc.init k ⟨d.rd64 .msecSciHi .msecSciLo, d.rd .msecScCtrl⟩ } }
    else d
  let d2 := if v.getLsbD 1 then
      let x : MsecSa := { ctrl := d1.rd .msecSaCtrl, key := d1.rdMany .msecSaKey 8, salt := d1.rdMany .msecSaSalt 3,
                          ssci := d1.rd .msecSaSsci, pn := d1.rd64 .msecSaPnHi .msecSaPnLo, pnUsedUp := false,
                          threshTold := false }
      (List.range 8).foldl (fun d i => d.wr .msecSaKey i 0 0) (d1.setMsa k an x)
    else d1
  let d3 := if v.getLsbD 2 then
      let c := d2.msc k
      let x := d2.msa k an
      let d3 := ((d2.wr .msecSciHi 0 0 (BitVec.ofNat 32 (c.sci.toNat / 2 ^ 32))).wr .msecSciLo 0 0 (c.sci.truncate 32)).wr .msecScCtrl 0 0 c.ctrl
      let d4 := (List.range 8).foldl (fun d i => d.wr .msecSaKey i 0 0) (d3.wr .msecSaCtrl 0 0 x.ctrl)
      let d5 := (List.range 3).foldl (fun d i => d.wr .msecSaSalt i 0 (BitVec.ofNat 32 (x.salt >>> (32 * (2 - i))))) d4
      ((d5.wr .msecSaSsci 0 0 x.ssci).wr .msecSaPnHi 0 0 (BitVec.ofNat 32 (x.pn.toNat / 2 ^ 32))).wr .msecSaPnLo 0 0 (x.pn.truncate 32)
    else d2
  if bits v 2 0 = 0 then d else d3.setBit .msecCmd 0 0 8 true

/-- `MSEC_CMD_DONE`: BUSY clears. -/
def execMsecCmdDone (s : State) : Host.Outcome State Fault Refusal := s.onDev (·.setBit .msecCmd 0 0 8 false)

/-- Some receive SA of port `p` uses an XPN suite (MSEC.REPLAY_WIN). -/
def Dev.rxXpn (d : Dev) (p : Nat) : Bool :=
  d.prt.sas.entries.any (fun e => e.1 / 256 == p && e.1 / 128 % 2 == 0 && e.2.xpn)

/-! ### Ingress (R168–R170) -/

/-- An enabled bypass EtherType of port `p`. -/
def Dev.bypassType (d : Dev) (p t : Nat) : Bool :=
  (List.range 4).any (fun n =>
    d.bit .msecPortCtrl p 0 (8 + n) &&
      decide ((if n < 2 then d.fld .msecByp01 p 0 (16 * n + 15) (16 * n)
        else d.fld .msecByp23 p 0 (16 * (n - 2) + 15) (16 * (n - 2))) = t))

/-- A received SecTAG: its TCI bits, AN, short length, PN, SCI where it is explicit, and its length (PRESUMED: the layout of
IEEE 802.1AE). -/
structure SecTag where
  tci : Nat
  an : Nat
  sl : Nat
  pn : Nat
  sci : Option Nat
  len : Nat
deriving DecidableEq, Repr

/-- The SecTAG of a frame that carries one. -/
def secTag (bs : Bytes) : SecTag :=
  let t := byteAt bs 14
  let sc := t / 32 % 2 = 1
  { tci := t / 4, an := t % 4, sl := byteAt bs 15, pn := beNat ((bs.drop 16).take 4),
    sci := if sc then some (beNat ((bs.drop 20).take 8)) else none, len := if sc then 16 else 8 }

/-- E and C of a SecTAG. -/
def SecTag.e (t : SecTag) : Bool := t.tci.testBit 1
def SecTag.c (t : SecTag) : Bool := t.tci.testBit 0

/-- The length of the secured data after a SecTAG, before the ICV. -/
def SecTag.dataLen (t : SecTag) (bs : Bytes) : Nat := if t.sl = 0 then bs.length - 12 - t.len - 16 else t.sl

/-- The SecTAG is malformed under IEEE 802.1AE: version 1, SC beside ES or SCB, E without C, a short length above 47, or a
frame shorter than it says; PN 0 is one too, outside XPN. -/
def SecTag.bad (t : SecTag) (bs : Bytes) (xpn : Bool) : Bool :=
  t.tci.testBit 5 || (t.tci.testBit 3 && (t.tci.testBit 4 || t.tci.testBit 2)) || (t.e && !t.c)
  || decide (48 ≤ t.sl) || decide (bs.length < 12 + t.len + 16 + (if t.sl = 0 then 48 else t.sl))
  || (decide (t.pn = 0) && !xpn)

/-- The SC of port `p` that an SCI matches. -/
def Dev.rxSc (d : Dev) (p sci : Nat) : Option Nat :=
  (List.range 32).find? (fun c => (d.msc (scKey p 0 c)).en && decide ((d.msc (scKey p 0 c)).sci.toNat = sci))

/-- The lowest acceptable PN of a receive SA. -/
def Dev.lowestPn (d : Dev) (p : Nat) (x : MsecSa) : Nat := x.pn.toNat - (d.rd .msecReplayWin p).toNat

/-- The PN of a frame: for XPN its high half is recovered from the lowest acceptable PN. -/
def fullPn (x : MsecSa) (low pn : Nat) : Nat :=
  if x.xpn then
    (low / 2 ^ 32 + (if 2 ^ 31 ≤ low % 2 ^ 32 ∧ pn < 2 ^ 31 then 1 else 0)) * 2 ^ 32 + pn
  else pn

/-- What the SecY does with a received frame: the counter that moves, if one does, and the frame delivered with its ingress
status word. -/
structure SecRx where
  ctr : Option CtrKind
  out : Option (Bytes × Nat)

/-- Check the frame of a SecTAG against an SA: the plaintext, and whether the ICV holds. CONF_OFS of the receive SC is the confidentiality
offset on receive too, though the table gives it for transmit (DESIGN CHOICE, notes/assumptions/56.md). -/
def MsecSa.open_ (x : MsecSa) (c : MsecSc) (t : SecTag) (sci pn : Nat) (bs : Bytes) : Bytes × Bool :=
  let n := t.dataLen bs
  let body := (bs.drop (12 + t.len)).take n
  let icv := (bs.drop (12 + t.len + n)).take 16
  let ofs := if t.e then c.confOfs else n
  let aad := bs.take (12 + t.len) ++ body.take ofs
  let (pt, tag) := gcmOpen x.keyBytes (x.iv (BitVec.ofNat 64 sci) pn) aad (body.drop ofs)
  (body.take ofs ++ pt, tag == icv)

/-- The outcome of a received frame on port `p` (R168, R169, R170), and the device with the SA's next PN advanced. Of two counters of a row
the second is the one of the Check mode, for a frame discarded with E = 1 too; and the receive SC field of a frame delivered with no SC is 0
(DESIGN CHOICE, notes/assumptions/56.md). -/
def Dev.macsecRx (d : Dev) (p : Nat) (bs : Bytes) : SecRx × Dev :=
  let mode := d.fld .msecPortCtrl p 0 1 0
  let strict := mode == 2
  if mode = 0 then (⟨none, some (bs, 0)⟩, d)
  else if half bs 12 ≠ 0x88E5 then
    if d.bypassType p (innerType bs) then (⟨some .msecRxBypass, some (bs, 0x2000)⟩, d)
    else if strict then (⟨some .msecRxNotag, none⟩, d)
    else (⟨some .msecRxUntagged, some (bs, 0x1000)⟩, d)
  else
    let t := secTag bs
    let sci := t.sci.getD (beNat ((bs.drop 6).take 6) * 65536 + 1)
    let sc := d.rxSc p sci
    let k := scKey p 0 (sc.getD 0)
    let x := d.msa k t.an
    let st := (if t.e then 0x4000 else 0) + t.an * 1024 + sc.getD 0 * 32
    let raw := bs.take 12 ++ (bs.drop (12 + t.len)).take (t.dataLen bs)
    let unverified := fun (s c : CtrKind) =>
      if strict then (⟨some s, none⟩ : SecRx) else if t.e then ⟨some c, none⟩ else ⟨some c, some (raw, st)⟩
    if t.bad bs (sc.isSome && x.en && x.xpn) then (⟨some .msecRxBadtag, none⟩, d)
    else if sc.isNone then (unverified .msecRxNosci .msecRxUnknownsci, d)
    else if !x.en then (unverified .msecRxNotusingsa .msecRxUnusedsa, d)
    else
      let low := d.lowestPn p x
      let pn := fullPn x low t.pn
      if d.bit .msecPortCtrl p 0 2 ∧ pn < low then (⟨some .msecRxLate, none⟩, d)
      else
        let (pt, ok) := x.open_ (d.msc k) t sci pn bs
        if !ok then (unverified .msecRxNotvalid .msecRxInvalid, d)
        else
          (⟨some .msecRxOk, some (bs.take 12 ++ pt, 0x8000 + st)⟩,
            if x.pn.toNat ≤ pn then d.setMsa k t.an { x with pn := BitVec.ofNat 64 (pn + 1) } else d)

/-! ### Reception (R159–R162, R264, R266) -/

/-- A frame joins the queue of its source. -/
def Dev.pushRx (d : Dev) (e : RxEntry) : Dev :=
  { d with prt := { d.prt with rxq := d.prt.rxq.upd [] e.src (· ++ [e]) } }

/-- The ingress priority of a frame of port `p` (R264). -/
def Dev.ingressPrio (d : Dev) (p : Nat) (bs : Bytes) : Nat :=
  if vlanTagged bs then byteAt bs 14 / 32 else d.fld .bpmLlCfg p 0 2 0

/-- A frame that has passed station 1 takes a buffer, if one is found, and waits for its mill (R8, R9, R257). -/
def Dev.storeRx (d : Dev) (p : Nat) (bs : Bytes) (status : W16) (fifo : Nat) (ts : W64) (meta3 : W16) : Dev :=
  let prio := d.ingressPrio p bs
  let lossless := d.bit .bpmLlCfg p 0 (8 + prio)
  let e : RxEntry := { bytes := bs.map (fun b => (b, false)), src := p, fifo := fifo, since := d.time.tick, ts := ts, status := status,
                       meta3 := meta3, meta4 := 0, meta5 := 0, buf := none }
  match d.allocLen bs.length (!lossless) (if lossless then some p else none) with
  | (⟨some (n, i, g), _⟩, d1) =>
    let d2 := d1.writeHead n i g bs.length p (status.getLsbD 15) (ts.truncate 32)
    (d2.storeBytes (d2.bufAddr n i + 16 + d2.poolPad n) e.bytes).pushRx { e with buf := some (n, i, g) }
  | (⟨none, _⟩, d1) =>
    let d2 := d1.count .bpmNobufPort p
    let d3 := if lossless then (d2.count .bpmLlDrop).log4 1 10 0x0D 0 (w16 p) (w16 prio) 0 else d2
    d3.pushRx e

/-- The last bytes of a fragment that is not the final one: the FCS of the frame up to there with its last 16 bits inverted (PRESUMED:
IEEE 802.3br, notes/assumptions/50.md). -/
def mcrc (bs : Bytes) : Bytes := xorBytes (fcs bs) [0, 0, 0xFF, 0xFF]

/-- The SMD values that start a frame of count 0–3, those that continue it, and the fragment counts 0–3 (PRESUMED: IEEE 802.3br). -/
def smdStart : List W8 := [0xE6, 0x4C, 0x7F, 0xB3]
def smdContinue : List W8 := [0x61, 0x52, 0x9E, 0x2A]

/-- Reassemble the fragments of one preemptable frame (R164): `k` is the number of the next one, `got` the frame so far. Each continues the
frame with the right SMD and the next fragment count, and each but the last ends with the right mCRC. -/
def reassemble (smd : W8) (k : Nat) (got bytes : Bytes) : List Frag → Option Bytes
  | [] => none
  | f :: r =>
    let now := bytes.take f.len
    let all := got ++ now
    let data := all.take (all.length - 4)
    let right := f.smd == smd && (k == 0 || f.count == smdStart.getD ((k - 1) % 4) 0) && decide (now.length = f.len ∧ 4 ≤ f.len)
    let more := mcrc data == all.drop (all.length - 4)
    match r with
    | [] => if right && !more && decide (bytes.length = f.len) then some all else none
    | _ => if right && more then
        reassemble (if k = 0 then smdContinue.getD (smdStart.idxOf smd) 0 else smd) (k + 1) data (bytes.drop f.len) r
      else none

/-- The frame that arrives: an express frame as it is, a preemptable one reassembled, if its fragments fit. -/
def arrived (x : RxInfo) (bytes : Bytes) : Option Bytes :=
  match x.frags with
  | [] => some bytes
  | f :: _ => if smdStart.contains f.smd then reassemble f.smd 0 [] bytes x.frags else none

/-- A whole frame of port `p` is checked (R159), consumed when it is a MAC control frame (R163), passes MACsec (R169) and takes its
buffer (R8). One that meets several conditions of R159 counts for the first of runt, oversize, FCS and PCS (DESIGN CHOICE,
notes/assumptions/56.md). -/
def Dev.portFrame (d : Dev) (p : Nat) (bytes : Bytes) (x : RxInfo) : Dev :=
    let n := bytes.length
    let maxlen := d.fld .prtRxctrl p 0 13 0
    let bs := bytes.take (n - 4)
    if n < 64 then d.count .prtRxRunt p
    else if maxlen < n then d.count .prtRxOversize p
    else if fcs bs ≠ bytes.drop (n - 4) then d.count .prtRxFcsErr p
    else if x.pcsErr then d.count .prtRxPcsErr p
    else
      let d1 := (d.count .prtRxFrames p).count .prtRxBytes p 0 n
      if half bs 12 = 0x8808 then
        let vec := (byteAt bs 17 : Nat)
        if half bs 14 = 1 then d1.macControl p 1 0 [w16 (half bs 16)]
        else d1.macControl p (half bs 14) (BitVec.ofNat 8 vec) ((List.range 8).map (fun k => w16 (half bs (18 + 2 * k))))
      else
        let adj := (d1.rd .prtTsAdj p).truncate 16
        let ts := d1.timeAgo x.ago.toNat + BitVec.signExtend 64 (adj : W16)
        let (r, d2) := d1.macsecRx p bs
        let d3 := match r.ctr with
          | some c => d2.count c p
          | none => d2
        match r.out with
        | some (out, st) => d3.storeRx p out (w16 st) n ts (if x.frags = [] then 0 else 1)
        | none => d3

/-- The frame was being received when a write changed the port's mode and took LINK down (R158): it began before the write, and LINK is still
held at 0. -/
def Dev.cutByMode (d : Dev) (p : Nat) (x : RxInfo) : Bool :=
  decide (d.time.tick < d.prt.cut.get 0 p) && decide (d.firstByte x.ago + usTicks 10 ≤ d.prt.cut.get 0 p)

/-- `PORT_RX_FRAME`: with LINK 0 the port receives nothing (R165), and only the frame that a mode change cut short counts, as RX_ABORT
(R158). Any other finds room (R160) and is reassembled when it came in fragments (R164), for which PREEMPT_EN must be 1. -/
def execPortRxFrame (p : Fin 32) (bytes : Bytes) (x : RxInfo) (s : State) : Host.Outcome State Fault Refusal :=
  s.onDev (fun d =>
    if !d.portLink p then
      if x.pcsErr && d.domOn (domPortq (p / 4)) && d.cutByMode p x then d.count .prtRxAbort p else d
    else if x.frags ≠ [] ∧ !d.bit .prtRxctrl p 0 18 then d
    else
      let d1 := if x.frags = [] ∧ d.bit .prtRxctrl p 0 18 then d else d.forgetLeft p (d.firstByte x.ago)
      if d1.noRoom p (d.firstByte x.ago) then d1.count .prtRxOverrun p
      else match arrived x bytes with
        | some whole => d1.portFrame p whole x
        | none => d1.count .prtRxFragErr p)

/-! ### Egress (R171, R172) -/

/-- What egress MACsec does with a frame: the bytes that the MAC sends, or none; and whether poison must invert an ICV. -/
inductive SecTx where
  | clear
  | sealed (bs : Bytes)
  | tooLong
  | exhausted
deriving DecidableEq, Repr

/-- The frame of class `c` on port `p` leaves in clear (R168, R171). -/
def Dev.txClear (d : Dev) (p c : Nat) (bs : Bytes) : Bool :=
  d.fld .msecPortCtrl p 0 1 0 == 0 || d.bypassType p (innerType bs) || !d.bit .msecTxmap p 0 (4 * c + 3)

/-- Protect a frame of class `c` on port `p` with its SC's encoding SA; with `poisoned` the ICV is inverted. A frame mapped to an SC or SA that
is not enabled is discarded and counted as for an exhausted one, and a frame that reaches the threshold and spends the last PN raises two
events, that of the threshold first (DESIGN CHOICE, notes/assumptions/56.md). -/
def Dev.macsecTx (d : Dev) (p c : Nat) (bs : Bytes) (poisoned : Bool) : SecTx × Dev :=
  if d.txClear p c bs then (.clear, d)
  else
    let sc := d.fld .msecTxmap p 0 (4 * c + 2) (4 * c)
    let k := scKey p 1 sc
    let y := d.msc k
    let an := bits y.ctrl 2 1
    let x := d.msa k an
    let incl := y.ctrl.getLsbD 3
    let e := y.ctrl.getLsbD 4
    let body := bs.drop 12
    if d.fld .prtRxctrl p 0 13 0 < bs.length + (if incl then 16 else 8) + 16 + 4 then (.tooLong, d.count .msecTxToolong p)
    else if !y.en ∨ !x.en ∨ x.pnUsedUp ∨ (!x.xpn ∧ 2 ^ 32 ≤ x.pn.toNat) then (.exhausted, d.count .msecTxPnExhausted p)
    else
      let pn := x.pn.toNat
      let tci := (if incl then 32 else 64) + (if e then 12 else 0) + an
      let tag := [0x88, 0xE5, BitVec.ofNat 8 tci, BitVec.ofNat 8 (if body.length < 48 then body.length else 0)]
        ++ toBe 4 pn ++ (if incl then toBe 8 y.sci.toNat else [])
      let ofs := if e then y.confOfs else body.length
      let (ct, icv) := gcmSeal x.keyBytes (x.iv y.sci pn) (bs.take 12 ++ tag ++ body.take ofs) (body.drop ofs)
      let icv1 := if poisoned then icv.map (fun b => ~~~b) else icv
      let last := decide (pn = if x.xpn then 2 ^ 64 - 1 else 2 ^ 32 - 1)
      let thr := !x.threshTold && decide ((d.rd64 .msecPnThreshHi .msecPnThreshLo).toNat ≤ pn)
      let d1 := (d.setMsa k an { x with pn := x.pn + 1, pnUsedUp := last, threshTold := x.threshTold || thr }).count
        (if e then .msecTxEncrypted else .msecTxProtected) p
      let d2 := if thr then d1.raiseEvent (32 + p) (w16 (64 + sc * 4 + an)) else d1
      let d3 := if last then d2.raiseEvent (32 + p) (w16 (128 + sc * 4 + an)) else d2
      (.sealed (bs.take 12 ++ tag ++ body.take ofs ++ ct ++ icv1), d3)

end Sys2Proof.Machine
end

