-- ==== Sys2Proof/Machine/TaskOps.lean ====
section
/-!
DEFINITION. The task instructions (R82–R84, R135, R144, R145, R147), the buffer instructions (R85), and the dispatcher's and
release unit's own events (R13, R137–R143, R153, R156).
-/
namespace Sys2Proof.Machine

/-! ### Taking a task (R82, R138, R141) -/

/-- A task's record as the dispatcher writes it, and its ticket word while it holds one. -/
def Dev.ticketWord (d : Dev) (t : Task) : Word :=
  match t.ticket with
  | some n => d.tktWord n
  | none => Word.zero

/-- Thread `g` takes the task staged for it: CTX, the ticket into wA, the flow table, the watchdog. -/
def Dev.takeTask (d : Dev) (g a s : Nat) : Dev :=
  match d.task s with
  | none => d
  | some t =>
    let (h, l) := d.taskHandle s
    let d1 := d.setTask s (some { t with loc := .held g })
    let d2 := if t.kind = 4 then
        let n := (t.word 1).v.toNat % 256
        { d1 with dsp := { d1.dsp with
          evts := d1.dsp.evts.upd ⟨0, 0, none⟩ n (fun e =>
            if e.slot = some s then { e with slot := none } else e) } }
      else d1
    let d3 := if t.flowValid then
        { d2 with dsp := { d2.dsp with flow := d2.dsp.flow.set 0 t.flow (engineOf g + 1) } } else d2
    let d4 := d3.updThr g (fun x => { x.set a (d.ticketWord t) with ctxH := h, ctxL := l, wdog := 0, wdDue := false })
    (d4.setOpen g false).tallyTask 0 s { t with loc := .held g } t.aff

/-- The tag fault of an instruction whose CTX is wrong for it: its operand has no register; CTX stands in the detail. -/
def ctxFault (t : Thread) : FaultInfo := operandFault 1 0 t.ctxH.v t.ctxL.v

/-- The body of `TAKE wA`; `poll` is P. -/
def takeBody (g a : Nat) (poll : Bool) (d : Dev) : IRes :=
  let t := d.thr g
  if t.task.isSome then .fault (ctxFault t)
  else match d.stagedFor g with
    | some s =>
      let d1 := d.takeTask g a s
      .done (if poll then d1.updThr g (fun t => { t with fl := flagsZ false }) else d1)
    | none =>
      let d1 := d.setOpen g true
      if poll then .done (d1.updThr g (fun t => { t with fl := flagsZ true })) else .block d1 7 (.take a)

def execTake (g : Thr) (a : Reg) (s : State) : Host.Outcome State Fault Refusal :=
  s.onDev (·.issue g 0 false false (takeBody g a false))
def execTakePoll (g : Thr) (a : Reg) (s : State) : Host.Outcome State Fault Refusal :=
  s.onDev (·.issue g 0 false false (takeBody g a true))

/-- `BLOCKED_TAKE_COMPLETE`: a thread blocked in `TAKE` takes the task staged for it. -/
def execBlockedTakeComplete (g : Thr) (s : State) : Host.Outcome State Fault Refusal :=
  s.onDev (fun d =>
    match (d.thr g).wait, d.stagedFor g with
    | .take a, some sl => if (d.thr g).st = .blocked then ((d.takeTask g a sl).makeReady g).finish g else d
    | _, _ => d)

/-! ### Ending a task (R83, R135, R136) -/

/-- CTX becomes two PLAIN zero words and Z is set or cleared. -/
def Dev.endHold (d : Dev) (g : Nat) (z : Bool) : Dev :=
  d.updThr g (fun t => { t with ctxH := Word.zero, ctxL := Word.zero, fl := flagsZ z })

/-- The first of some faults in the order of R28; among equals the one listed first. -/
def firstFault (l : List FaultInfo) : Option FaultInfo :=
  l.foldl (fun b f => match b with
    | none => some f
    | some x => if f.cause < x.cause then some f else b) none

/-- The faults of a ticket operand wA against the ticket that a task holds (R83, R152). -/
def ticketFaults (w : Word) (a : Nat) (cur : Word) : List FaultInfo :=
  if w.tag ≠ .ticket then [operandFault 1 a 0 w.v]
  else if w = cur then [] else [operandFault 5 a 0 w.v]

/-- Verdict word A with its queue word breaks a rule of R136 or the layout of word 8. -/
def verdictBad (a q : W16) : Bool :=
  let c := a.toNat / 8192
  let low := a.toNat % 1024
  decide (4 ≤ c) || decide (a.toNat / 1024 % 8 ≠ 0) ||
  (if c = 2 then false else if c = 3 then decide (32 ≤ low) else decide (low ≠ 0)) || decide (16384 ≤ q.toNat)

/-- What the task-area words 2–3 and 7–10 come to: the faults of R135, or the frame to release, or none. -/
def Dev.areaFrame (d : Dev) (ws : List Word) : List FaultInfo ⊕ Option RelFrame :=
  let w := fun k => ws.getD k Word.zero
  if w 2 = Word.zero ∧ w 3 = Word.zero then .inr none
  else
    let f1 := match handleOf (w 2) (w 3) with
      | none => [operandFault 1 17 (w 2).v (w 3).v]
      | some (k, g, i) =>
        if 8 ≤ k then [operandFault 1 17 (w 2).v (w 3).v]
        else if d.bufCurrent k g i then [] else [operandFault 5 17 (w 2).v (w 3).v]
    let f2 := ([7, 8, 9, 10] : List Nat).filterMap (fun k => addrOperand (w k) 17)
    let f3 := if verdictBad (w 7).v (w 8).v then [busFault 7] else []
    match f1 ++ f2 ++ f3 with
    | [] => .inr (some (frameOf (w 2) (w 3) (w 7) (w 8) (w 9) (w 10)))
    | l => .inl l

/-- Release or drop what a task's verdict words ask for, and end the task (R83, R135, R150). -/
def Dev.endWith (d : Dev) (g s : Nat) (f : Option RelFrame) : Dev :=
  let d1 := match f with
    | none => d.skipTask s
    | some f =>
      if f.a.toNat / 8192 = 0 then (d.skipTask s).freeHandle f.hH f.hL
      else d.releaseTask s f
  (d1.endTask s).endHold g false

/-- `DONE` and `TKREL`: the words of the task area decide; `tkt` is the ticket operand that `TKREL` checks. -/
def endBody (g : Nat) (tkt : Option Nat) (d : Dev) : IRes :=
  let th := d.thr g
  match th.task with
  | none => .fault (ctxFault th)
  | some s =>
    match d.task s with
    | none => .fault (ctxFault th)
    | some t =>
      if t.overtaken ∨ t.cancelled then .done ((d.endTask s).endHold g true)
      else
        let f0 := match tkt with
          | none => []
          | some a => ticketFaults (th.get a) a (d.ticketWord t)
        let (ws, d1) := d.readWords (taskArea g * 2) 11
        match d1.areaFrame ws, f0 with
        | .inl l, _ => .faultAt d1 ((firstFault (f0 ++ l)).getD (ctxFault th))
        | .inr _, x :: _ => .faultAt d1 x
        | .inr f, [] => .done (d1.endWith g s f)

/-- `DONE` and `TKREL` drain first: the words they check are read after the drain (R135). -/
def Dev.releaseLate (d : Dev) (g : Nat) (i : Instr) (body : Dev → IRes) : IRes :=
  let e := engineOf g
  if d.drained e (d.engn e).wbIn then body d
  else .ended (d.updThr g (fun t => { t with wait := .drain i (d.engn e).wbIn }))

def execDone (g : Thr) (s : State) : Host.Outcome State Fault Refusal :=
  s.onDev (·.issue g 0 true false (fun d => d.releaseLate g (.done g) (endBody g none)))
def execTkrel (g : Thr) (a : Reg) (s : State) : Host.Outcome State Fault Refusal :=
  s.onDev (·.issue g 0 true false (fun d => d.releaseLate g (.tkrel g a) (endBody g (some a))))

/-- `TKSKIP wA`: the ticket is skipped and the thread keeps its task. -/
def execTkskip (g : Thr) (a : Reg) (s : State) : Host.Outcome State Fault Refusal :=
  s.onDev (·.issue g 0 true false (fun d =>
    let th := d.thr g
    match th.task with
    | none => .fault (ctxFault th)
    | some sl =>
      match d.task sl with
      | none => .fault (ctxFault th)
      | some t =>
        if t.overtaken ∨ t.cancelled then .done ((d.endTask sl).endHold g true)
        else match ticketFaults (th.get a) a (d.ticketWord t) with
          | x :: _ => .fault x
          | [] => .done ((d.skipTask sl).updThr g (fun t => { t with fl := flagsZ false }))))

/-- The body of `DEFER wA` (R83, R144). -/
def deferBody (g a : Nat) (d : Dev) : IRes :=
  let th := d.thr g
  match th.task with
  | none => .fault (ctxFault th)
  | some s =>
    match d.task s with
    | none => .fault (ctxFault th)
    | some t =>
      if t.overtaken ∨ t.cancelled then .done ((d.endTask s).endHold g true)
      else match addrOperand (th.get a) a with
        | some x => .fault x
        | none =>
          let h := hearthOf g
          let n := (th.get a).v.toNat
          let d1 := if n = 0 then d.placeReady s else d.placeDelay s (d.fld .dspHearth h 0 5 0) n
          .done ((d1.endHold g false).tallyTask 7 s t false)

def execDefer (g : Thr) (a : Reg) (s : State) : Host.Outcome State Fault Refusal :=
  s.onDev (·.issue g 0 true false (fun d => d.release g (.defer g a) (deferBody g a)))

/-! ### POST and CANCEL (R84, R145, R147) -/

/-- The pairs at some physical addresses, as hearth `h` reads them for engine `e`. -/
def Dev.loadPairs (d : Dev) (h e : Nat) : List (Nat × Nat × Attr) → List Word × Dev
  | [] => ([], d)
  | (_, pa, attr) :: r =>
    let (_, ws, d1) := d.hearthLoad h (some e) pa 2 attr
    let (rest, d2) := d1.loadPairs h e r
    (ws ++ rest, d2)

/-- The body of `POST pA`: a record in a region that is being filled waits (R287), with its pairs translated (`done`, R298). -/
def postBody (g : Nat) (a : PairN) (i : Instr) (done : List (Nat × Attr)) (d : Dev) : IRes :=
  let t := d.thr g
  let h := hearthOf g
  let va := t.va a 0
  match t.baseFault a with
  | some x => .fault x
  | none =>
    if va % 4 ≠ 0 then .fault (addrFault 3 0 false (d.ctxOf h) va)
    else match (if done = [] then d.spanPairs h va false 8 else
        .inr (((List.range 8).zip done).map (fun x => (va / 2 ^ 32 * 2 ^ 32 + (va + 4 * x.1) % 2 ^ 32, x.2.1, x.2.2)))) with
      | .inl (.inl x) => .fault x
      | .inl (.inr v) => d.startWalk g i v
      | .inr l =>
        match d.spanFault h l with
        | some x => .fault x
        | none =>
        if l.any (fun p => d.filling p.2.1) then .block d 1 (.retry i (l.map Prod.snd)) else
          let (ws, d1) := d.loadPairs h (engineOf g) l
          match d1.postTask ws (some h) (w16 (0x8000 + g)) with
          | (.inl s, d2) =>
            let (hh, hl) := d2.taskHandle s
            .block d2 1 (.resp ⟨[(2 * a, hh), (2 * a + 1, hl)], some (flagsZ false), none⟩)
          | (.inr _, d2) => .block d2 1 (.resp ⟨[], some (flagsZ true), none⟩)

def execPost (g : Thr) (a : PairN) (s : State) : Host.Outcome State Fault Refusal :=
  s.onDev (·.issue g 0 true false (postBody g a (.post g a) []))

/-- `CANCEL pA`. -/
def execCancel (g : Thr) (a : PairN) (s : State) : Host.Outcome State Fault Refusal :=
  s.onDev (·.issue g 0 true false (fun d =>
    let (h, l) := (d.thr g).pair a
    match handleOf h l with
    | some (12, gen, idx) =>
      let (code, d1) := if gen = d.slotGen idx ∧ idx < 16384 then d.cancelTask idx else (3, d)
      .block d1 1 (.resp ⟨[(2 * a.val, Word.zero), (2 * a.val + 1, Word.plain (w16 code))], none, none⟩)
    | _ => .fault (operandFault 1 (2 * a) h.v l.v)))

/-! ### Buffers (R85) -/

/-- A buffer just allocated for a thread: its head is written (R258). -/
def Dev.freshHead (d : Dev) (n i gen : Nat) : Dev :=
  d.writeHead n i gen 0 0 false 0

/-- The body of `BALLOC pA`; `byPool` is X. -/
def ballocBody (g : Nat) (a : PairN) (byPool : Bool) (d : Dev) : IRes :=
  let w := (d.thr g).get (2 * a + 1)
  match addrOperand w (2 * a + 1) with
  | some x => .fault x
  | none =>
    let v := w.v.toNat
    let fail := fun (d : Dev) => IRes.block d 1
      (.resp ⟨[(2 * a.val, Word.zero), (2 * a.val + 1, Word.zero)], some (flagsZ true), none⟩)
    let ok := fun (n i gen : Nat) (d : Dev) =>
      let (hh, hl) := mkHandle n gen i
      IRes.block (d.freshHead n i gen) 1
        (.resp ⟨[(2 * a.val, hh), (2 * a.val + 1, hl)], some (flagsZ false), none⟩)
    if byPool then
      if 8 ≤ v then fail d
      else match d.allocIn true none [v] with
        | some ((n, i, gen), d1) => ok n i gen d1
        | none => fail (d.count .bpmNobuf v)
    else match d.allocLen v true none with
      | (⟨some (n, i, gen), _⟩, d1) => ok n i gen d1
      | (⟨none, _⟩, d1) => fail d1

def execBallocLength (g : Thr) (a : PairN) (s : State) : Host.Outcome State Fault Refusal :=
  s.onDev (·.issue g 0 true false (ballocBody g a false))
def execBallocPool (g : Thr) (a : PairN) (s : State) : Host.Outcome State Fault Refusal :=
  s.onDev (·.issue g 0 true false (ballocBody g a true))

/-- The buffer that a pair names, or its tag or stale-handle fault (R33, R34). -/
def Dev.bufOperand (d : Dev) (g a : Nat) : FaultInfo ⊕ (Nat × Nat) :=
  let (h, l) := (d.thr g).pair a
  match handleOf h l with
  | some (k, gen, i) =>
    if 8 ≤ k then .inl (operandFault 1 (2 * a) h.v l.v)
    else if d.bufCurrent k gen i then .inr (k, i) else .inl (operandFault 5 (2 * a) h.v l.v)
  | none => .inl (operandFault 1 (2 * a) h.v l.v)

def execBfree (g : Thr) (a : PairN) (s : State) : Host.Outcome State Fault Refusal :=
  s.onDev (·.issue g 0 true false (fun d =>
    match d.bufOperand g a with
    | .inl x => .fault x
    | .inr (k, i) => .done (d.freeBuf k i)))

/-- A copy is asked for (R262, R263): it starts when fewer than 32 are in flight and none waits before it, else it waits. The
result is none while it waits. -/
def Dev.requestCopy (d : Dev) (who : CopyFor) (pool idx : Nat) : Nat × Option CopyStart × Dev :=
  let id := d.bpm.nextJob
  let q : CopyReq := ⟨id, who, pool, idx⟩
  let d1 := { d with bpm := { d.bpm with nextJob := id + 1 } }
  if d.bpm.copies.length < 32 ∧ d.bpm.copyWait.all d.copyHeld ∧ !d.copyHeld q then
    let (r, d2) := d1.startCopy q
    (id, some r, d2)
  else (id, none, { d1 with bpm := { d1.bpm with copyWait := d1.bpm.copyWait ++ [q] } })

/-- `BCOPY pB, pA`: the thread waits for the whole copy, or for the answer that there is none. -/
def execBcopy (g : Thr) (b a : PairN) (s : State) : Host.Outcome State Fault Refusal :=
  s.onDev (·.issue g 0 true false (fun d =>
    if a = b then .emu else
    match d.bufOperand g a with
    | .inl x => .fault x
    | .inr (k, i) =>
      match d.requestCopy (.thread g b) k i with
      | (_, some .badHead, d1) => .block d1 1 (.resp ⟨[], some (flagsZ true), none⟩)
      | (_, some .noBuf, d1) => .block d1 1 (.resp ⟨[], some (flagsZ true), none⟩)
      | (_, some .noReach, d1) => .block d1 1 (.resp ⟨[], some (flagsZ true), none⟩)
      | (id, _, d1) => .block d1 1 (.copy b id)))

/-! ### The dispatcher's events (R138–R143) -/

/-- An open thread of hearth `h` without a staged task, by engine. -/
def Dev.freeOpen (d : Dev) (h : Nat) : List Nat :=
  d.dsp.open_.filter (fun g => hearthOf g == h && (d.stagedFor g).isNone)

/-- The least of some numbers. -/
def least (l : List Nat) : Option Nat := l.foldl (fun b x => match b with | none => some x | some y => some (min x y)) none

/-- The word address of a slot's entry in the window store (R134). -/
def Dev.winAddr (d : Dev) (s : Nat) : Nat := d.fld .dspWinBase 0 0 24 22 * 0x400000 + s * 256

/-- The dispatcher writes a task's record, and a packet task's window, into a thread's task area (R134). -/
def Dev.writeArea (d : Dev) (g s : Nat) (t : Task) : Dev :=
  let d1 := d.poke (taskArea g) t.words
  if t.kind = 1 then
    let (ws, d2) := d1.readWords (d1.winAddr s) 128
    d2.poke (taskArea g + 32) ws
  else d1

/-- Stage task `s` of hearth `h`'s list of class `c` for thread `g`. -/
def Dev.stageTask (d : Dev) (h c s g : Nat) (aff : Bool) : Dev :=
  match d.task s with
  | none => d
  | some t =>
    let d1 := d.setReady h c ((d.readyList h c).erase s)
    let d2 := d1.setTask s (some { t with loc := .staged g, stagedAt := d.time.tick, aff := aff })
    let d3 := d2.writeArea g s t
    if aff then d3.count .dspAffHits else d3

/-- Where R139 offers a task of hearth `h`: the thread, and whether it is of the affine engine, as its placement read it. -/
def Dev.offerFor (d : Dev) (h : Nat) (t : Task) : Option (Nat × Bool) :=
  let free := d.freeOpen h
  let e := match t.home with
    | some e => if e / 16 = h then some e else none
    | none => none
  let mine := match e with
    | some e => least (free.filter (fun g => engineOf g == e))
    | none => none
  match mine with
  | some g => some (g, true)
  | none =>
    if e = none ∨ d.fld .dspCtrl 0 0 15 8 ≤ (d.time.tick - t.since) * 12 then
      let load := fun (x : Nat) => (free.filter (fun g => engineOf g == x)).length
      let best := (hearthEngines h).foldl (fun b x => if load b < load x then x else b) (h * 16)
      (least (free.filter (fun g => engineOf g == best))).map (fun g => (g, false))
    else none

/-- The offer of R139 in the given order of candidates (class, slot). -/
def Dev.offerFirst (d : Dev) (h : Nat) : List (Nat × Nat) → Dev
  | [] => d
  | (c, s) :: r =>
    match d.task s with
    | none => d.offerFirst h r
    | some t =>
      match d.offerFor h t with
      | some (g, aff) => d.stageTask h c s g aff
      | none => d.offerFirst h r

/-- `OFFER_TASK` (R139): one offer for hearth `h`, class 7 first, among the four oldest tasks of each class. -/
def execOfferTask (h : Fin 16) (s : State) : Host.Outcome State Fault Refusal :=
  s.onDev (fun d => d.offerFirst h
    (([7, 6, 5, 4, 3, 2, 1, 0] : List Nat).flatMap (fun c => ((d.readyList h c).take 4).map (fun x => (c, x)))))

/-- `OFFER_WITHDRAWN` (R138). -/
def execOfferWithdrawn (g : Thr) (s : State) : Host.Outcome State Fault Refusal :=
  s.onDev (fun d =>
    match d.stagedFor g with
    | none => d
    | some sl =>
      match d.task sl with
      | none => d
      | some t =>
        if d.fld .dspLimits 0 0 31 16 ≤ (d.time.tick - t.stagedAt) * 12 then d.withdraw g true else d)

/-- Hearth `h` is idle (R140). -/
def Dev.isIdle (d : Dev) (h : Nat) : Bool := decide (d.freeOpen h ≠ []) && decide (d.readyCount h = 0)
/-- Hearth `h` has ready tasks and nobody to offer them to. -/
def Dev.wanting (d : Dev) (h : Nat) : Bool := decide (d.freeOpen h = []) && decide (0 < d.readyCount h)

/-- `TASK_MOVE` (R140): the first task of a starved hearth whose set holds an idle hearth moves there. -/
def execTaskMove (h : Fin 16) (s : State) : Host.Outcome State Fault Refusal :=
  s.onDev (fun d =>
    let since := d.dsp.starved.get 0 h
    if !d.bit .dspCtrl 0 0 2 ∨ !d.wanting h ∨ since = 0 ∨
        (d.time.tick - (since - 1)) * 12 < d.fld .dspCtrl 0 0 23 16 then d
    else
      let tasks := ([7, 6, 5, 4, 3, 2, 1, 0] : List Nat).flatMap (fun c => (d.readyList h c).map (fun x => (c, x)))
      let last := d.dsp.lastMoved.get 0 h
      let target := fun (t : Task) =>
        ((List.range 16).map (fun k => (last + k) % 16)).find? (fun x => t.set.getLsbD x && d.isIdle x)
      match tasks.findSome? (fun cs => match d.task cs.2 with
          | some t => (target t).map (fun x => (cs.1, cs.2, t, x))
          | none => none) with
      | none => d
      | some (c, sl, t, x) =>
        let d1 := (d.setReady h c ((d.readyList h c).erase sl)).setTask sl (some { t with loc := .ready x })
        let d2 := (d1.setReady x c (d1.readyList x c ++ [sl])).stir x
        let d3 := { d2 with dsp := { d2.dsp with lastMoved := d2.dsp.lastMoved.set 0 h (x + 1) } }
        (d3.count .dspMoves).tallyTask 2 sl { t with loc := .ready x } false)

/-- `DELAY_EXPIRY` (R143): the first task of a delay list, once due, becomes ready. -/
def execDelayExpiry (l : Fin 64) (s : State) : Host.Outcome State Fault Refusal :=
  s.onDev (fun d =>
    match d.dsp.delay.get [] l with
    | [] => d
    | x :: r =>
      if d.time.ns.toNat < d.expiryOf x then d
      else
        let d1 := { d with dsp := { d.dsp with delay := d.dsp.delay.set [] l r } }
        match d.task x with
        | some t => (d1.placeReady x).tallyTask 8 x t false
        | none => d1)

/-- A write of `DSP.DLIST[l].TICK`: the new tick takes over at the next boundary of the old (R143). -/
def Dev.setTick (d : Dev) (l n : Nat) : Dev :=
  let t := d.tickOf l
  let b := (d.time.ns.toNat / (t * 10) + 1) * (t * 10)
  { d with dsp := { d.dsp with tick := d.dsp.tick.set 100 l t,
                               tickNext := d.dsp.tickNext.set none l (some (BitVec.ofNat 64 b, n)) } }

/-- A write of `DSP.FLOW_CMD` (R141): CLR_ALL before CLR_HEARTH before INVAL; ignored and logged while a clear runs. -/
def Dev.flowCmd (d : Dev) (r : Req) (v : W32) : Dev :=
  let start := fun (x : Option Nat) =>
    ({ d with dsp := { d.dsp with flowClear := some x } }).setBit .dspFlowCmd 0 0 31 true
  if bits v 2 0 = 0 then d
  else if d.dsp.flowClear.isSome then d.reject r (RegKind.off .dspFlowCmd 0 0)
  else if v.getLsbD 1 then start none
  else if v.getLsbD 2 then start (some (bits v 11 8))
  else { d with dsp := { d.dsp with flow := d.dsp.flow.set 0 (d.fld .dspFlowSel 0 0 15 0) 0 } }

/-- `FLOW_CLEAR_DONE` (R141). -/
def execFlowClearDone (s : State) : Host.Outcome State Fault Refusal :=
  s.onDev (fun d =>
    match d.dsp.flowClear with
    | none => d
    | some x =>
      let keep := fun (_ e : Nat) => match x with
        | none => false
        | some h => decide ((e - 1) / 16 ≠ h)
      ({ d with dsp := { d.dsp with flow := d.dsp.flow.filter keep, flowClear := none } }).setBit .dspFlowCmd 0 0 31 false)

/-- Why a mill forms no task now (R132, R149, R154): 1 no slot, 2 no ticket, 3 no deadline entry. A lack of tickets or of deadline entries
stops a mill whose oldest admitted frame needs one, and no other (DESIGN CHOICE, notes/assumptions/42.md). -/
def Dev.formStop (d : Dev) (b : Banked) : List Nat :=
  (if d.packetRoom then [] else [1]) ++
  (if b.dom.isSome ∧ d.tktFree = 0 then [2] else []) ++
  (if b.deadline ∧ 8192 ≤ d.rel.deadlines then [3] else [])

def Dev.mill (d : Dev) (m : Nat) : Mill := d.mil.mills.get Mill.init m
def Dev.setMill (d : Dev) (m : Nat) (x : Mill) : Dev :=
  { d with mil := { d.mil with mills := d.mil.mills.set Mill.init m x } }

/-- The dispatcher forms the task of the oldest admitted frame of mill `m` (R13). -/
def Dev.formTask (d : Dev) (m : Nat) : Dev :=
    match (d.mill m).banked with
    | [] => d
    | b :: rest =>
      if !d.bit .dspCtrl 0 0 0 then d
      else if d.formStop b ≠ [] then d.tally 9 (some ((b.words.headD Word.zero).v.toNat / 512 % 8)) none none 0 0 false
      else
        let (tk, d1) := match b.dom with
          | none => (none, d)
          | some dom => match d.mint dom with
            | some (n, d1) => (some n, d1)
            | none => (none, d)
        let w4 := match tk with
          | some n => d1.tktWord n
          | none => Word.zero
        let ws := b.words.set 4 w4
        let t : Task := { words := ws, banked := ws, loc := .ready 0, since := d.time.tick, stagedAt := 0, aff := false,
                          set := 0, home := none, ticket := tk, deadline := b.deadline, overtaken := false, cancelled := false }
        match d1.newTask t with
        | (none, d2) => d2
        | (some sl, d2) =>
          let d3 := { d2 with rel := { d2.rel with deadlines := d2.rel.deadlines + (if b.deadline then 1 else 0) } }
          let win := (b.window ++ List.replicate (256 - b.window.length) ((0 : W8), false)).take 256
          let d4 := if d3.memOk (d3.winAddr sl) then d3.storeBytes (d3.winAddr sl) win else d3
          (d4.setMill m { d4.mill m with banked := rest }).placeReady sl

/-- The domain of the frame whose task mill `m` would form next. -/
def Dev.nextDom (d : Dev) (m : Nat) : Option Nat := ((d.mill m).banked.head?).bind (fun b => b.dom)

/-- `TASK_FORM` (R13, R16): the dispatcher forms the task of the mill's oldest admitted frame. A lower-numbered mill whose oldest frame is of
the same ordered-flow domain forms its task in the same cycle, and takes the earlier ticket. -/
def execTaskForm (m : Fin 4) (s : State) : Host.Outcome State Fault Refusal :=
  s.onDev (fun d =>
    ((List.range m.val).foldl (fun d n => if d.nextDom n ≠ none ∧ d.nextDom n = d.nextDom m then d.formTask n else d) d).formTask m)

/-! ### Deadlines (R153) and the tally (R156) -/

/-- The frame of a banked release: the verdict as the mill formed it, with a handle of the next generation. -/
def Dev.bankedFrame (d : Dev) (t : Task) : RelFrame × Dev :=
  let w := fun k => t.banked.getD k Word.zero
  match handleOf (w 2) (w 3) with
  | some (k, g, i) =>
    if d.bufCurrent k g i then
      let (hh, hl) := mkHandle k (g + 1) i
      (frameOf hh hl (w 7) (w 8) (w 9) (w 10), d.advanceGen k i)
    else (frameOf (w 2) (w 3) (w 7) (w 8) (w 9) (w 10), d)
  | none => (frameOf (w 2) (w 3) (w 7) (w 8) (w 9) (w 10), d)

/-- `DEADLINE_PASSED`: the release unit releases the banked verdict and marks the task overtaken. -/
def execDeadlinePassed (slot : Fin 16384) (s : State) : Host.Outcome State Fault Refusal :=
  s.onDev (fun d =>
    match d.task slot with
    | none => d
    | some t =>
      let dl := join16 (t.word 11).v (t.word 12).v
      if !t.deadline ∨ !d.bit .relCtrl 0 0 1 ∨ 2 ^ 31 ≤ (d.now32 - dl).toNat then d
      else
        let (f, d1) := d.bankedFrame t
        let d2 := match t.ticket with
          | some n => d1.releaseTkt n f
          | none => { d1 with rel := { d1.rel with loose := d1.rel.loose ++ [f] } }
        let w0 := Word.plain ((t.word 0).v ||| 0x0040)
        let d3 := (d2.dropDeadline slot).setTask slot (some { t with
          words := t.words.set 0 w0, ticket := none, deadline := false, overtaken := true })
        let d4 := match t.loc with
          | .staged g => d3.poke (taskArea g) [w0]
          | .held g => d3.poke (taskArea g) [w0]
          | _ => d3
        (d4.count .relOvertaken).tallyTask 3 slot t false)

/-- `TALLY_LOST_RECORD`. -/
def execTallyLostRecord (s : State) : Host.Outcome State Fault Refusal :=
  s.onDev Dev.tallyLostPut

end Sys2Proof.Machine
end

