-- ==== Sys2Proof/Machine/Kindle.lean ====
section
/-!
DEFINITION. How frames enter a mill (R166, R186) and the kindlers that parse them (R175–R184).
-/
namespace Sys2Proof.Machine

/-! ### Sources (R166, R185) -/

/-- Mill `m` serves source port `s` (R185): the masks for ports and controllers, the virtual port's own register for a ring. -/
def Dev.serves (d : Dev) (m s : Nat) : Bool :=
  if s < 32 then d.bit .milSrc0 m 0 s
  else if s < 64 then d.bit .milSrc1 m 0 (s - 32)
  else d.bit .lnkVport (s - 64) 0 31 && d.fld .lnkVport (s - 64) 0 1 0 == m

/-- The source that mill `m` takes its next frame from. -/
def Dev.nextSource (d : Dev) (m : Nat) : Option Nat :=
  pickFrom 128 ((d.mill m).lastSrc + 1) (fun s => d.serves m s && !(d.prt.rxq.get [] s).isEmpty) 128

/-- A kindler at the start of a frame (R176). -/
def Kindler.start (pc : BitVec 12) : Kindler :=
  { cursor := 0, k := List.replicate 8 0, fv := List.replicate 44 0, pm := 0, hdrs := List.replicate 12 0, steps := 0,
    pc := pc }

/-! ### Results (R183, R184) -/

/-- What a kindler hands over when its parse ends with a failure code (0 accepted). -/
def MillFrame.result (x : MillFrame) (k : Kindler) (code : Nat) (deep : Bool) : Parse :=
  { fv := k.fv ++ [w16 x.rx.src, w16 x.rx.bytes.length, x.rx.status, w16 (code * 1024 + k.steps)],
    pm := if deep then k.pm ||| 0x80000000 else k.pm, hdrs := k.hdrs, code := code, deep := deep, steps := k.steps }

/-- The frame's parse has ended. -/
def MillFrame.ended (x : MillFrame) (k : Kindler) (code : Nat) (deep : Bool) : MillFrame :=
  { x with kindler := none, parse := some (x.result k code deep) }

/-- Parsed frames are handed over in the order of their entry (R175), with the bank and activity bitmap they meet (R200, R223). -/
def handOver (tick : Nat) (bank : W8) (act : Bool) : List MillFrame → List MillFrame
  | [] => []
  | x :: r =>
    if x.handed.isSome then x :: handOver tick bank act r
    else if x.parse.isSome then { x with handed := some tick, bank := bank, actSel := act } :: handOver tick bank act r
    else x :: r

def Dev.handFrames (d : Dev) (m : Nat) : Dev :=
  let fs := handOver d.time.tick ((d.rd .milBank m).truncate 8) (d.bit .milLearn m 0 26) (d.mill m).frames
  d.setMill m { d.mill m with frames := fs }

/-- The counters of a parse that ended. -/
def Dev.countParse (d : Dev) (m code : Nat) (deep : Bool) : Dev :=
  let d1 := d.count .kndFrames m
  let d2 := if deep then d1.count .kndDeep m else d1
  if code = 0 then d2 else d2.count .kndFail m (code - 1)

/-! ### Entry (R166, R175, R176) -/

/-- The mill can take a frame now: it and the dispatcher are enabled, fewer than three frames have entered in this tick
(one each 4 MILLCLK), and no admitted frame waits for its task. -/
def Dev.millOpen (d : Dev) (m : Nat) : Bool :=
  let x := d.mill m
  d.bit .milCtrl m 0 0 && d.bit .dspCtrl 0 0 0 && x.banked.isEmpty && (x.lastTick != d.time.tick || decide (x.inTick < 3))

/-- `MILL_ENTRY`: the next source's oldest frame goes to the lowest-numbered idle kindler. -/
def execMillEntry (m : Fin 4) (s : State) : Host.Outcome State Fault Refusal :=
  s.onDev (fun d =>
    if !d.millOpen m then d else
    match d.nextSource m with
    | none => d
    | some src =>
      match d.prt.rxq.get [] src with
      | [] => d
      | e :: rest =>
        let x := d.mill m
        let busy := x.frames.filterMap (fun f => f.kindler.map Prod.fst)
        match (List.range 32).find? (fun n => !busy.contains n) with
        | none => d
        | some n =>
          let ent := d.rd .kndEntry m src
          let k := Kindler.start (ent.truncate 12)
          let fr : MillFrame := { rx := e, kindler := some (n, k), parse := none, handed := none, bank := 0, actSel := false }
          let ok := ent.getLsbD 31
          let fr1 := if ok then fr else fr.ended k 4 false
          let left := if e.fifo = 0 then d.prt.left else d.prt.left.upd [] src (fun l => l ++ [(d.time.tick, e.since, e.fifo)])
          let d1 := { d with prt := { d.prt with rxq := d.prt.rxq.set [] src rest, left := left } }
          let d2 := d1.setMill m { x with
            frames := x.frames ++ [fr1], lastSrc := src, lastTick := d.time.tick,
            inTick := if x.lastTick = d.time.tick then x.inTick + 1 else 1 }
          if ok then d2 else (d2.countParse m 4 false).handFrames m)

/-! ### Steps (R177–R182) -/

/-- What a step comes to: the kindler goes on, or the parse ends with a code, perhaps deep. -/
inductive KRes where
  | go (k : Kindler)
  | fin (k : Kindler) (code : Nat) (deep : Bool)

/-- What stops a read of window bytes from `j` on, the lowest first (R177): a failure code, or 0 with a deep end. -/
def windowStop (bs : List (W8 × Bool)) (j : Nat) : Nat → Option (Nat × Bool)
  | 0 => none
  | n + 1 =>
    if min bs.length 256 ≤ j then some (if 256 < bs.length then (0, true) else (1, false))
    else if ((bs[j]?).map Prod.snd).getD false then some (5, false)
    else windowStop bs (j + 1) n

/-- The first and last byte of the window that a read of `n` bytes from `j` on comes to: it ends with the first that stops it. -/
def windowSpan (bs : List (W8 × Bool)) (j n : Nat) : Option (Nat × Nat) :=
  let clean := ((List.range n).takeWhile (fun k => (windowStop bs j (k + 1)).isNone)).length
  let last := if clean < n ∧ j + clean < min bs.length 256 then j + clean + 1 else j + clean
  if j < last then some (j, last - 1) else none

/-- Kindler `n` of mill `m` executes one instruction, unless its budget is spent (R181). `reads` is the first byte of the window that it reads
and how many: the read meets the errors of their check units (R41). -/
def Dev.kstep (d : Dev) (m n : Nat) (f : RxEntry → Kindler → KRes) (reads : Kindler → Nat × Nat := fun _ => (0, 0)) : Dev :=
  let x := d.mill m
  let mine := fun (y : MillFrame) => match y.kindler with
    | some (n', _) => n' == n
    | none => false
  match x.frames.find? mine with
  | none => d
  | some fr =>
    match fr.kindler with
    | none => d
    | some (_, k) =>
      let put := fun (d : Dev) (fr' : MillFrame) =>
        d.setMill m { x with frames := x.frames.map (fun y => if mine y then fr' else y) }
      if d.fld .kndCtrl m 0 14 8 ≤ k.steps then
        ((put d (fr.ended k 2 false)).countParse m 2 false).handFrames m
      else if (windowSpan fr.rx.bytes (reads k).1 (reads k).2).isSome && d.rxWaits fr.rx then d
      else
        let bs := (d.rxWindow fr.rx).1
        let d1 := (match windowSpan bs (reads k).1 (reads k).2 with
          | some (a, b) => d.windowMeet fr.rx a b
          | none => d).count .kndSteps m
        match f { fr.rx with bytes := bs } { k with steps := k.steps + 1 } with
        | .go k' => put d1 { fr with kindler := some (n, k') }
        | .fin k' code deep => ((put d1 (fr.ended k' code deep)).countParse m code deep).handFrames m

def Kindler.reg (k : Kindler) (n : Nat) : W16 := k.k.getD n 0
def Kindler.setReg (k : Kindler) (n : Nat) (v : W16) : Kindler := { k with k := k.k.set n v }
/-- The kindler goes on to the next word. -/
def Kindler.step (k : Kindler) : KRes := .go { k with pc := k.pc + 1 }

/-- `width` bits of the window from bit `bit` of byte `first`, the most significant first. -/
def windowBits (bs : List (W8 × Bool)) (first bit width : Nat) : Nat :=
  let b := fun (k : Nat) => (((bs[first + k]?).map Prod.fst).getD 0).toNat
  (b 0 * 65536 + b 1 * 256 + b 2) / 2 ^ (24 - bit - width) % 2 ^ width

/-- `KEXT`. -/
def kextStep (dst off bit width : Nat) (rx : RxEntry) (k : Kindler) : KRes :=
  let first := k.cursor + off
  match windowStop rx.bytes first ((bit + width + 7) / 8) with
  | some (code, deep) => .fin k code deep
  | none =>
    let v := w16 (windowBits rx.bytes first bit width)
    (if dst < 44 then { k with fv := k.fv.set dst v } else k.setReg (dst - 48) v).step

/-- A branch of R179. -/
def kbranch (c : Bool) (target : BitVec 12) (k : Kindler) : KRes :=
  .go { k with pc := if c then target else k.pc + 1 }

/-- The operations of `KALUI` and `KALU` beyond the load and the move. -/
def kaluOp (op : Nat) (a b : W16) : W16 :=
  match op with
  | 0 => b
  | 1 => a + b
  | 2 => a - b
  | 3 => a &&& b
  | 4 => a ||| b
  | 5 => a <<< (b.toNat % 16)
  | _ => a >>> (b.toNat % 16)

def execKendAccept (m : Fin 4) (n : Fin 32) (s : State) : Host.Outcome State Fault Refusal :=
  s.onDev (·.kstep m n (fun _ k => .fin k 0 false))
/-- `KEND` fail: a code below 0x10 is reserved, and no kindler executes it (R180). -/
def execKendFail (m : Fin 4) (n : Fin 32) (code : BitVec 6) (s : State) : Host.Outcome State Fault Refusal :=
  s.onDev (fun d => if code.toNat < 16 then d else d.kstep m n (fun _ k => .fin k code.toNat false))
def execKbeq (m : Fin 4) (n : Fin 32) (k : Fin 8) (imm : W16) (target : BitVec 12) (s : State) :
    Host.Outcome State Fault Refusal := s.onDev (·.kstep m n (fun _ x => kbranch (x.reg k == imm) target x))
def execKbne (m : Fin 4) (n : Fin 32) (k : Fin 8) (imm : W16) (target : BitVec 12) (s : State) :
    Host.Outcome State Fault Refusal := s.onDev (·.kstep m n (fun _ x => kbranch (x.reg k != imm) target x))
def execKblo (m : Fin 4) (n : Fin 32) (k : Fin 8) (imm : W16) (target : BitVec 12) (s : State) :
    Host.Outcome State Fault Refusal :=
  s.onDev (·.kstep m n (fun _ x => kbranch (decide ((x.reg k).toNat < imm.toNat)) target x))
def execKbhs (m : Fin 4) (n : Fin 32) (k : Fin 8) (imm : W16) (target : BitVec 12) (s : State) :
    Host.Outcome State Fault Refusal :=
  s.onDev (·.kstep m n (fun _ x => kbranch (decide (imm.toNat ≤ (x.reg k).toNat)) target x))
def execKbset (m : Fin 4) (n : Fin 32) (k : Fin 8) (imm : W16) (target : BitVec 12) (s : State) :
    Host.Outcome State Fault Refusal := s.onDev (·.kstep m n (fun _ x => kbranch (x.reg k &&& imm != 0) target x))
/-- `KEXT`; `width` is the field of the word, one less than the width. A reserved destination is never executed. -/
def execKext (m : Fin 4) (n : Fin 32) (dst : BitVec 6) (off : W8) (bit : Fin 8) (width : Fin 16) (s : State) :
    Host.Outcome State Fault Refusal :=
  s.onDev (fun d =>
    if dst.toNat < 44 ∨ (48 ≤ dst.toNat ∧ dst.toNat < 56) then
      d.kstep m n (kextStep dst.toNat off.toNat bit.val (width.val + 1))
        (fun k => (k.cursor + off.toNat, (bit.val + (width.val + 1) + 7) / 8))
    else d)
/-- `KALUI`: a shift by 16 or more is a reserved word. -/
def execKalui (m : Fin 4) (n : Fin 32) (op : Fin 7) (k : Fin 8) (imm : W16) (s : State) :
    Host.Outcome State Fault Refusal :=
  s.onDev (fun d =>
    if 5 ≤ op.val ∧ 16 ≤ imm.toNat then d
    else d.kstep m n (fun _ x => (x.setReg k (kaluOp op (x.reg k) imm)).step))
def execKalu (m : Fin 4) (n : Fin 32) (op : Fin 7) (k src : Fin 8) (s : State) : Host.Outcome State Fault Refusal :=
  s.onDev (·.kstep m n (fun _ x => (x.setReg k (kaluOp op (x.reg k) (x.reg src))).step))
def execKadv (m : Fin 4) (n : Fin 32) (addK : Bool) (k : Fin 8) (scale : Fin 4) (imm : W8) (s : State) :
    Host.Outcome State Fault Refusal :=
  s.onDev (·.kstep m n (fun _ x =>
    let c := x.cursor + imm.toNat + (if addK then (x.reg k).toNat * 2 ^ scale.val % 65536 else 0)
    if 511 < c % 65536 then .fin x 3 false else Kindler.step { x with cursor := c % 65536 }))
def execKhdr (m : Fin 4) (n : Fin 32) (slot : Fin 12) (bit : Fin 31) (setBit : Bool) (s : State) :
    Host.Outcome State Fault Refusal :=
  s.onDev (·.kstep m n (fun _ x => Kindler.step { x with
    hdrs := x.hdrs.set slot (w16 (0x8000 + x.cursor)),
    pm := if setBit then x.pm ||| BitVec.ofNat 32 (2 ^ bit.val) else x.pm }))
def execKpm (m : Fin 4) (n : Fin 32) (mask : BitVec 31) (s : State) : Host.Outcome State Fault Refusal :=
  s.onDev (·.kstep m n (fun _ x => Kindler.step { x with pm := x.pm ||| mask.zeroExtend 32 }))
def execKsto (m : Fin 4) (n : Fin 32) (word : Fin 44) (useImm : Bool) (k : Fin 8) (imm : W16) (s : State) :
    Host.Outcome State Fault Refusal :=
  s.onDev (·.kstep m n (fun _ x => Kindler.step { x with fv := x.fv.set word (if useImm then imm else x.reg k) }))
def execKjmp (m : Fin 4) (n : Fin 32) (target : BitVec 12) (s : State) : Host.Outcome State Fault Refusal :=
  s.onDev (·.kstep m n (fun _ x => .go { x with pc := target }))
/-- Ingress metadata words (R184). -/
def RxEntry.metaWord (e : RxEntry) (i : Nat) : W16 :=
  match i with
  | 0 => w16 e.src
  | 1 => w16 e.bytes.length
  | 2 => e.status
  | 3 => e.meta3
  | 4 => e.meta4
  | _ => e.meta5
def execKmeta (m : Fin 4) (n : Fin 32) (k : Fin 8) (i : Fin 6) (s : State) : Host.Outcome State Fault Refusal :=
  s.onDev (·.kstep m n (fun rx x => (x.setReg k (rx.metaWord i)).step))

/-! ### The kindling store (R178, R180) -/

/-- An answer that holds where `n` is a legal value of a field with `b` values. -/
def inRange {α : Type} (b n : Nat) (f : Fin b → Option α) : Option α := if h : n < b then f ⟨n, h⟩ else none

/-- The instruction that kindler `n` of mill `m` executes for a 36-bit word (R178): bits [35:32] select the operation; a reserved opcode, a
reserved field value or an rsv bit that is 1 is none. -/
def kindDecode (m : Fin 4) (n : Fin 32) (w : BitVec 36) : Option Instr :=
  let f := fun (hi lo : Nat) => w.toNat / 2 ^ lo % 2 ^ (hi + 1 - lo)
  let zero := fun (x : Nat) (i : Option Instr) => if x = 0 then i else none
  let branch := fun (mk : Fin 8 → W16 → BitVec 12 → Instr) =>
    zero (f 12 12) (inRange 8 (f 31 29) (fun k => some (mk k (w16 (f 28 13)) (BitVec.ofNat 12 (f 11 0)))))
  let imm := w16 (f 25 10)
  match f 35 32 with
  | 0 =>
    zero (f 29 6) (
      if f 31 30 = 0 ∧ f 5 0 = 0 then some (.kendAccept m n)
      else if f 31 30 = 1 ∧ 16 ≤ f 5 0 then some (.kendFail m n (BitVec.ofNat 6 (f 5 0)))
      else none)
  | 1 => branch (.kbeq m n)
  | 2 => branch (.kbne m n)
  | 3 => branch (.kblo m n)
  | 4 => branch (.kbhs m n)
  | 5 => branch (.kbset m n)
  | 6 =>
    if f 31 26 < 44 ∨ (48 ≤ f 31 26 ∧ f 31 26 < 56) then
      zero (f 10 0) (inRange 8 (f 17 15) (fun b => inRange 16 (f 14 11) (fun wd =>
        some (.kext m n (BitVec.ofNat 6 (f 31 26)) (BitVec.ofNat 8 (f 25 18)) b wd))))
    else none
  | 7 =>
    if 5 ≤ f 31 29 ∧ 16 ≤ imm.toNat then none
    else zero (f 9 0) (inRange 7 (f 31 29) (fun op => inRange 8 (f 28 26) (fun k => some (.kalui m n op k imm))))
  | 8 =>
    zero (f 22 0) (inRange 7 (f 31 29) (fun op => inRange 8 (f 28 26) (fun k => inRange 8 (f 25 23) (fun s =>
      some (.kalu m n op k s)))))
  | 9 =>
    zero (f 17 0) (inRange 8 (f 30 28) (fun k => inRange 4 (f 27 26) (fun sc =>
      some (.kadv m n (f 31 31 == 1) k sc (BitVec.ofNat 8 (f 25 18))))))
  | 10 =>
    zero (f 21 0) (inRange 12 (f 31 28) (fun sl => inRange 31 (f 27 23) (fun b => some (.khdr m n sl b (f 22 22 == 1)))))
  | 11 => zero (f 31 31) (some (.kpm m n (BitVec.ofNat 31 (f 30 0))))
  | 12 =>
    if f 25 25 = 0 ∧ f 15 0 ≠ 0 then none
    else zero (f 21 16) (inRange 44 (f 31 26) (fun x => inRange 8 (f 24 22) (fun k =>
      some (.ksto m n x (f 25 25 == 1) k (w16 (f 15 0))))))
  | 13 => zero (f 31 12) (some (.kjmp m n (BitVec.ofNat 12 (f 11 0))))
  | 14 => zero (f 25 0) (inRange 8 (f 31 29) (fun k => inRange 6 (f 28 26) (fun i => some (.kmeta m n k i))))
  | _ => none

/-- A 36-bit word is a kindling instruction: it decodes to one (R180). -/
def kindWord (w : Nat) : Bool := (kindDecode 0 0 (BitVec.ofNat 36 w)).isSome

/-- The instruction that kindler `n` of mill `m` executes next (R178, R182): what the word stored at its program counter decodes to. -/
def Dev.kindNext (d : Dev) (m : Fin 4) (n : Fin 32) : Option Instr :=
  match (d.mill m).frames.filterMap MillFrame.kindler |>.find? (fun k => k.1 == n.val) with
  | some (_, k) => kindDecode m n (d.mil.prog.get 0 (m * 4096 + k.pc.toNat))
  | none => none

/-- The word at the staged address of mill `m`'s kindling store. -/
def Dev.kindAt (d : Dev) (m : Nat) : BitVec 36 := d.mil.prog.get 0 (m * 4096 + d.fld .kndProgAddr m 0 11 0)

/-- A write of `KND.PROG_LO` (R180): a legal word is stored; a reserved one is refused and logged. The address advances with
AUTO_INC after each write. -/
def Dev.progWrite (d : Dev) (r : Req) (m : Nat) (lo : W32) : Dev :=
  let a := d.fld .kndProgAddr m 0 11 0
  let w := d.fld .kndProgHi m 0 3 0 * 2 ^ 32 + lo.toNat
  let d1 := if kindWord w then
      { d with mil := { d.mil with prog := d.mil.prog.set 0 (m * 4096 + a) (BitVec.ofNat 36 w) } }
    else d.reject r (RegKind.off .kndProgLo m 0)
  if d.bit .kndProgAddr m 0 31 then d1.setFld .kndProgAddr m 0 11 0 ((a + 1) % 4096) else d1

end Sys2Proof.Machine
end

