-- ==== Sys2Proof/Machine/Queues.lean ====
section
/-!
DEFINITION. Retirement and the chimney's enqueue side (R151, R225–R229): destinations, admission, replicas, the copy engine's
completions, and the queues of a port that is down (R243).
-/
namespace Sys2Proof.Machine

/-! ### Host rings as destinations (R226, R364) -/

def Ring.init : Ring := ⟨true, [], false, [], none, none⟩
def Dev.ring (d : Dev) (r : Nat) : Ring := d.lnk.rings.get Ring.init r
def Dev.setRing (d : Dev) (r : Nat) (x : Ring) : Dev :=
  { d with lnk := { d.lnk with rings := d.lnk.rings.set Ring.init r x } }
def Dev.ringEn (d : Dev) (r : Nat) : Bool := d.bit .lnkRingCfg r 0 31
def Dev.ringKind (d : Dev) (r : Nat) : Nat := d.fld .lnkRingCfg r 0 30 28

/-- DROPS of ring `r` counts one frame, up to 0xFFFF. -/
def Dev.ringDrop (d : Dev) (r : Nat) : Dev := d.setFld .lnkRingStat r 0 15 0 (min (d.fld .lnkRingStat r 0 15 0 + 1) 0xFFFF)

/-! ### Queues (R225) -/

def ChmQ.init : ChmQ := ⟨[], 0, 0, 0⟩
def Dev.chmq (d : Dev) (q : Nat) : ChmQ := d.chm.queues.get ChmQ.init q
def Dev.setChmq (d : Dev) (q : Nat) (x : ChmQ) : Dev :=
  { d with chm := { d.chm with queues := d.chm.queues.set ChmQ.init q x } }
/-- Port, class and enable of queue `q`. -/
def Dev.qPort (d : Dev) (q : Nat) : Nat := d.fld .chmQmap q 0 28 24
def Dev.qClass (d : Dev) (q : Nat) : Nat := d.fld .chmQmap q 0 22 20
def Dev.qEn (d : Dev) (q : Nat) : Bool := d.bit .chmQmap q 0 31

/-! ### Credit-based shapers (R233) -/

/-- The frame in transmission by a MAC of port `p` (1 the preemptable one). -/
def Dev.txOf (d : Dev) (p mac : Nat) : Option TxFrame := d.chm.tx.get none (p * 2 + mac)
def Dev.setTx (d : Dev) (p mac : Nat) (x : Option TxFrame) : Dev :=
  { d with chm := { d.chm with tx := d.chm.tx.set none (p * 2 + mac) x } }

/-- Gate lists apply on port `p`: GATE_EN, with an operational list (R235). -/
def Dev.gated (d : Dev) (p : Nat) : Bool := d.bit .chmGateCtrl p 0 31 && d.fld .chmGateCtrl p 0 26 16 != 0
/-- The gate of class `c` of port `p` as it stands. -/
def Dev.gateBit (d : Dev) (p c : Nat) : Bool := !d.gated p || (d.chm.gates.get 0xFF p).getLsbD c

/-- A frame of class `c` is on the line of port `p`. -/
def Dev.sending (d : Dev) (p c : Nat) : Bool :=
  [0, 1].any (fun m => match d.txOf p m with | some f => f.cls == c && !f.preempted | none => false)
/-- Class `c` of port `p` has a frame waiting. -/
def Dev.waiting (d : Dev) (p c : Nat) : Bool :=
  d.chm.queues.entries.any (fun e => e.2.frames != [] && d.qPort e.1 == p && d.qClass e.1 == c)
/-- idleSlope and sendSlope of a class, in kB/s. -/
def Dev.idleSlope (d : Dev) (p c : Nat) : Int := d.fld .chmCbs p c 21 0
def Dev.sendSlope (d : Dev) (p c : Nat) : Int := d.idleSlope p c - d.portRate p * 125
def Dev.credit (d : Dev) (p c : Nat) : Int := d.chm.credit.get 0 (p * 8 + c)
def Dev.setCredit (d : Dev) (p c : Nat) (x : Int) : Dev :=
  { d with chm := { d.chm with credit := d.chm.credit.set 0 (p * 8 + c) x } }

/-- ns since reset. -/
def Dev.nsNow (d : Dev) : Nat := d.time.tick * 10
/-- The inter-frame gap of a transmission of class `c` runs from now for `n` bytes on the line (R233). -/
def Dev.gapFrom (d : Dev) (p c n : Nat) : Dev :=
  { d with chm := { d.chm with gap := d.chm.gap.set 0 (p * 8 + c) (d.nsNow + (n * 8000 + d.portRate p - 1) / d.portRate p) } }

/-- The credit of a class after an interval of `dt` ns in its present condition. The time of a transmitted frame runs to the end of its
inter-frame gap: that part of the interval counts as transmission. -/
def Dev.creditAfter (d : Dev) (p c dt0 : Nat) : Int :=
  let inGap := min dt0 (d.chm.gap.get 0 (p * 8 + c) - (d.nsNow - dt0))
  let dt := dt0 - inGap
  let x := d.credit p c + (if d.sending p c then 0 else d.sendSlope p c * 1024 * inGap / 1000000)
  let idle := d.idleSlope p c * 1024 * dt / 1000000
  if d.sending p c then x + d.sendSlope p c * 1024 * dt0 / 1000000
  else if dt = 0 ∨ !d.gateBit p c then x
  else if d.waiting p c then x + idle
  else if 0 < x then 0
  else min 0 (x + idle)

/-- The credits of port `p` are brought up to the present tick. -/
def Dev.cbsSync (d : Dev) (p : Nat) : Dev :=
  let dt := (d.time.tick - d.chm.cbsLast.get 0 p) * 10
  let d1 := if dt = 0 then d else
    (List.range 8).foldl (fun e c => if d.bit .chmCbs p c 31 then e.setCredit p c (d.creditAfter p c dt) else e) d
  { d1 with chm := { d1.chm with cbsLast := d1.chm.cbsLast.set 0 p d1.time.tick } }

/-- The port rate has changed: every credit is zero. -/
def Dev.cbsZero (d : Dev) (p : Nat) : Dev := (List.range 8).foldl (fun e c => e.setCredit p c 0) (d.cbsSync p)

/-- The queues that hold frames for port `p`. -/
def Dev.portQueues (d : Dev) (p : Nat) : List Nat :=
  (d.chm.queues.entries.filter (fun e => e.2.frames ≠ [] ∧ d.qPort e.1 = p)).map Prod.fst

/-- The head frame of a queue leaves it; a queue that empties loses its deficit (R231). -/
def Dev.dequeue (d : Dev) (q : Nat) : Dev :=
  let x := d.chmq q
  let r := x.frames.drop 1
  let d1 := d.setChmq q { x with frames := r, deficit := if r = [] then 0 else x.deficit }
  { d1 with chm := { d1.chm with entries := d1.chm.entries - 1 } }

/-- The chimney frees a buffer it owns; a handle that has gone stale frees nothing (R34). -/
def Dev.freeGen (d : Dev) (n i g : Nat) : Dev := if (d.buf n i).gen = g then d.freeBuf n i else d

/-- Free every frame of queue `q`, at its head one after another; `n` bounds them (R243). -/
def Dev.discardQueue (d : Dev) (p q : Nat) : Nat → Dev
  | 0 => d
  | n + 1 =>
    match (d.chmq q).frames with
    | [] => d
    | f :: _ => (((d.dequeue q).freeGen f.pool f.idx f.gen).count .chmLinkdownDrop p).discardQueue p q n

/-- Port `p` is down: LINK is 0, IF is Off, or its quad has no power. -/
def Dev.portDown (d : Dev) (p : Nat) : Bool := !d.portLink p || d.fld .prtMode p 0 2 0 == 0

/-- A down port with LINKDOWN_DISCARD frees what its queues hold (R243). -/
def Dev.discardDown (d : Dev) (p : Nat) : Dev :=
  if d.portDown p ∧ d.bit .chmPctrl p 0 31 then
    (d.portQueues p).foldl (fun (d : Dev) q => d.discardQueue p q ((d.chmq q).frames.length)) d
  else d

/-- A replica joins its queue or its ring; on the queue of a down port that discards it is freed at once. -/
def Dev.enqueueAt (d : Dev) (x : Dest) (f : QFrame) : Dev :=
  match x with
  | .ring r =>
    let g := d.ring r
    d.setRing r { g with rxq := g.rxq ++ [⟨f.pool, f.idx, f.gen⟩] }
  | .queue p q =>
    let d0 := d.cbsSync (d.qPort q)
    let y := d0.chmq q
    let d1 := d0.setChmq q { y with frames := y.frames ++ [f] }
    let d2 := { d1 with chm := { d1.chm with entries := d1.chm.entries + 1 } }
    (d2.count .chmEnq p).discardDown (d2.qPort q)

/-! ### Destinations and admission (R226, R227) -/

/-- The destinations of a frame: its ports in ascending order, the mirror port, the host ring. -/
def Dev.destinations (d : Dev) (f : RelFrame) : List Dest :=
  let c := d.qClass f.queue.toNat
  let kind := f.a.toNat / 8192
  let ports : List Dest := ((List.range 32).filter (fun p => f.ports.getLsbD p)).map (fun p =>
    .queue p (if d.qPort f.queue.toNat = p then f.queue.toNat else d.fld .chmPcq p c 13 0))
  let m := f.a.toNat % 32
  ports ++ (if kind = 3 then [.queue m (d.fld .chmPcq m (d.fld .chmCtrl 0 0 10 8) 13 0)] else [])
    ++ (if kind = 2 then [.ring (f.a.toNat % 1024)] else [])

/-- Test the destinations in order: those admitted, each drop counted. -/
def Dev.admits (d : Dev) : List Dest → List Dest → List Dest × Dev
  | [], got => (got, d)
  | .ring r :: rest, got =>
    if d.ringEn r ∧ d.ringKind r = 2 ∧ (d.ring r).rxq.length < d.fld .lnkRingAux r 0 15 0 then
      d.admits rest (got ++ [.ring r])
    else (d.ringDrop r).admits rest got
  | .queue p q :: rest, got =>
    let mine := (got.filter (fun x => match x with | .queue _ k => k == q | .ring _ => false)).length
    let all := (got.filter (fun x => match x with | .queue _ _ => true | .ring _ => false)).length
    let limit := d.fld .chmQlimit q 0 15 0
    if !d.qEn q ∨ (limit ≠ 0 ∧ limit ≤ (d.chmq q).frames.length + mine) then (d.count .chmTailDrop p).admits rest got
    else if 131072 ≤ d.chm.entries + all then (d.count .chmQmemDrop p).admits rest got
    else d.admits rest (got ++ [.queue p q])

/-- A replica that found no buffer is dropped against its port or ring (R228). -/
def Dev.replicaLost (d : Dev) : Dest → Dev
  | .queue p _ => d.count .chmCopyNobuf p
  | .ring r => d.ringDrop r

/-- The sequence number a frame takes from its generation (R242). -/
def Dev.takeSeq (d : Dev) (q : Nat) : Option W16 × Dev :=
  let i := d.fld .chmQmap q 0 8 0
  if d.bit .chmQmap q 0 17 ∧ d.bit .chmGen i 0 31 then
    let n := d.fld .chmGen i 0 15 0
    (some (w16 n), d.setFld .chmGen i 0 15 0 ((n + 1) % 65536))
  else (none, d)

/-! ### The enqueue stage (R228, R229) -/

/-- The enqueue stage can accept a frame. -/
def Dev.stageFree (d : Dev) : Bool := d.chm.stage.isNone && d.bit .chmCtrl 0 0 0

/-- A frame in the stage has its head read (R258): one with an invalid head is freed. In a region being filled the head waits (R287). -/
def Dev.stageHead (d : Dev) (x : Stage) : Dev :=
  if d.bufWaits x.pool x.idx then { d with chm := { d.chm with stage := some { x with unread := true } } }
  else
    let (hd, d1) := d.head x.pool x.idx
    match hd with
    | some (len, dofs) =>
      { d1 with chm := { d1.chm with stage := some { x with len := len, dofs := dofs, unread := false } } }
    | none => (({ d1 with chm := { d1.chm with stage := none } }).count .bpmBadHead).freeBuf x.pool x.idx

/-- The stage accepts a frame: a stale handle is dropped, and a frame with an invalid head is freed (R258). -/
def Dev.acceptFrame (d : Dev) (f : RelFrame) : Dev :=
  let d0 := d.count .relReleased
  match handleOf f.hH f.hL with
  | some (k, g, i) =>
    if d0.bufCurrent k g i then d0.stageHead ⟨f, k, i, g, 0, 0, none, none, 0, false⟩ else d0
  | none => d0

/-- A ticket leaves its domain and its number is FREE (R150). -/
def Dev.retire (d : Dev) (n : Nat) : Dev :=
  let t := d.tkt n
  let d1 := d.setTkt n { t with st := .free, epoch := (t.epoch + 1) % 8, frame := none, dom := 0, minted := 0 }
  { d1 with rel := { d1.rel with doms := d1.rel.doms.upd [] t.dom (fun l => l.filter (· ≠ n)),
                                 freed := d1.rel.freed ++ [n] } }

/-- The heads that may retire: SKIPPED ones, and RELEASED ones while the stage accepts. -/
def Dev.retirable (d : Dev) : List Nat :=
  (d.rel.doms.entries.filterMap (fun e => e.2.head?)).filter (fun n =>
    match (d.tkt n).st with
    | .skipped => true
    | .released => d.stageFree
    | _ => false)

/-- The ticket minted first of some. -/
def Dev.oldestTkt (d : Dev) (l : List Nat) : Option Nat :=
  l.foldl (fun b n => match b with
    | none => some n
    | some m => if (d.tkt n).minted < (d.tkt m).minted then some n else b) none

/-- `TICKET_RETIRE` (R151): one head retires, the one minted first; or an output slot that no retirement takes serves a frame
without a ticket. -/
def execTicketRetire (s : State) : Host.Outcome State Fault Refusal :=
  s.onDev (fun d =>
    if !d.bit .relCtrl 0 0 0 then d
    else match d.oldestTkt d.retirable with
      | some n =>
        let t := d.tkt n
        match t.st, t.frame with
        | .released, some f => (d.retire n).acceptFrame f
        | _, _ => (d.retire n).count .relSkipped
      | none =>
        match d.rel.loose with
        | f :: r => if d.stageFree then { d with rel := { d.rel with loose := r } }.acceptFrame f else d
        | [] => d)

/-- The frame of the stage, as it stands on a queue. -/
def Stage.qframe (x : Stage) : QFrame := ⟨x.pool, x.idx, x.gen, x.len, x.dofs, x.seqNo⟩

/-- The copies of the stage are done: the original is enqueued and the stage is free (R228 step 4). -/
def Dev.stageDone (d : Dev) : Dev :=
  match d.chm.stage with
  | some x =>
    if x.left = 0 then
      let d1 := { d with chm := { d.chm with stage := none } }
      match x.orig with
      | some o => d1.enqueueAt o x.qframe
      | none => d1
    else d
  | none => d

/-- Ask for the copy of one replica. A copy from an invalid head has counted in BAD_HEAD and counts nowhere else (R262); one that finds no
buffer, or no memory at its source, is lost. -/
def Dev.replicate (d : Dev) (pool idx : Nat) (x : Dest) : Dev :=
  match d.requestCopy (.chimney x) pool idx with
  | (_, some .badHead, d1) => d1
  | (_, some .noBuf, d1) => d1.replicaLost x
  | (_, some .noReach, d1) => d1.replicaLost x
  | (_, _, d1) =>
    { d1 with chm := { d1.chm with stage := d1.chm.stage.map (fun y => { y with left := y.left + 1 }) } }

/-- A head that waited for its region to be filled is read. -/
def Dev.stageRead (d : Dev) : Dev :=
  match d.chm.stage with
  | some x => if x.unread then d.stageHead x else d
  | none => d

/-- `ENQUEUE` (R226–R228): the destinations of the staged frame are tested, its copies asked for, and a frame that needs none
is enqueued. -/
def execEnqueue (s : State) : Host.Outcome State Fault Refusal :=
  s.onDev (fun d0 =>
    let d := d0.stageRead
    match d.chm.stage with
    | some x =>
      if x.orig.isSome ∨ 0 < x.left ∨ x.unread then d
      else
        let (sn, d1) := d.takeSeq x.frame.queue.toNat
        let ds := d1.destinations x.frame
        let (got, d2) := if ds = [] then ([], d1.count .chmEmptyDrop) else d1.admits ds []
        match got with
        | [] => { d2 with chm := { d2.chm with stage := none } }.freeGen x.pool x.idx x.gen
        | o :: rest =>
          let d3 := { d2 with chm := { d2.chm with stage := some { x with seqNo := sn, orig := some o } } }
          (rest.foldl (fun d y => d.replicate x.pool x.idx y) d3).stageDone
    | none => d)

/-! ### The copy engine (R262, R263) -/

/-- One of the chimney's copies has ended. -/
def Dev.copyLess (d : Dev) : Dev :=
  { d with chm := { d.chm with stage := d.chm.stage.map (fun y => { y with left := y.left - 1 }) } }

/-- The waiting request taken next, of those whose source can be read: the oldest, of the other kind than the last taken when both kinds wait. -/
def Dev.nextCopy (d : Dev) : Option CopyReq :=
  let isChm := fun (q : CopyReq) => match q.who with | .chimney _ => true | .thread _ _ => false
  let ready := d.bpm.copyWait.filter (fun q => !d.copyHeld q)
  match ready.find? (fun q => isChm q != d.bpm.lastChm) with
  | some q => some q
  | none => ready.head?

/-- A copy that could not start, or that ended with an error, is answered; `lost` says that the chimney's replica counts as one without a
buffer. -/
def Dev.copyFailed (d : Dev) (q : CopyReq) (lost : Bool) : Dev :=
  match q.who with
  | .chimney x => ((if lost then d.replicaLost x else d).copyLess).stageDone
  | .thread g p =>
    if (d.thr g).wait = Wait.copy p q.id then
      d.respond g ⟨[], some (flagsZ true), none⟩
    else d

/-- Start waiting requests while there is room; `n` bounds them. -/
def Dev.startWaiting (d : Dev) : Nat → Dev
  | 0 => d
  | n + 1 =>
    if 32 ≤ d.bpm.copies.length then d
    else match d.nextCopy with
      | none => d
      | some q =>
        let chm := match q.who with | .chimney _ => true | .thread _ _ => false
        let d1 := { d with bpm := { d.bpm with copyWait := d.bpm.copyWait.filter (fun x => x.id ≠ q.id), lastChm := chm } }
        match d1.startCopy q with
        | (.started, d2) => d2.startWaiting n
        | (r, d2) => (d2.copyFailed q (decide (r ≠ .badHead))).startWaiting n

/-- A copy ends with an error completion (R45): its new buffer is freed, and it is answered as one that found no buffer (DEDUCED,
notes/assumptions/51.md). -/
def Dev.copyError (d : Dev) (j : CopyJob) : Dev :=
  ((d.freeBuf j.dstPool j.dstIdx).readDone j.srcPool j.srcIdx).copyFailed ⟨j.id, j.who, j.srcPool, j.srcIdx⟩ true

/-- A copy is whole: its replica is enqueued, or its thread goes on. -/
def Dev.copyWhole (d : Dev) (j : CopyJob) : Dev :=
  let d1 := d.copyData j
  match j.who with
  | .chimney x =>
    let sn := match d1.chm.stage with | some y => y.seqNo | none => none
    (((d1.copyLess).enqueueAt x ⟨j.dstPool, j.dstIdx, j.dstGen, j.len, 16 + d1.poolPad j.dstPool, sn⟩)).stageDone
  | .thread g p =>
    if (d1.thr g).wait = Wait.copy p j.id then
      let h := mkHandle j.dstPool j.dstGen j.dstIdx
      d1.respond g ⟨[(2 * p, h.1), (2 * p + 1, h.2)], some (flagsZ false), none⟩
    else d1

/-- Copies that waited for their source to be filled start (R287). -/
def Dev.tickCopies (d : Dev) : Dev := d.startWaiting d.bpm.copyWait.length

/-- `COPY_COMPLETE` (R262): the oldest copy in flight ends, of those that wait for no region to be filled; copies that wait start. -/
def execCopyComplete (s : State) : Host.Outcome State Fault Refusal :=
  s.onDev (fun d =>
    match d.bpm.copies.find? (fun j => !d.jobHeld j) with
    | none => d
    | some j =>
      let d1 : Dev := { d with bpm := { d.bpm with copies := d.bpm.copies.erase j } }
      let d2 := if d1.copyReach j then d1.copyWhole j else d1.copyError j
      d2.startWaiting (d2.bpm.copyWait.length))

end Sys2Proof.Machine
end

