-- ==== Sys2Proof/Machine/Bellows.lean ====
section
/-!
DEFINITION. The bellows (R307–R322): descriptors, elements, bursts, pauses, completions, channel commands, and what a
domain's power-down does to the channels that touch it.
-/
namespace Sys2Proof.Machine

/-! ### Channels -/

def Dev.bch (d : Dev) (n : Nat) : BlwCh := d.blw.chs.get BlwCh.init n
def Dev.setBch (d : Dev) (n : Nat) (c : BlwCh) : Dev :=
  { d with blw := { d.blw with chs := d.blw.chs.set BlwCh.init n c } }
def Dev.updBch (d : Dev) (n : Nat) (f : BlwCh → BlwCh) : Dev := d.setBch n (f (d.bch n))

/-- The five states of a channel as `STAT.STATE` shows them (R317). -/
def blwOff : Nat := 0
def blwIdle : Nat := 1
def blwRunning : Nat := 2
def blwPaused : Nat := 3
def blwHalted : Nat := 4

def Dev.blwState (d : Dev) (n : Nat) : Nat := d.fld .blwStat n 0 31 29
def Dev.blwCause (d : Dev) (n : Nat) : Nat := d.fld .blwStat n 0 28 27
/-- A channel enters a state; PCAUSE is nonzero only in PAUSED. -/
def Dev.blwTo (d : Dev) (n st cause : Nat) : Dev :=
  (d.setFld .blwStat n 0 31 29 st).setFld .blwStat n 0 28 27 cause

/-- Slots in the ring of channel `n`, its base, and HEAD and TAIL modulo its size (R307). -/
def Dev.blwSlots (d : Dev) (n : Nat) : Nat := 2 ^ d.fld .blwCfg n 0 31 28
def Dev.blwRing (d : Dev) (n : Nat) : Nat :=
  d.fld .blwRingHi n 0 3 0 * 2 ^ 32 + (d.rd .blwRingLo n).toNat / 32 * 32
def Dev.blwHead (d : Dev) (n : Nat) : Nat := d.fld .blwHead n 0 15 0 % d.blwSlots n
def Dev.blwTail (d : Dev) (n : Nat) : Nat := d.fld .blwTail n 0 15 0 % d.blwSlots n
/-- HEAD and TAIL are kept modulo 2^SIZE. -/
def Dev.blwReduce (d : Dev) (n : Nat) : Dev :=
  (d.setFld .blwHead n 0 15 0 (d.blwHead n)).setFld .blwTail n 0 15 0 (d.blwTail n)
/-- The ring holds a descriptor. -/
def Dev.blwWork (d : Dev) (n : Nat) : Bool := d.blwHead n != d.blwTail n
def Dev.blwSlot (d : Dev) (n : Nat) : Nat := d.blwRing n + d.blwHead n * 32

/-- A channel with nothing current is RUNNING when its ring holds a descriptor, else IDLE. -/
def Dev.blwGo (d : Dev) (n : Nat) : Dev :=
  d.blwTo n (if d.blwWork n ∨ (d.bch n).desc.isSome then blwRunning else blwIdle) 0

/-- A write of CFG that sets EN to 1 breaks no rule of R307: the ring lies in the granary or in one tagged LPDDR6 region (R430). -/
def Dev.blwLegal (d : Dev) (n : Nat) (v : W32) : Bool :=
  let a := d.blwRing n
  let size := bits v 31 28
  let z := a + 2 ^ size * 32 - 1
  let allowed := match d.taggedRegion a with
    | some 0 => true
    | some r => decide (100 ≤ r)
    | none => false
  decide (4 ≤ size ∧ size ≤ 12) && allowed && d.taggedRegion z == d.taggedRegion a

/-- An error status ends the descriptor once the bursts before it are complete; the first stands. -/
def Dev.blwEnd (d : Dev) (n st : Nat) : Dev :=
  d.updBch n (fun c => { c with ending := some (c.ending.getD st) })

/-- A channel whose pause has drained becomes PAUSED with its cause (R317). -/
def Dev.blwSettle (d : Dev) (n : Nat) : Dev :=
  let c := d.bch n
  if d.blwState n = blwRunning ∧ 0 < c.pausing ∧ c.bursts = [] then
    (d.setBch n { c with pausing := 0, walk := none }).blwTo n blwPaused c.pausing
  else d

/-- A pause is asked for: of a channel that pauses already, a FAULT overrides COMMAND (R322), and POWER stands and overrides both. -/
def Dev.blwPause (d : Dev) (n cause : Nat) : Dev :=
  if d.blwState n = blwIdle ∨ (d.blwState n = blwPaused ∧ cause = 3) then d.blwTo n blwPaused cause
  else if d.blwState n = blwRunning then
    (d.updBch n (fun c => { c with pausing := max c.pausing cause })).blwSettle n
  else d

/-- A translation fault pauses the channel: FADDR, SUBCAUSE and FAULT_DST, and event 192 + n (R317). -/
def Dev.blwFault (d : Dev) (n ctx va sub : Nat) (dst : Bool) : Dev :=
  let d1 := ((d.setFld .blwStat n 0 26 26 (if dst then 1 else 0)).setFld .blwStat n 0 11 8 sub).wr .blwFaddrHi n 0
    (BitVec.ofNat 32 (ctx * 256 + va / 2 ^ 32 % 16))
  let d2 := (d1.wr .blwFaddrLo n 0 (BitVec.ofNat 32 va)).updBch n (fun c => { c with faultTick := d.time.tick })
  (d2.blwPause n 2).raiseEvent (192 + n) 0

/-! ### Transfers of host rings (R320, R359) -/

/-- Words 0–4 of the descriptor that the link feeds: a COPY of one element with physical addresses. The link hands the element itself to the
channel, and the spec gives no list for the address in words 2–4: that address is free (DESIGN CHOICE, notes/assumptions/54.md). -/
def Dev.feedWords (d : Dev) : List W16 :=
  [0x1000, 1] ++ (List.range 3).map (fun k => Config.linkDescWord d.time.free k)

/-- The link feeds the channel's ring with a host ring's transfer of `len` bytes from `src` to `dst`: the descriptor at TAIL is written and
TAIL advances, and the channel, whose ring was empty, takes it. -/
def Dev.blwFeed (d : Dev) (n r src dst len : Nat) : Dev :=
  let half := fun (a : Nat) => [Word.plain (w16 (a / 2 ^ 32)), Word.plain (w16 (a / 65536)), Word.plain (w16 a)]
  let slot := d.blwRing n + d.blwTail n * 32
  let ws := d.feedWords
  let d1 := { d with time := { d.time with free := d.time.free + 1 } }
  let d2 := if d1.memOk slot then d1.storeWords slot (ws.map Word.plain) else d1
  let d3 := d2.setFld .blwTail n 0 15 0 ((d2.blwTail n + 1) % d2.blwSlots n)
  (((d3.setBch n { BlwCh.init with
    desc := some ws,
    item := some (half src ++ half dst ++ [Word.plain (w16 (len / 65536)), Word.plain (w16 len)]),
    ending := if d1.memOk slot then none else some 4,
    nextAt := (d.bch n).nextAt, feed := some r }).wr .blwPosElem n 0 0).wr .blwPosOfs n 0 0).blwTo n blwRunning 0

/-- The channel may carry a ring's next transfer: it is enabled, not stopped, its ring is empty and it carries nothing. -/
def Dev.blwTakes (d : Dev) (n : Nat) : Bool :=
  (d.blwState n == blwIdle || d.blwState n == blwRunning) && (d.bch n).desc.isNone && (d.bch n).pausing == 0 && !d.blwWork n

/-- The transfer of ring `r`, if the descriptor of the channel carries one, has completed with a status. -/
def Dev.feedDone (d : Dev) (st : Nat) : Option Nat → Dev
  | some r =>
    d.setRing r { d.ring r with xfer := (d.ring r).xfer.map (fun t => { t with done := some st }) }
  | none => d

/-! ### Descriptors (R309, R311, R318) -/

def BlwCh.dword (c : BlwCh) (k : Nat) : Nat := ((c.desc.getD []).getD k 0).toNat
/-- SNOOP, EVT, SV and DV are bits 11 to 8 of word 0. -/
def BlwCh.flag (c : BlwCh) (b : Nat) : Bool := ((c.desc.getD []).getD 0 0).getLsbD b
def BlwCh.zeroes (c : BlwCh) : Bool := c.dword 0 / 4096 == 2
def BlwCh.ctx (c : BlwCh) : Nat := c.dword 0 % 32
def BlwCh.count (c : BlwCh) : Nat := c.dword 1
/-- The address of the current element. -/
def BlwCh.itemAddr (c : BlwCh) : Nat := c.dword 2 % 16 * 2 ^ 32 + c.dword 3 * 65536 + c.dword 4 / 16 * 16 + c.elem * 16

/-- Words 0–4 of a descriptor pass the checks of R311. -/
def descOk (ws : List Word) : Bool :=
  let v := fun k => (ws.getD k Word.zero).v.toNat
  ws.all Word.isPlain && (v 0 / 4096 == 1 || v 0 / 4096 == 2) && v 0 / 32 % 8 == 0 && v 1 != 0 && v 2 / 16 == 0 &&
  v 4 % 16 == 0

/-- The channel reads words 0–4 of the descriptor at HEAD; its position is the start. -/
def Dev.blwStartDesc (d : Dev) (n : Nat) : Dev :=
  let a := d.blwSlot n
  let (ws, d1) := d.readWords a 5
  let c := d1.bch n
  let c1 := { BlwCh.init with desc := some (ws.map Word.v), nextAt := c.nextAt }
  let c2 := if !d.memOk a then { c1 with ending := some 4 } else if !descOk ws then { c1 with ending := some 1 } else c1
  ((d1.setBch n c2).wr .blwPosElem n 0 0).wr .blwPosOfs n 0 0

/-- `DESCRIPTOR_START` (R307, R311). -/
def execDescriptorStart (n : Fin 64) (s : State) : Host.Outcome State Fault Refusal :=
  s.onDev (fun d =>
    if d.blwState n = blwRunning ∧ (d.bch n).desc.isNone ∧ (d.bch n).pausing = 0 ∧ d.blwWork n then
      if d.filling (d.blwSlot n) then d else d.blwStartDesc n
    else d)

/-- The current descriptor has nothing more to move. -/
def BlwCh.ready (c : BlwCh) : Bool :=
  c.desc.isSome && c.bursts.isEmpty && c.pausing == 0 && (c.ending.isSome || decide (c.count ≤ c.elem))

/-- The descriptor ends: words 12–15 are stored, HEAD advances, the counters count, EVT raises event 192 + n, and the channel
goes on or halts (R318). -/
def Dev.blwFinish (d : Dev) (n : Nat) : Dev :=
  let c := d.bch n
  let st := c.ending.getD 0
  let ofs := d.rd .blwPosOfs n
  let a := d.blwSlot n + 24
  let d1 := if d.memOk a then
      d.storeWords a [Word.plain (w16 (0x8000 + st)), Word.plain (lo16 (d.rd .blwPosElem n)), Word.plain (hi16 ofs),
        Word.plain (lo16 ofs)]
    else d
  let d2 := ((d1.setFld .blwHead n 0 15 0 ((d1.blwHead n + 1) % d1.blwSlots n)).setBch n
    { BlwCh.init with nextAt := c.nextAt }).feedDone st c.feed
  let d3 := (d2.count .blwDescs).setFld .blwStat n 0 7 0 st
  let d4 := if st = 0 then d3 else d3.count .blwErrors
  let d5 := if c.flag 10 then d4.raiseEvent (192 + n) 0 else d4
  if st ≠ 0 ∧ d5.bit .blwCfg n 0 1 then d5.blwTo n blwHalted 0 else d5.blwGo n

/-- `DESCRIPTOR_COMPLETE` (R318). -/
def execDescriptorComplete (n : Fin 64) (s : State) : Host.Outcome State Fault Refusal :=
  s.onDev (fun d =>
    if d.blwState n = blwRunning ∧ (d.bch n).ready ∧ ¬ d.filling (d.blwSlot n) then d.blwFinish n else d)

/-! ### Elements (R310, R311, R313) -/

/-- An element's source, destination and length. -/
structure BlwItem where
  src : Nat
  dst : Nat
  len : Nat

def itemOf (ws : List Word) : BlwItem :=
  let v := fun k => (ws.getD k Word.zero).v.toNat
  ⟨v 0 % 16 * 2 ^ 32 + v 1 * 65536 + v 2, v 3 % 16 * 2 ^ 32 + v 4 * 65536 + v 5, v 6 * 65536 + v 7⟩

/-- An element passes the checks of R311, the elements before it moving `total` bytes. -/
def itemOk (ws : List Word) (total : Nat) : Bool :=
  let v := fun k => (ws.getD k Word.zero).v.toNat
  let len := (itemOf ws).len
  ws.all Word.isPlain && v 0 / 16 == 0 && v 3 / 16 == 0 && len != 0 && decide (total + len ≤ 2 ^ 32)

/-- The bellows may touch the address (R313): memory whose domain is not off, or a host window. -/
def Dev.blwReach (d : Dev) (pa : Nat) : Bool :=
  match d.region pa with
  | .host _ => d.domOn domLink
  | _ => d.memOk pa

def Dev.isHost (d : Dev) (pa : Nat) : Bool :=
  match d.region pa with
  | .host _ => true
  | _ => false

/-- The path rate of a region, in sixteenths of a byte per FABCLK (R315). -/
def Dev.pathRate (d : Dev) (pa : Nat) : Nat :=
  match d.region pa with
  | .host _ => 189
  | .lpddr _ => 1536
  | _ => 1024

/-- FABCLK from the start of a burst of `b` bytes to the next (R315). -/
def rateGap (b share p : Nat) : Nat := (b * 4096 + (share + 1) * p - 1) / ((share + 1) * p)

/-- What reading an address for the bellows comes to: a physical address, a walk that must end first, or a translation
fault. -/
inductive BlwAddr where
  | pa (a : Nat)
  | wait (d : Dev)
  | fault (sub : Nat)

/-- The walks of the bellows in flight, in the order of their starts: context and page, each with its channel. -/
def Dev.blwWalks (d : Dev) : List ((Nat × Nat) × Nat) :=
  d.blw.walks.filterMap (fun n => (d.bch n).walk.map (fun w => (((d.bch n).ctx, w.1 / 65536), n)))

/-- A miss of channel `n`: its walk starts, or it joins another channel's walk of the page (R296). -/
def Dev.blwWalk (d : Dev) (n va : Nat) : Dev :=
  let joins := d.blwWalks.any (fun w => w.1 == ((d.bch n).ctx, va / 65536) &&
    (match (d.bch w.2).walk with | some (_, stale) => !stale | none => false))
  let d1 := (if joins then d else d.count .mmuBlwTlbMisses).updBch n (fun c => { c with walk := some (va, false) })
  { d1 with blw := { d1.blw with walks := d1.blw.walks.filter (· ≠ n) ++ [n] } }

/-- Translate an element address in the descriptor's context through the bellows TLB (R296, R310). -/
def Dev.blwTranslate (d : Dev) (n va : Nat) (virt store : Bool) : BlwAddr :=
  if !virt then .pa va
  else match d.translate d.mmu.blwTlb (d.bch n).ctx va store with
    | .ok pa _ => .pa pa
    | .fault s => .fault s
    | .miss => .wait (d.blwWalk n va)

/-- Where the page of an element address lies, if its tables say so. -/
def Dev.blwPage (d : Dev) (n va : Nat) (virt store : Bool) : Option Nat :=
  if !virt then some va
  else match d.translate d.mmu.blwTlb (d.bch n).ctx va store with
    | .ok pa _ => some pa
    | .fault _ => none
    | .miss =>
      match (d.walk (d.bch n).ctx va store).1 with
      | .inr e => some (e.pa va)
      | .inl _ => none

/-- The physical pieces of `len` bytes of an element from an address on, page by page of 64 KiB, where its tables give them. -/
def Dev.blwPieces (d : Dev) (n va len : Nat) (virt store : Bool) : List (Nat × Nat) :=
  (List.range ((va + len + 65535) / 65536 - va / 65536)).filterMap (fun k =>
    let lo := max va ((va / 65536 + k) * 65536)
    let hi := min (va + len) ((va / 65536 + k + 1) * 65536)
    (d.blwPage n lo virt store).map (fun pa => (pa, hi - lo)))

/-- The bellows TLB after a use of the entry that covers an address. -/
def Dev.blwTlbUse (d : Dev) (ctx va : Nat) : Dev :=
  { d with mmu := { d.mmu with blwTlb := tlbUse d.mmu.blwTlb ctx va } }

/-- The bellows TLB after a use of the entries that cover the source segments of a burst. -/
def Dev.blwSourceUse (d : Dev) (ctx va : Nat) : List (Nat × Nat) → Dev
  | [] => d
  | (_, m) :: r => (d.blwTlbUse ctx va).blwSourceUse ctx (va + m) r

/-- Part of a burst's source: where it lies and how long it is, within one 64 KiB page. -/
abbrev Seg := Nat × Nat

/-- The source segments of `len` bytes from a virtual or physical address on; at most two. -/
def Dev.blwSource (d : Dev) (n va len : Nat) (virt : Bool) : Nat → (BlwAddr × Nat) ⊕ List Seg
  | 0 => .inr []
  | k + 1 =>
    if len = 0 then .inr []
    else
      let m := min len (65536 - va % 65536)
      match d.blwTranslate n va virt false with
      | .pa a =>
        match d.blwSource n (va + m) (len - m) virt k with
        | .inr l => .inr ((a, m) :: l)
        | x => x
      | x => .inl (x, va)

/-! ### Reading (R316) -/

/-- The hearth and the line that supply a word which the bellows reads: with SNOOP, of a granary or LPDDR6 word, a dirty copy. -/
def Dev.blwHit (d : Dev) (snoop : Bool) (pa : Nat) : Option (Nat × Line) :=
  let hit := (List.range 16).findSome? (fun h => (d.snoopLine h pa).map (fun l => (h, l)))
  if !snoop then none
  else match d.region pa with
    | .granary _ => hit
    | .lpddr _ => hit
    | _ => none

/-- `k` words from an even address on; each line that a cache supplies counts once in `BLW.SNOOP_HITS` (`last` is the line counted last),
and each check unit that is read, of memory (`met` is the one met last) or of a line, reports its error once (R41). -/
def Dev.blwWords (d : Dev) (snoop : Bool) (pa : Nat) (last met : Option Nat) : Nat → List Word × Dev
  | 0 => ([], d)
  | n + 1 =>
    let hit := d.blwHit snoop pa
    let k := pa / 2 % 32
    let w := match hit with
      | some (_, l) => l.over k (d.seenWord pa)
      | none => d.seenWord pa
    let d1 := match hit with
      | some (h, l) => (if last = some (pa / 64) then d else d.count .blwSnoopHits).lineMeet h l k 1
      | none => d
    let reads := match hit with
      | some (_, l) => !l.hasUnit (k / 4)
      | none => true
    let d2 := if reads then (if met = some (d.eccKey pa) then d1.countRead pa 1 else (d1.countRead pa 1).eccMeet pa) else d1
    let (ws, d3) := d2.blwWords snoop (pa + 2) (if hit.isSome then some (pa / 64) else last)
      (if reads then some (d.eccKey pa) else met) n
    (w :: ws, d3)

/-- The words that hold a segment's bytes. -/
def Dev.blwRead (d : Dev) (snoop : Bool) (g : Seg) : List Word × Dev :=
  d.blwWords snoop (g.1 / 2 * 2) none none ((g.1 + g.2 + 1) / 2 - g.1 / 2)

/-- The bytes of words, each with whether its word is POISON, `n` of them from the first byte at an address on. -/
def segBytes (pa n : Nat) (ws : List Word) : List (W8 × Bool) :=
  (((ws.map (fun (w : Word) => [((w.v >>> (8 : Nat)).truncate 8, w.isPoison), (w.v.truncate 8, w.isPoison)])).flatten).drop
    (pa % 2)).take n

/-! ### Bursts (R312–R315) -/

/-- Room for one more burst of channel `n` in the staging buffer. -/
def Dev.blwRoom (d : Dev) (n : Nat) : Bool :=
  decide ((d.bch n).bursts.length < d.fld .blwCfg n 0 12 8) &&
  decide ((d.blw.chs.entries.map (fun e => e.2.bursts.length)).foldl (· + ·) 0 < 512)

/-- The read of the channel's next element waits: for a region being filled (R287), or for a tag. -/
def Dev.blwItemWaits (d : Dev) (n : Nat) : Bool :=
  let a := (d.bch n).itemAddr
  (d.bch n).item.isNone && (match d.region a with
    | .host _ => d.linkUp && d.freeTag.isNone
    | _ => d.filling a)

/-- The read engine may serve channel `n` now. -/
def Dev.blwServes (d : Dev) (n : Nat) : Bool :=
  let c := d.bch n
  d.bit .blwCtrl 0 0 0 && d.blwState n == blwRunning && c.desc.isSome && c.ending.isNone && c.pausing == 0 &&
  c.walk.isNone && c.itemTag.isNone && decide (c.elem < c.count) && decide (c.nextAt ≤ d.fabclk + 9) && d.blwRoom n &&
  !d.blwItemWaits n

/-- The channel that the read engine serves next: the highest PRIO, in rotation after the one it last served. -/
def Dev.blwPick (d : Dev) : Option Nat :=
  [3, 2, 1, 0].findSome? (fun p =>
    pickFrom 64 (d.blw.last.get 0 p) (fun n => d.blwServes n && d.fld .blwCfg n 0 5 4 == p) 64)

/-- Read the current element's eight words, from memory or with a read from the host. -/
def Dev.blwFetchItem (d : Dev) (n : Nat) : Dev :=
  let a := (d.bch n).itemAddr
  match d.region a with
  | .host w =>
    if !d.linkUp then d.blwEnd n 4
    else match d.hostRead (.bellows n) (d.hostAddr w a) 16 with
      | some (t, d1) => d1.updBch n (fun c => { c with itemTag := some t })
      | none => d
  | _ =>
    if !d.memOk a then d.blwEnd n 4
    else if d.filling a then d
    else let (ws, d1) := d.readWords a 8; d1.updBch n (fun c => { c with item := some ws })

/-- The channel moves on past a burst of `len` bytes that started now; P is the path rate. -/
def Dev.blwAdvance (d : Dev) (n len total p : Nat) : Dev :=
  let c := d.bch n
  let start := max c.nextAt d.fabclk
  let c1 := { c with nextAt := start + rateGap len (d.fld .blwCfg n 0 23 16) p }
  let c2 := if c.ofs + len = total then
      { c1 with elem := c.elem + 1, ofs := 0, item := none, total := c.total + total }
    else { c1 with ofs := c.ofs + len }
  (d.setBch n c2)

/-- A burst joins the channel's staging. -/
def Dev.blwStage (d : Dev) (n : Nat) (b : Burst) : Dev := d.updBch n (fun c => { c with bursts := c.bursts ++ [b] })

/-- Send the reads of a burst's segments that lie in host windows: the tags with the offsets in the burst, none when tags are
short. -/
def Dev.blwHostReads (d : Dev) (n ofs : Nat) : List Seg → Option (List (Nat × Nat) × Dev)
  | [] => some ([], d)
  | (a, m) :: r =>
    match d.region a with
    | .host w =>
      match d.hostRead (.bellows n) (d.hostAddr w a) m with
      | none => none
      | some (t, d1) =>
        match d1.blwHostReads n (ofs + m) r with
        | none => none
        | some (l, d2) => some ((t, ofs) :: l, d2)
    | _ => d.blwHostReads n (ofs + m) r

/-- An element of odd addresses or length has a tagged part of its source or destination (R313): it ends before its first burst. -/
def Dev.blwMisaligned (d : Dev) (n : Nat) (it : BlwItem) : Bool :=
  let c := d.bch n
  let odd := fun (x : Nat) => x % 2 == 1
  let part := fun (va : Nat) (virt store : Bool) => (d.blwPieces n va it.len virt store).any (fun g => d.tagged g.1)
  ((!c.zeroes && odd it.src) || odd it.dst || odd it.len) &&
    ((!c.zeroes && part it.src (c.flag 9) false) || part it.dst (c.flag 8) true)

/-- The source of a burst is read: its words or bytes, or the tags of the reads that bring them, or the status of an error. None: a segment lies
in a region that is being filled (R287), or the tags do not suffice (R350). -/
def Dev.blwFill (d : Dev) (n : Nat) (b : Burst) (segs : List Seg) : Option (Burst × Dev) :=
  let dstTagged := d.tagged b.dst
  let fail := fun (st : Nat) => { b with ready := true, segs := [], failed := some st }
  if segs.any (fun g => d.filling g.1 || d.filling (g.1 + g.2 - 1)) then none
  else if segs.any (fun g => d.isHost g.1) ∧ !d.linkUp then some (fail 4, d)
  else match d.blwHostReads n 0 segs with
    | none => none
    | some (tags, d0) =>
      let (parts, d1) := segs.foldl (fun (x : List (Seg × List Word) × Dev) g =>
        if d0.isHost g.1 then (x.1 ++ [(g, List.replicate ((g.1 + g.2 + 1) / 2 - g.1 / 2) Word.zero)], x.2)
        else let (ws, d1) := x.2.blwRead ((d.bch n).flag 11) g; (x.1 ++ [(g, ws)], d1)) ([], d0)
      let ws := (parts.map Prod.snd).flatten
      if !dstTagged && ws.any Word.isRef then some (fail 5, d1)
      else if d.isHost b.dst && ws.any Word.isPoison then some (fail 6, d1)
      else
        some ({ b with words := if dstTagged then some ws else none,
                       bytes := if dstTagged then [] else (parts.map (fun x => segBytes x.1.1 x.1.2 x.2)).flatten,
                       ready := tags.isEmpty, tags := tags, segs := [] }, d1)

/-- A burst of `len` bytes of the current element is started towards `dst`, from the segments of its source (none for ZERO). One whose source
cannot be read yet takes its place in the staging all the same (R314). -/
def Dev.blwBurst (d : Dev) (n : Nat) (it : BlwItem) (dst len : Nat) (segs : List Seg) : Dev :=
  let c := d.bch n
  let ends := (segs.map (fun g => [g.1, g.1 + g.2 - 1])).flatten
  let dstTagged := d.tagged dst
  let b : Burst := ⟨c.elem, c.ofs, len, dst, none, [], true, [], [], none⟩
  let rate := fun l => l.foldl (fun p a => min p (d.pathRate a)) (d.pathRate dst)
  if !((dst :: (dst + len - 1) :: ends).all d.blwReach) then d.blwEnd n 4
  else if c.zeroes then
    (d.blwStage n { b with words := if dstTagged then some (List.replicate (len / 2) Word.zero) else none,
                           bytes := if dstTagged then [] else List.replicate len (0, false) }).blwAdvance n len it.len
      (rate [])
  else match d.blwFill n b segs with
    | none => (d.blwStage n { b with ready := false, segs := segs }).blwAdvance n len it.len (rate ends)
    | some (b1, d1) =>
      match b1.failed with
      | some st => d1.blwEnd n st
      | none => (d1.blwStage n b1).blwAdvance n len it.len (rate ends)

/-- The bursts of channel `n` whose source could not be read when they were started are read, in their order, as far as that can be. -/
def Dev.blwFillLate (d : Dev) (n : Nat) (done : List Burst) : List Burst → Dev
  | [] => d
  | b :: r =>
    if b.segs = [] then d.blwFillLate n (done ++ [b]) r
    else match d.blwFill n b b.segs with
      | none => d
      | some (b1, d1) => (d1.updBch n (fun c => { c with bursts := done ++ b1 :: r })).blwFillLate n (done ++ [b1]) r

/-- The read engine goes on with the bursts of every channel that wait to be read. -/
def Dev.blwFillAll (d : Dev) : Dev :=
  (d.blw.chs.entries.map Prod.fst).foldl (fun d n =>
    if (d.bch n).bursts.any (fun b => b.segs != []) then d.blwFillLate n [] (d.bch n).bursts else d) d

/-- The read engine starts the next burst of channel `n`, or reads its element first. -/
def Dev.blwStart (d : Dev) (n : Nat) : Dev :=
  let c := d.bch n
  match c.item with
  | none => d.blwFetchItem n
  | some ws =>
    if !itemOk ws c.total then d.blwEnd n 2
    else if c.ofs = 0 ∧ c.feed.isNone ∧ d.blwMisaligned n (itemOf ws) then d.blwEnd n 3
    else
      let it := itemOf ws
      let dva := it.dst + c.ofs
      let len := min (512 - dva % 512) (it.len - c.ofs)
      let dst := fun (d : Dev) (segs : List Seg) =>
        match d.blwTranslate n dva (c.flag 8) true with
        | .wait d1 => d1
        | .fault s => d.blwFault n c.ctx dva s true
        | .pa a => (if c.flag 8 then d.blwTlbUse c.ctx dva else d).blwBurst n it a len segs
      if c.zeroes then dst d []
      else match d.blwSource n (it.src + c.ofs) len (c.flag 9) 3 with
        | .inl (.wait d1, _) => d1
        | .inl (.fault s, va) => d.blwFault n c.ctx va s false
        | .inl (.pa _, _) => d
        | .inr segs => dst (if c.flag 9 then d.blwSourceUse c.ctx (it.src + c.ofs) segs else d) segs

/-- The read engine serves the next channel: an element that is in memory is read and its burst started at once. -/
def Dev.blwServe (d : Dev) (n : Nat) : Dev :=
  let p := d.fld .blwCfg n 0 5 4
  let d1 := { d with blw := { d.blw with last := d.blw.last.set 0 p ((n + 1) % 64) } }
  let d2 := d1.blwStart n
  if (d1.bch n).item.isNone ∧ (d2.bch n).item.isSome then d2.blwStart n else d2

/-- `BURST_START` (R312, R314, R315). -/
def execBurstStart (s : State) : Host.Outcome State Fault Refusal :=
  s.onDev (fun d0 =>
    let d := d0.blwFillAll
    match d.blwPick with
    | some n => d.blwServe n
    | none => d)

/-- Apply `f` while the domains that drain still serve what was started in them (R399). -/
def Dev.whileDraining (d : Dev) (f : Dev → Dev) : Dev :=
  let ds := (List.range 40).filter (fun k => d.fld .pwrDom k 0 31 30 == 3)
  ds.foldl (fun d k => d.setFld .pwrDom k 0 31 30 3) (f (ds.foldl (fun d k => d.setFld .pwrDom k 0 31 30 2) d))

/-- The target accepts the bytes of a burst: through a host window a posted write, lost while the link is not ACTIVE (R345); the Bool says that
it was not lost. -/
def Dev.blwWrite (d : Dev) (b : Burst) : Dev × Bool :=
  match d.region b.dst with
  | .host w => d.hostWriteBytes (d.hostAddr w b.dst) b.bytes
  | _ =>
    match b.words with
    | some ws => (d.storeWords b.dst ws, true)
    | none => (d.storeBytes b.dst b.bytes, true)

/-- A burst whose bytes came with an error, or whose target is gone, ends the descriptor. -/
def Dev.burstError (d : Dev) (b : Burst) : Option Nat :=
  match b.failed with
  | some st => some st
  | none =>
    if !d.blwReach b.dst then some 4
    else if d.isHost b.dst ∧ b.bytes.any Prod.snd then some 6
    else none

/-- The oldest burst of channel `n` is written, and its position advances. A write of a host ring's transfer that the link does not take is an
error of it (R362). -/
def Dev.burstDone (d0 : Dev) (n : Nat) : Dev :=
  let d := d0.blwFillLate n [] (d0.bch n).bursts
  let c := d.bch n
  let fail := fun (d : Dev) (st : Nat) => ((d.setBch n { c with bursts := [] }).blwEnd n st).blwSettle n
  match c.bursts with
  | [] => d
  | b :: r =>
    if !b.ready ∨ d.filling b.dst then d
    else match d.burstError b with
      | some st => fail d st
      | none =>
        match (d.setBch n { c with bursts := r }).blwWrite b with
        | (d1, ok) =>
          if !ok ∧ c.feed.isSome then fail d1 4
          else
            (((d1.count .blwBytes n 0 b.len).wr .blwPosElem n 0 (BitVec.ofNat 32 b.elem)).wr .blwPosOfs n 0
              (BitVec.ofNat 32 (b.ofs + b.len))).blwSettle n

/-- `BURST_COMPLETE` (R312): a domain that drains still takes the bursts already read (R317). -/
def execBurstComplete (n : Fin 64) (s : State) : Host.Outcome State Fault Refusal :=
  s.onDev (·.whileDraining (·.burstDone n))

/-- A host read of channel `n` is answered under a tag: the words of its element, or part of a burst; `none`, it failed. -/
def Dev.blwArrive (d : Dev) (n tag : Nat) (data : Option (List (W8 × Bool))) : Dev :=
  let c := d.bch n
  if c.itemTag = some tag then
    match data with
    | some bs => d.setBch n { c with itemTag := none, item := some (messageWords bs) }
    | none => (d.setBch n { c with itemTag := none }).blwEnd n 4
  else
    d.setBch n { c with bursts := c.bursts.map (fun b =>
      match b.tags.find? (fun t => t.1 == tag) with
      | none => b
      | some (_, o) =>
        let left := b.tags.filter (fun t => t.1 ≠ tag)
        match data with
        | some bs =>
          let put := fun (ws : List Word) => ws.take (o / 2) ++ messageWords bs ++ ws.drop ((o + bs.length) / 2)
          { b with bytes := if b.words.isSome then [] else b.bytes.take o ++ bs ++ b.bytes.drop (o + bs.length),
                   words := b.words.map put, tags := left, ready := left.isEmpty }
        | none => { b with failed := some 4, tags := left, ready := left.isEmpty }) }

/-- The walk of channel `n` is one of the four that the bellows runs at once (R296). -/
def Dev.blwWalking (d : Dev) (n : Nat) : Bool :=
  ((((d.blwWalks.map Prod.fst).eraseDups).take 4).any (fun k => d.blwWalks.contains (k, n)))

/-- The address that channel `n` walks for is the destination of its current element. -/
def Dev.blwWalksDst (d : Dev) (n va : Nat) : Bool :=
  let c := d.bch n
  match c.item with
  | some ws => va == (itemOf ws).dst + c.ofs && c.flag 8 && (c.zeroes || (match
      d.blwSource n ((itemOf ws).src + c.ofs) (min (512 - va % 512) ((itemOf ws).len - c.ofs)) (c.flag 9) 3 with
        | .inr _ => true
        | _ => false))
  | none => false

/-- The walk for which channel `n` waits has faulted: the channel pauses (R317). A channel that reads is not stopped by the WRITE fault of
one that writes, and walks again. -/
def Dev.blwWalkFault (d : Dev) (n sub : Nat) : Dev :=
  match (d.bch n).walk with
  | none => d
  | some (va, _) =>
    let store := d.blwWalksDst n va
    let d1 := d.updBch n (fun c => { c with walk := none })
    if (sub = 3 ∧ !store) ∨ d.blwState n ≠ blwRunning then d1 else d1.blwFault n (d.bch n).ctx va sub store

/-- The walk of channel `n` ends (R291–R298): an entry is installed, unless an invalidation passed the walk, or the fault pauses the
channel and those that joined the walk. A walk that waits for one of the four to end, or that reads a region being filled (R287), is not
done. -/
def Dev.blwWalkDone (d : Dev) (n : Nat) : Dev :=
  let c := d.bch n
  match c.walk with
  | none => d
  | some (va, stale) =>
    let d0 := d.setBch n { c with walk := none }
    if !d.blwWalking n ∨ d.walkWaits c.ctx va then d
    else if stale then d0
    else
      let store := d.blwWalksDst n va
      match d.translate d.mmu.blwTlb c.ctx va store with
      | .miss =>
        match d.walk c.ctx va store with
        | (.inl sub, d1) =>
          ((d.blwWalks.filter (fun w => w.1 == (c.ctx, va / 65536) &&
            (match (d.bch w.2).walk with | some (_, st) => !st | none => false))).map Prod.snd).foldl
              (fun d k => d.blwWalkFault k sub) (d1.count .mmuBlwWalkFaults)
        | (.inr e, _) =>
          let d1 := (d0.walk c.ctx va store).2
          { d1 with mmu := { d1.mmu with blwTlb := tlbInstall d1.mmu.blwTlb e 64 } }
      | _ => d0

/-! ### Commands (R319) -/

/-- The channel's outstanding host reads are answered to nobody. -/
def Dev.blwOrphan (d : Dev) (n : Nat) : Dev :=
  { d with lnk := { d.lnk with reads := ⟨d.lnk.reads.entries.map (fun e =>
      match e.2 with
      | some r => if r.agent = .bellows n then (e.1, some { r with agent := .nobody }) else e
      | none => e)⟩ } }

/-- The channel drops the bursts it has not written. -/
def Dev.blwDrop (d : Dev) (n : Nat) : Dev :=
  (d.blwOrphan n).updBch n (fun c => { c with bursts := [], itemTag := none, walk := none, pausing := 0 })

/-- The channel gives a host ring's transfer up: its descriptor is to end as after an ABORT. A channel that has paused for power does so once it
resumes. -/
def Dev.blwUnfeed (d : Dev) (n : Nat) : Dev :=
  let d1 := (d.blwDrop n).updBch n (fun c => { c with ending := some 8, feed := none,
                                                      pausing := if (d.bch n).pausing = 3 then 3 else 0 })
  if d.blwState n = blwPaused ∧ d.blwCause n = 3 then d1 else if (d.bch n).pausing = 3 then d1.blwSettle n else d1.blwTo n blwRunning 0

/-- RESET: the channel stops at once, OFF with EN = 0, HEAD naming the descriptor in progress. A translation fault of the same time gives
the position (R322). -/
def Dev.blwStop (d : Dev) (n : Nat) : Dev :=
  let c := d.bch n
  let d1 := if c.pausing = 2 ∧ c.faultTick = d.time.tick then
      (d.wr .blwPosElem n 0 (BitVec.ofNat 32 c.elem)).wr .blwPosOfs n 0 (BitVec.ofNat 32 c.ofs)
    else d
  (((d1.blwOrphan n).updBch n (fun c => { BlwCh.init with nextAt := c.nextAt })).setBit .blwCfg n 0 0 false).blwTo n
    blwOff 0

/-- ABORT of the current descriptor: it ends at its position, whatever error it was to end with. -/
def Dev.blwAbortNow (d : Dev) (n : Nat) : Dev :=
  let st := if d.blwState n = blwPaused ∧ d.blwCause n = 2 then 7 else 8
  ((d.blwDrop n).updBch n (fun c => { c with ending := some st })).blwTo n blwRunning 0

/-- The next descriptor of a RUNNING channel is started and aborted. -/
def Dev.blwAbortNext (d : Dev) (n : Nat) : Dev := (d.blwStartDesc n).blwAbortNow n

/-- One channel command, 0 PAUSE, 1 RESUME, 2 ABORT, 3 RESET, and whether it suits the channel's state. -/
def Dev.blwCmd (d : Dev) (n cmd : Nat) : Dev × Bool :=
  let st := d.blwState n
  let c := d.bch n
  match cmd with
  | 0 => if st = blwRunning ∨ st = blwIdle then (d.blwPause n 1, true) else (d, false)
  | 1 => if (st = blwPaused ∧ d.blwCause n ≠ 3) ∨ st = blwHalted then (d.blwGo n, true) else (d, false)
  | 2 =>
    if (st = blwRunning ∨ st = blwPaused) ∧ c.desc.isSome then
      if st = blwRunning ∧ c.ready ∧ c.ending.isNone then
        let d1 := d.blwFinish n
        if d1.blwState n = blwRunning then (d1.blwAbortNext n, true) else (d1, false)
      else (d.blwAbortNow n, true)
    else if st = blwRunning then (d.blwAbortNext n, true)
    else (d, false)
  | _ => (d.blwStop n, true)

/-- A write of `BLW.CH[n].CMD`: the commands whose bits are set, in bit order; a write with one that does not suit is logged, once
(R319, R428). -/
def Dev.blwCmds (d : Dev) (r : Req) (n : Nat) (v : W32) : Dev :=
  let out := [0, 1, 2, 3].foldl (fun (x : Dev × Bool) k =>
    if v.getLsbD k then
      let y := x.1.blwCmd n k
      (y.1, x.2 && y.2)
    else x) (d, true)
  if out.2 then out.1 else out.1.reject r (RegKind.off .blwCmd n 0)

/-- EN of a channel was written: 0 to 1 starts it; 1 to 0 acts as RESET. -/
def Dev.blwEnWritten (d : Dev) (n : Nat) (was now : Bool) : Dev :=
  if !was && now then d.blwGo n else if was && !now then d.blwStop n else d

/-- TAIL of channel `n` was written, by firmware or for a host ring (R307, R320). -/
def Dev.blwTailWritten (d : Dev) (n v : Nat) : Dev :=
  let d1 := d.wr .blwTail n 0 (BitVec.ofNat 32 (v % d.blwSlots n))
  if d1.blwState n = blwIdle ∨ (d1.blwState n = blwRunning ∧ (d1.bch n).desc.isNone ∧ (d1.bch n).pausing = 0) then
    d1.blwGo n
  else d1

/-! ### Power (R321) -/

/-- The switchable domain that an address lies in, whatever its state. -/
def Dev.domOf (d : Dev) (pa : Nat) : Option Nat :=
  if 0x100000000 ≤ pa ∧ pa < 0x900000000 then
    ((List.range 4).find? (fun c => d.bit .memMcCfg c 0 31 && (mcFill c (d.rd .memMcCfg c) false).has (pa / 2))).map domMc
  else match d.region pa with
  | .granary b => some (domGran b)
  | .larder h => some (domHearth h)
  | .window h => some (domHearth h)
  | .host _ => some domLink
  | _ => none

/-- Addresses of a span, one in each part of it that can lie in a domain of its own: within 64 KiB, the channels of an interleaved set
follow each other by pages of 4 KiB (R285). -/
def spanMarks (a len : Nat) : List Nat :=
  ((List.range ((a + len + 65535) / 65536 - a / 65536)).flatMap (fun k =>
    let lo := max a ((a / 65536 + k) * 65536)
    let hi := min (a + len) ((a / 65536 + k + 1) * 65536)
    [lo, lo + 4096, lo + 8192, lo + 12288].filter (· < hi) ++ [hi - 1])).eraseDups

/-- The addresses by which channel `n` touches domains: its ring, and of its current descriptor the element list and the
current element's source and destination. -/
def Dev.blwPlaces (d : Dev) (n : Nat) : List Nat :=
  let c := d.bch n
  let part := fun (va len : Nat) (virt store : Bool) => (d.blwPieces n va len virt store).flatMap (fun g => spanMarks g.1 g.2)
  if d.blwState n = blwOff then []
  else spanMarks (d.blwRing n) (d.blwSlots n * 32) ++
    (if c.desc.isSome ∧ c.feed.isNone then spanMarks (c.itemAddr - c.elem * 16) (c.count * 16) else []) ++
    (match c.item with
      | some ws =>
        let it := itemOf ws
        (if c.zeroes then [] else part it.src it.len (c.flag 9) false) ++ part it.dst it.len (c.flag 8) true
      | none => []) ++ c.bursts.map Burst.dst

/-- Channel `n` touches domain `dom`. -/
def Dev.blwTouches (d : Dev) (n dom : Nat) : Bool := (d.blwPlaces n).any (fun a => d.domOf a == some dom)

/-- The channel pauses for power, or has paused. -/
def Dev.blwForPower (d : Dev) (n : Nat) : Bool :=
  (d.blwState n == blwPaused && d.blwCause n == 3) || (d.bch n).pausing == 3

/-- A domain is asked to power down: the channels that touch it pause with cause POWER, and wait for it. -/
def Dev.blwPowerPause (d : Dev) (dom : Nat) : Dev :=
  (List.range 64).foldl (fun d n =>
    if d.blwTouches n dom then
      let d1 := d.blwPause n 3
      if d1.blwForPower n then d1.updBch n (fun c => { c with waits := c.waits.filter (· ≠ dom) ++ [dom] }) else d1
    else d) d

/-- Every channel that touches the domain has paused. -/
def Dev.blwDrained (d : Dev) (dom : Nat) : Bool :=
  (List.range 64).all (fun n => !d.blwTouches n dom || (d.blwState n != blwRunning && d.blwState n != blwIdle))

/-- A domain serves again: it is ON, and a memory channel has trained, or failed to. -/
def Dev.domServes (d : Dev) (dom : Nat) : Bool :=
  d.domFull dom && (!decide (34 ≤ dom ∧ dom < 38) || d.bit .memMcStatus (dom - 34) 0 31 || d.bit .memMcStatus (dom - 34) 0 30)

/-- The channels that wait for power resume where every domain serves for which they paused, and every one that they touch. -/
def Dev.blwPowerResume (d : Dev) : Dev :=
  (List.range 64).foldl (fun d n =>
    if !d.blwForPower n || (d.bch n).waits.any (fun k => !d.domServes k) || (d.blwPlaces n).any (fun a => match d.domOf a with
        | some k => !d.domServes k
        | none => false) then d
    else
      let d1 := d.updBch n (fun c => { c with waits := [], pausing := if c.pausing = 3 then 0 else c.pausing })
      if d.blwState n = blwPaused ∧ d.blwCause n = 3 then d1.blwGo n else d1) d

/-- A forced power-down: each channel that touches the domain ends its descriptor with POWER, or, with its ring in the
domain, stops with the abort logged. -/
def Dev.blwForce (d : Dev) (dom : Nat) : Dev :=
  (List.range 64).foldl (fun d n =>
    if !d.blwTouches n dom then d
    else if (spanMarks (d.blwRing n) (d.blwSlots n * 32)).any (fun a => d.domOf a == some dom) then
      (if (d.bch n).desc.isSome then d.log4 0 11 0x0F n (w16 (d.blwHead n)) 0 0 else d).blwStop n
    else if (d.bch n).desc.isSome ∧ d.blwState n ≠ blwHalted then
      ((d.blwDrop n).updBch n (fun c => { c with ending := some 9 })).blwFinish n
    else d) d

end Sys2Proof.Machine
end

