-- ==== Sys2Proof/Machine/Control.lean ====
section
/-!
DEFINITION. What acts on threads from outside their program: the commands of `HTH.THR_CMD` and `DBG.THR_CMD` (R92, R125,
R126, R410), the watchdog (R119), pre-emption (R305), the end of a slot rotation (R112), reports and stillness (R124,
R127, R128), debug stops (R410, R411), and the thread state record (R129).
-/
namespace Sys2Proof.Machine

/-! ### Thread commands (R92, R125) -/

/-- The length in words of the unit at an address of a program store (R92, R100): the `EXI` words plus one, a repeat prefix with its
follower, `JT` with its literal and table, else one. -/
def Dev.unitLen (d : Dev) (h pc : Nat) : Nat :=
  let lead := d.exiLead h pc
  let w := (d.progWord h pc).toNat
  if 0 < lead then lead + 1
  else if w / 64 = 0xE1 ∨ w / 64 = 0xE2 then 2
  else if w / 64 = 0xDF then (d.progWord h (pc + 1)).toNat + 2
  else 1

/-- A thread with the register values of R110, READY at a PC: TC is disarmed, and keeps its compare value (R117). -/
def Thread.started (t : Thread) (pc : BitVec 15) : Thread :=
  { Thread.init with st := .ready, pc := pc, tc := t.tc, stop := t.stop, stopped := t.stopped }

/-- Clear the coprocessor registers of thread `g` (R110). -/
def Dev.clearCregs (d : Dev) (g : Nat) : Dev :=
  { d with eng := { d.eng with cregs := d.eng.cregs.filter (fun k _ => decide (k / 16 ≠ g)) } }

/-- Thread `g` starts at a PC. -/
def Dev.startThread (d : Dev) (g : Nat) (pc : BitVec 15) : Dev :=
  (((d.clearCregs g).updThr g (fun t => t.started pc)).stirBy g).takeCurrent g

/-- A HELD thread continues: its fault record has been answered. -/
def Dev.continueThread (d : Dev) (g : Nat) : Dev :=
  ((d.updThr g (fun t => { t with st := .ready, cause := 0, wait := .none })).stirBy g).takeCurrent g

/-- SKIP (R92): PC moves past the faulting unit, and a repeat in progress is abandoned. The unit is the one at the restart PC, also after
a watchdog fault that was held back until the access before it had completed (R303), whose unit has not been executed (DESIGN CHOICE,
notes/assumptions/44.md). -/
def Dev.skipUnit (d : Dev) (g : Nat) : Dev :=
  let t := d.thr g
  let n := if t.rep = .none then d.unitLen (hearthOf g) t.pc.toNat else 1
  d.setThr g { t with pc := t.pc + BitVec.ofNat 15 n, rep := .none, hc := 0 }

/-- A thread command that its thread's state does not allow (R125, R402 code 0x02). -/
def Dev.rejectThr (d : Dev) (r : Req) (h : Nat) (v : W32) : Dev :=
  d.log4 0 18 0x02 h (hi16 v) (lo16 v) r.word

/-- A write of `HTH.THR_CMD` performs the command it holds (R125): 1 START, 2 RESUME, 3 SKIP, 4 KILL. -/
def Dev.thrCmd (d : Dev) (r : Req) (h : Nat) (v : W32) : Dev :=
  let g := h * 128 + bits v 6 0
  let t := d.thr g
  match bits v 10 8 with
  | 0 => d
  | 1 => if t.st = .off ∧ d.hearthRuns h then d.startThread g (BitVec.ofNat 15 (bits v 29 15)) else d.rejectThr r h v
  | 2 => if t.st = .held ∧ !t.stop then d.continueThread g else d.rejectThr r h v
  | 3 => if t.st = .held ∧ !t.stop then (d.skipUnit g).continueThread g else d.rejectThr r h v
  | _ => if t.st = .off then d.rejectThr r h v else d.killThread g

/-! ### Debug stops (R410, R411) -/

/-- Thread `g` stands at a restart point (R306): no instruction of it is under way, and no `REP.U` holds its engine (R107). The place
between a `REP.I` and its first iteration is one: the restart point is then the repeated instruction with all of HC left (DESIGN CHOICE,
notes/assumptions/43.md). -/
def Dev.atRestart (d : Dev) (g : Nat) : Bool :=
  (d.thr g).wait == .none && (d.engn (engineOf g)).repU == none

/-- STOP is set. A thread that is not the current one, or is blocked, held or off, has nothing more to do to stop. -/
def Dev.setStop (d : Dev) (g : Nat) : Dev := (d.updThr g (fun t => { t with stop := true, step := false })).stirBy g

/-- STOP is cleared; with `step` for one unit. -/
def Dev.runFlags (d : Dev) (g : Nat) (step : Bool) : Dev :=
  (d.updThr g (fun t => { t with stop := false, stopped := false, step := step, bkpt := none })).stirBy g

/-- RUN clears STOP, and STEP for one unit. -/
def Dev.clearStop (d : Dev) (g : Nat) (step : Bool) : Dev := (d.runFlags g step).takeCurrent g

/-- A write of `DBG.THR_CMD`: 1 STOP, 2 RUN, 3 STEP. -/
def Dev.dbgCmd (d : Dev) (v : W32) : Dev :=
  let g := bits v 19 16 * 128 + bits v 6 0
  match bits v 10 8 with
  | 1 => d.setStop g
  | 2 => d.clearStop g false
  | 3 => d.clearStop g true
  | _ => d

/-- The threads of the hearths of a mask. -/
def maskThreads (mask : Nat) : List Nat :=
  ((List.range 16).filter (fun h => mask.testBit h)).flatMap hearthThreads

/-- The engines of the hearths of a mask. -/
def maskEngines (mask : Nat) : List Nat :=
  ((List.range 16).filter (fun h => mask.testBit h)).flatMap hearthEngines

/-- A write of `DBG.GROUP`: STOP or RUN for every thread of the masked hearths at once. An engine that has no current patient thread then
takes the one that the tests of R113 choose among those whose STOP was cleared, as among threads that become READY in the same ENGCLK
(DEDUCED, notes/assumptions/42.md). -/
def Dev.dbgGroup (d : Dev) (v : W32) : Dev :=
  let gs := maskThreads (bits v 15 0)
  let d1 := if v.getLsbD 31 then gs.foldl Dev.setStop d else d
  if v.getLsbD 30 then (maskEngines (bits v 15 0)).foldl Dev.reseat (gs.foldl (fun d g => d.runFlags g false) d1) else d1

/-- `STOP_TAKES_EFFECT`: a set STOP halts the thread at its next restart point. A wait of R109 is not ended by it. -/
def execStopTakesEffect (g : Thr) (s : State) : Host.Outcome State Fault Refusal :=
  s.onDev (fun d =>
    let t := d.thr g
    if t.stop ∧ !t.stopped ∧ (d.engn (engineOf g)).repU = none ∧ (t.wait = .none ∨ t.st ≠ .ready) then d.stopNow g else d)

/-- `BREAKPOINT_MATCH` (R411): a thread whose next unit begins at a breakpoint stops before it. -/
def execBreakpointMatch (g : Thr) (s : State) : Host.Outcome State Fault Refusal :=
  s.onDev (fun d =>
    let t := d.thr g
    if t.st = .ready ∧ !t.stop ∧ !t.step ∧ t.rep = .none ∧ d.atRestart g ∧ d.bpHit g then d.stopNow g else d)

/-! ### Watchdog, pre-emption and rotation -/

/-- A grant is on its way to thread `g` (R333). -/
def Dev.grantOnWay (d : Dev) (g : Nat) : Bool :=
  d.lck.msgs.any (fun m => match m with | .grant _ g' _ _ => g' == g | _ => false)

/-- The time-out of the lock for which thread `g` waits is due (R330). -/
def Dev.lockDue (d : Dev) (g : Nat) : Bool :=
  match (d.thr g).wait with
  | .lock n _ _ _ =>
    match ((d.lck.locks.get ⟨none, 0, 0, false, 0, []⟩ n).queue.find? (fun w => w.g == g)) with
    | some w =>
      let us := d.fld .lckTmo (d.fld .lckCfg n 0 2 0) 0 19 0
      us != 0 && decide (us * 1000 ≤ (d.time.tick - w.since) * 10)
    | none => false
  | _ => false

/-- `WATCHDOG_FAULT` (R119, R302, R303): of a thread whose fabric response, grant or lock time-out comes, it is raised after that (R333). -/
def execWatchdogFault (g : Thr) (s : State) : Host.Outcome State Fault Refusal :=
  s.onDev (fun d =>
    let t := d.thr g
    let limit := d.fld .hthWdog (hearthOf g) 0 7 0 * 8192
    let info : FaultInfo := ⟨7, 0, false, w16 (t.wdog / 8192), t.ctxH.v, t.ctxL.v⟩
    if g.val % 128 = 0 ∨ limit = 0 ∨ t.wdog ≤ limit ∨ t.st = .off ∨ t.st = .held ∨ t.stop ∨ t.task = none then d
    else if t.st = .blocked then
      if t.cause = 1 ∨ d.grantOnWay g ∨ d.lockDue g then d.updThr g (fun t => { t with wdDue := true })
      else
        let d1 := match t.wait with
          | .lock .. => d.leaveLocks g
          | .sende _ => d.updThr g (fun t => { t with staged := t.staged.dropLast })
          | _ => d
        (d1.updThr g (fun t => { t with wdog := 0 })).hold g info (t.ulen - 1) (some t.cause)
    else if d.atRestart g then
      (d.updThr g (fun t => { t with wdog := 0 })).hold g info (d.exiLead (hearthOf g) t.pc.toNat) none
    else d)

/-- `PREEMPTION` (R305, R306): the current patient thread of an engine gives way, at its restart point, to another that has
higher credit or a boost; when none has, the pre-emption does not take place and the quantum restarts. -/
def execPreemption (h e : Fin 16) (s : State) : Host.Outcome State Fault Refusal :=
  s.onDev (fun d =>
    let x := h.val * 16 + e.val
    let q := d.fld .hthPreempt h 0 7 0 * 256
    match (d.engn x).cur with
    | none => d
    | some t =>
      let g := x * 8 + t
      let cr := (d.thr g).credit
      if q = 0 ∨ d.engclk - (d.engn x).curSince < q ∨ !d.atRestart g ∨ (d.thr g).stop then d
      else if (List.range 8).any (fun u => u != t && d.qualifies x u &&
          ((d.thr (x * 8 + u)).boost || decide (cr < (d.thr (x * 8 + u)).credit))) then
        (d.setEngn x { d.engn x with cur := d.chooseThread x none (fun u => u != t), curSince := d.engclk }).count
          .hthPreempts h
      else d.setEngn x { d.engn x with curSince := d.engclk })

/-- `SLOT_ROTATION_END` (R112, R116): READY patient threads gain their weights, yielded marks clear, and the slot table and
swift mask written since take effect: the credits of the rotation that ends are counted by the table and mask under which it ran (DESIGN
CHOICE, notes/assumptions/42.md). Where the pointer passed no wrap in this TICKCLK it has been out of step by one ENGCLK. A current patient
thread that has become swift gives way, once no `REP.U` holds the engine (R107). -/
def execSlotRotationEnd (h e : Fin 16) (s : State) : Host.Outcome State Fault Refusal :=
  s.onDev (fun d =>
    let x := h.val * 16 + e.val
    let old := d.engn x
    let d1 := (List.range 8).foldl (fun d t =>
      let th := d.thr (x * 8 + t)
      let th1 := { th with yielded := false }
      d.setThr (x * 8 + t) (if th.st = .ready ∧ !old.isSwift t then
        { th1 with credit := satCredit (th.credit + old.weight t) } else th1)) d
    let d2 := d1.setEngn x { d1.engn x with
      slotLo := d.rd .hthSlotLo h e, slotHi := d.rd .hthSlotHi h e, swift := (d.rd .hthSwift h e).truncate 8,
      phase := if (old.phase + d.engclk) % 16 = 0 then (old.phase + 1) % 16 else old.phase }
    d2.reseat x)

/-! ### Reports (R124) and stillness (R127, R128) -/

/-- `REPORT_TO_MAILBOX`: the oldest message of a report queue moves into F0 once F0 is empty. -/
def execReportToMailbox (h : Fin 16) (s : State) : Host.Outcome State Fault Refusal :=
  s.onDev (fun d =>
    match (d.hth h).repq with
    | [] => d
    | r :: rest =>
      if d.flue (h.val * 256) ≠ [] then d
      else (d.setHth h { d.hth h with repq := rest }).setFlue (h.val * 256) [⟨r.words.map Word.plain, none⟩])

/-- The counted threads of a hearth: started, other than the warden. -/
def Dev.counted (d : Dev) (h : Nat) : List Thread :=
  d.listed.filterMap (fun e =>
    if hearthOf e.1 = h ∧ e.1 % 128 ≠ 0 ∧ e.2.st ≠ .off then some e.2 else none)

/-- Hearth `h` is still (R127). -/
def Dev.isStill (d : Dev) (h : Nat) : Bool :=
  let ts := d.counted h
  d.bit .hthStill h 0 0 && decide (d.readyCount h = 0) &&
  ts.all (fun t => !t.tcArmed && !t.stop &&
    (t.st == .held || (t.st == .blocked && decide (2 ≤ t.cause ∧ t.cause ≤ 7)))) &&
  ts.any (fun t => t.st == .blocked && decide (2 ≤ t.cause ∧ t.cause ≤ 6))

/-- The warden of hearth `h` can receive a report (R128). -/
def Dev.canReceive (d : Dev) (h : Nat) : Bool :=
  let t := d.thr (h * 128)
  t.st == .ready || (t.stop && t.st != .off) ||
  (t.st == .blocked && (t.cause == 1 || t.cause == 8 ||
    (match t.wait with | .recv _ f => f == h * 256 | _ => false)))

/-- The report of a still hearth. -/
def Dev.stillReport (d : Dev) (h : Nat) : List W16 :=
  let ts := d.counted h
  let n := fun (p : Thread → Bool) => w16 (min (ts.filter p).length 0xFFFF)
  let blocked := fun (c : Nat) (t : Thread) => t.st == .blocked && t.cause == c
  [w16 (0x2000 + h * 256), n (fun t => blocked 3 t || blocked 5 t), n (fun t => blocked 4 t || blocked 6 t),
   n (blocked 2), n (blocked 7), n (fun t => t.st == .held), w16 (d.time.ns.toNat / 65536), w16 d.time.ns.toNat]

/-- `STILLNESS_REPORT`: one report once the hearth has been still for 4,096 ENGCLK. -/
def execStillnessReport (h : Fin 16) (s : State) : Host.Outcome State Fault Refusal :=
  s.onDev (fun d =>
    let x := d.hth h
    if !d.isStill h ∨ x.still < 4096 ∨ x.stillRep then d else
    let ws := d.stillReport h
    let d1 := d.setHth h { x with stillRep := true }
    if d1.canReceive h then d1.queueReport h (2048 + h) ws
    else
      let d2 := d1.setBit .hthStill h 0 9 true
      if h.val ≠ 0 ∧ d2.canReceive 0 then d2.queueReport 0 (2048 + h) (ws.set 0 (ws.headD 0 ||| 0x0080))
      else (d2.setBit .hthStill h 0 10 true).reportHost ws)

/-! ### The thread state record (R129) -/

/-- A thread state as its code. -/
def ThState.code : ThState → Nat
  | .off => 0
  | .ready => 1
  | .blocked => 2
  | .held => 3
/-- A repeat state as its code. -/
def RepState.code : RepState → Nat
  | .none => 0
  | .repI => 1
  | .repU => 2

/-- The value of a word of thread `g`'s record as the set-up register shows it: the tag in bits 17:16. -/
def Dev.tsrWord (d : Dev) (g word : Nat) : W32 :=
  let t := d.thr g
  let e := d.engn (engineOf g)
  let tagged := fun (w : Word) => join16 (w.tag.bits.zeroExtend 16) w.v
  let plain := fun (n : Nat) => join16 0 (w16 n)
  if word < 16 then tagged (t.get word)
  else match word with
    | 16 => plain t.pc.toNat
    | 17 => plain (t.fl.word.toNat + (if t.inTrap then 256 else 0) + t.rep.code * 512)
    | 18 => plain t.rc.toNat
    | 19 => plain t.hc.toNat
    | 20 => plain ((if t.tcArmed then 0x8000 else 0) + t.tc.toNat / 2 ^ 32)
    | 21 => plain (t.tc.toNat / 65536)
    | 22 => plain t.tc.toNat
    | 23 => tagged t.ctxH
    | 24 => tagged t.ctxL
    | 25 => plain t.segh.toNat
    | 26 => plain t.segl.toNat
    | 27 => plain (t.st.code + t.cause * 4 + (if t.stop then 64 else 0) + (if e.cur = some (g % 8) then 128 else 0)
        + (if e.isSwift (g % 8) then 256 else 0) + (if t.boost then 512 else 0))
    | 28 => plain ((t.credit % 4096).toNat)
    | 29 => plain (if t.staged = [] then 0 else t.stagedName.toNat)
    | 30 => plain (t.staged.length + (if (d.boundTo g).isSome then 16 else 0) + min (t.wdog / 8192) 255 * 256)
    | 31 => plain (if (d.boundTo g).isSome then t.bindName.toNat else 0)
    | _ => 0

/-- The words that a write changes, and the values their fields refuse (R5): a HANDLE or TICKET tag, a tag other than PLAIN
on a word without one. -/
def tsrLegal (word : Nat) (v : W32) : Bool :=
  let tag := bits v 17 16
  if word < 16 then tag == 0 || tag == 3
  else if word ≤ 22 ∨ word = 25 ∨ word = 26 ∨ word = 28 then tag == 0
  else true

/-- Words of the record that software may write. -/
def tsrWritable (word : Nat) : Bool := decide (word ≤ 22 ∨ word = 25 ∨ word = 26 ∨ word = 28)

/-- A thread's record may be written: OFF, HELD or STOP set. -/
def Thread.open_ (t : Thread) : Bool := t.st == .off || t.st == .held || t.stop

/-- Write a word of thread `g`'s record. The reserved repeat state leaves that field as it was (R5); a thread that is no longer in a `REP.U`
holds its engine no longer. -/
def Dev.tsrPut (d : Dev) (g word : Nat) (v : W32) : Dev :=
  let x := lo16 v
  let n := x.toNat
  let d1 := d.updThr g (fun t =>
    if word < 16 then t.set word ⟨Tag.ofBits (BitVec.ofNat 2 (bits v 17 16)), x⟩
    else match word with
      | 16 => { t with pc := BitVec.ofNat 15 n }
      | 17 => { t with fl := Flags.ofWord x, inTrap := x.getLsbD 8,
                       rep := match n / 512 % 4 with
                         | 0 => .none
                         | 1 => .repI
                         | 2 => .repU
                         | _ => t.rep }
      | 18 => { t with rc := x }
      | 19 => { t with hc := x }
      | 20 => { t with tcArmed := x.getLsbD 15, tcTick := d.time.tick, tc := BitVec.ofNat 36 (n % 16 * 2 ^ 32 + t.tc.toNat % 2 ^ 32) }
      | 21 => { t with tc := BitVec.ofNat 36 (t.tc.toNat / 2 ^ 32 * 2 ^ 32 + n * 65536 + t.tc.toNat % 65536) }
      | 22 => { t with tc := BitVec.ofNat 36 (t.tc.toNat / 65536 * 65536 + n) }
      | 25 => { t with segh := x }
      | 26 => { t with segl := x }
      | 28 => { t with credit := if n % 4096 < 2048 then (n % 4096 : Nat) else ((n % 4096 : Nat) : Int) - 4096 }
      | _ => t)
  let d2 := if word = 20 ∧ x.getLsbD 15 ∧ (d.thr g).st ≠ .off then d1.stirBy g else d1
  if (d2.thr g).rep = .repU then d2 else d2.endRepU g

/-- Bit j is 1 while thread 32n + j of hearth `h` is HELD (`HTH.HELD`). -/
def Dev.heldWord (d : Dev) (h n : Nat) : W32 :=
  BitVec.ofNat 32 ((List.range 32).foldl (fun a j =>
    if (d.thr (h * 128 + n * 32 + j)).st = .held then a + 2 ^ j else a) 0)

end Sys2Proof.Machine
end

