-- ==== Sys2Proof/Machine/Egress.lean ====
section
/-!
DEFINITION. The chimney's transmit side (R230–R246): gate control lists, the choice of the next frame with its shapers, the
MACs, preemption and hold, link changes, and egress timestamps.
-/
namespace Sys2Proof.Machine

open Sys2Proof.Crypto

/-! ### Gate control lists (R235–R239) -/

/-- A gate control list: the bank its entries lie in, how many there are, the cycle and the base time. -/
structure GateCl where
  bank : Bool
  len : Nat
  cycle : Nat
  base : Nat
deriving DecidableEq, Repr

/-- Entry `i` of a bank of port `p`, HI above LO. -/
def gclKey (p : Nat) (bank : Bool) (i : Nat) : Nat := (p * 2 + (if bank then 1 else 0)) * 1024 + i
def Dev.gclWord (d : Dev) (p : Nat) (bank : Bool) (i : Nat) : W64 := d.chm.gcl.get 0 (gclKey p bank i)
def Dev.gclInterval (d : Dev) (p : Nat) (bank : Bool) (i : Nat) : Nat := bits ((d.gclWord p bank i).truncate 32 : W32) 31 0
def Dev.gclGates (d : Dev) (p : Nat) (bank : Bool) (i : Nat) : W8 := (d.gclWord p bank i >>> (56 : Nat)).truncate 8
def Dev.gclOp (d : Dev) (p : Nat) (bank : Bool) (i : Nat) : Nat := ((d.gclWord p bank i >>> (54 : Nat)).truncate 2 : BitVec 2).toNat

/-- The operational bank of port `p`. -/
def Dev.operBank (d : Dev) (p : Nat) : Bool := d.chm.bank.get false p

/-- The operational list, if one is present. -/
def Dev.operList (d : Dev) (p : Nat) : Option GateCl :=
  let n := d.fld .chmGateCtrl p 0 26 16
  if n = 0 then none
  else some ⟨d.operBank p, n, (d.rd .chmOperCycle p).toNat, (d.rd64 .chmOperBaseHi .chmOperBaseLo p).toNat⟩

/-- The admin list as it stands. -/
def Dev.adminList (d : Dev) (p : Nat) : GateCl :=
  ⟨!d.operBank p, d.fld .chmGateCtrl p 0 10 0, (d.rd .chmAdminCycle p).toNat,
   (d.rd64 .chmAdminBaseHi .chmAdminBaseLo p).toNat⟩

/-- The change time, while a change is pending. -/
def Dev.changeAt (d : Dev) (p : Nat) : Option Nat :=
  if d.bit .chmGateCtrl p 0 28 then some (d.rd64 .chmChgTimeHi .chmChgTimeLo p).toNat else none

/-- The position of time `t` in a list's cycle. -/
def GateCl.pos (l : GateCl) (t : Nat) : Nat := (((t : Int) - (l.base : Int)).emod (max l.cycle 1 : Nat)).toNat

/-- The entry at a position of the cycle with the time left in it; the last entry holds to the cycle's end. `n` bounds the
entries that remain. -/
def Dev.entryAt (d : Dev) (p : Nat) (l : GateCl) (i pos left : Nat) : Nat → Nat × Nat
  | 0 => (i, left)
  | n + 1 =>
    let w := d.gclInterval p l.bank i
    if l.len ≤ i + 1 then (i, left)
    else if pos < w then (i, min (w - pos) left)
    else d.entryAt p l (i + 1) (pos - w) left n

/-- The entry of a list in force at time `t`, and how long it lasts from `t`. -/
def Dev.entryOf (d : Dev) (p : Nat) (l : GateCl) (t : Nat) : Nat × Nat :=
  d.entryAt p l 0 (l.pos t) (max l.cycle 1 - l.pos t) l.len

/-- What governs the gates of port `p` at time `t`: the bank and entry in force and how long it lasts; none while no list is
operational. A pending change takes over at its time, and the cycle that it would cut within ADMIN_CTE of its start does not
start (R237). -/
def Dev.gateEntry (d : Dev) (p t : Nat) : Option (Bool × Nat × Nat) :=
  match d.changeAt p with
  | some chg =>
    if chg ≤ t then
      let l := d.adminList p
      let (i, w) := d.entryOf p l t
      some (l.bank, i, w)
    else match d.operList p with
      | some l =>
        let cut := l.pos chg
        if 0 < cut ∧ cut ≤ (d.rd .chmAdminCte p).toNat ∧ chg ≤ t + cut then
          some (l.bank, (d.entryAt p l 0 (max l.cycle 1 - 1) 1 l.len).1, chg - t)
        else
          let (i, w) := d.entryOf p l t
          some (l.bank, i, min w (chg - t))
      | none => none
  | none =>
    match d.operList p with
    | some l =>
      let (i, w) := d.entryOf p l t
      some (l.bank, i, w)
    | none => none

/-- How long the present entry's gates last, where no list is operational yet: to the change, if one is pending. -/
def Dev.openUntil (d : Dev) (p t : Nat) : Option Nat := (d.changeAt p).map (fun c => c - t)

/-- The gate of class `c` stays open from `t` for `span` ns under the lists; `n` bounds the entries met. -/
def Dev.staysOpen (d : Dev) (p c t span : Nat) : Nat → Bool
  | 0 => true
  | n + 1 =>
    if span = 0 then true
    else match d.gateEntry p t with
      | some (b, i, w) =>
        (d.gclGates p b i).getLsbD c && d.staysOpen p c (t + max w 1) (span - max w 1) n
      | none =>
        match d.openUntil p t with
        | some w => if span ≤ w then true else d.staysOpen p c (t + max w 1) (span - max w 1) n
        | none => true

/-- The gates of port `p` that the lists give at time `t`. -/
def Dev.gatesAt (d : Dev) (p t : Nat) : W8 :=
  match d.gateEntry p t with
  | some (b, i, _) => d.gclGates p b i
  | none => 0xFF

/-! ### Preemption (R240, R241) -/

/-- STATUS of `CHM.PORT[p].PREEMPT`. -/
def Dev.preStatus (d : Dev) (p : Nat) : Nat := d.fld .chmPreempt p 0 29 27
def Dev.setPreStatus (d : Dev) (p x : Nat) : Dev := d.setFld .chmPreempt p 0 29 27 x
/-- Preemption is active on port `p` (R240). -/
def Dev.preActive (d : Dev) (p : Nat) : Bool := d.bit .chmPreempt p 0 31 && (d.preStatus p == 2 || d.bit .chmPreempt p 0 30)
/-- Class `c` of port `p` is preemptable (R230). -/
def Dev.preemptable (d : Dev) (p c : Nat) : Bool := d.preActive p && !d.bit .chmPreempt p 0 (16 + c)
def Dev.holdOn (d : Dev) (p : Nat) : Bool := d.chm.hold.get false p
/-- Bytes of a minimum fragment. -/
def Dev.fragBytes (d : Dev) (p : Nat) : Nat := 64 * (1 + d.fld .chmPreempt p 0 25 24)
/-- ns that `n` bytes take on the line of port `p`, rounded up. -/
def Dev.lineTime (d : Dev) (p n : Nat) : Nat := (n * 8000 + d.portRate p - 1) / d.portRate p

/-- Bytes of a frame's present fragment on the line by now, after the preamble. -/
def Dev.fragSent (d : Dev) (p : Nat) (f : TxFrame) : Nat := (d.nsNow - f.since) * d.portRate p / 8000 - 8
/-- The preemptable frame in transmission stands at a permitted preemption point (R234, R240): its fragment is long enough with its mCRC, and
64 bytes of the frame or more remain (PRESUMED: IEEE 802.3br, notes/assumptions/50.md). -/
def Dev.canCut (d : Dev) (p : Nat) (f : TxFrame) : Bool :=
  decide (d.fragBytes p ≤ d.fragSent p f + 4 ∧ f.sent + d.fragSent p f + 64 ≤ f.line.length)

/-- The preemptable frame in transmission ends its fragment (R241), with its mCRC and gap. -/
def Dev.cutNow (d : Dev) (p : Nat) (f : TxFrame) : Dev :=
  (((d.cbsSync p).setTx p 1 (some { f with preempted := true, cut := true, sent := f.sent + d.fragSent p f, due := false })).gapFrom p
    f.cls 16).count .chmPreemptFrags p

/-- The preemptable frame in transmission ends its fragment if it stands at a permitted point; if not it goes on, and with `due` it ends at
the next one. -/
def Dev.preemptNow (d : Dev) (p : Nat) (due : Bool) : Dev :=
  match d.txOf p 1 with
  | some f =>
    if f.preempted then d
    else if d.canCut p f then d.cutNow p f
    else if due then d.setTx p 1 (some { f with due := true }) else d
  | none => d

/-- The preemptable frames that hold or an overrun is to end, and that have come to a permitted point, end their fragments (R239, R241). -/
def Dev.tickCuts (d : Dev) : Dev :=
  (List.range 32).foldl (fun (d : Dev) p => match d.txOf p 1 with
    | some f => if f.due || d.holdOn p then d.preemptNow p f.due else d
    | none => d) d

/-- Verification starts, or waits for the link (R240). -/
def Dev.verifyStart (d : Dev) (p : Nat) : Dev :=
  if !d.bit .chmPreempt p 0 31 ∨ d.bit .chmPreempt p 0 30 then d.setPreStatus p 4
  else if d.portLink p then
    let d1 := d.setPreStatus p 1
    { d1 with chm := { d1.chm with tries := d1.chm.tries.set 0 p 1, verSince := d1.chm.verSince.set 0 p d1.time.tick } }
  else d.setPreStatus p 0

/-- A write of `PREEMPT` starts or ends verification: `en0` and `dis0` are EN and VERIFY_DIS before it. -/
def Dev.preemptStart (d : Dev) (p : Nat) (en0 dis0 : Bool) : Dev :=
  if d.bit .chmPreempt p 0 31 = en0 ∧ d.bit .chmPreempt p 0 30 = dis0 then d else d.verifyStart p

/-- `PREEMPT_VERIFY_TIMEOUT` (R240): after VERIFY_TIME without an answer the next of three attempts, or FAILED. -/
def execPreemptVerifyTimeout (p : Fin 32) (s : State) : Host.Outcome State Fault Refusal :=
  s.onDev (fun d =>
    if d.preStatus p = 1 ∧ d.fld .chmPreempt p 0 15 8 * usTicks 1000 ≤ d.time.tick - d.chm.verSince.get 0 p then
      let n := d.chm.tries.get 0 p
      if n < 3 then
        { d with chm := { d.chm with tries := d.chm.tries.set 0 p (n + 1), verSince := d.chm.verSince.set 0 p d.time.tick } }
      else d.setPreStatus p 3
    else d)

/-- `RESPOND_MPACKET` (R240): the partner has answered, and verification has succeeded. -/
def execRespondMpacket (p : Fin 32) (s : State) : Host.Outcome State Fault Refusal :=
  s.onDev (fun d => if d.preStatus p = 1 ∧ d.portLink p then d.setPreStatus p 2 else d)

/-! ### The choice (R230–R233, R236) -/

/-- Transmission of class `c` of port `p` is stopped by a received PAUSE or PFC frame (R243). -/
def Dev.paused (d : Dev) (p c : Nat) : Bool := (d.prt.pause.get none p).isSome || (d.prt.pfc.get none (p * 8 + c)).isSome

/-- The charged length of a frame on port `p` (R231). -/
def Dev.charged (d : Dev) (p : Nat) (f : QFrame) : Nat :=
  f.len + d.fld .chmPctrl p 0 15 8 + (if f.seqNo.isSome then 6 else 0)

/-- BURST of a queue in 2^-10 bytes. -/
def Dev.burst (d : Dev) (q : Nat) : Nat := d.fld .chmQburst q 0 23 0 * 1024

/-- How far queue `q`'s bucket is below full now, in 2^-10 bytes (R232). A time that was set back takes tokens from it, down to −2^24 bytes. -/
def Dev.shortNow (d : Dev) (q : Nat) : Nat :=
  let x := d.chmq q
  let add := ((d.fld .chmQrate q 0 21 0 * 1024 : Nat) : Int) * ((d.time.ns.toNat : Int) - x.last.toNat) / 1000000
  min ((x.short : Int) - add).toNat (d.burst q + 2 ^ 24 * 1024)

/-- The queue may send: it holds a frame, and its bucket is not below zero. -/
def Dev.queueOk (d : Dev) (q : Nat) : Bool :=
  (d.chmq q).frames != [] && (d.fld .chmQrate q 0 21 0 == 0 || decide (d.shortNow q ≤ d.burst q))

/-- The buckets of the queues of a choice are brought up to the present time. -/
def Dev.refill (d : Dev) (q : Nat) : Dev :=
  if d.fld .chmQrate q 0 21 0 = 0 then d
  else d.setChmq q { d.chmq q with short := d.shortNow q, last := d.time.ns }

/-- The round of a class goes on from place `k` of `order`: each queue reached gains its quantum, and the first whose head its
deficit covers has the turn; `n` bounds the queues reached. -/
def Dev.drrGo (d : Dev) (p : Nat) (order : List Nat) (k : Nat) : Nat → Option (Nat × Dev)
  | 0 => none
  | n + 1 =>
    let q := order.getD (k % max order.length 1) 0
    let x := d.chmq q
    let def' := x.deficit + d.fld .chmQburst q 0 31 24 * 64
    let d1 := d.setChmq q { x with deficit := def' }
    match x.frames with
    | f :: _ => if d.charged p f ≤ def' then some (q, d1) else d1.drrGo p order (k + 1) n
    | [] => none

/-- A frame of queue `q` is on the preemptable MAC: no other frame of the queue goes before it (R19). -/
def Dev.onPreemptable (d : Dev) (p q : Nat) : Bool := match d.txOf p 1 with
  | some f => f.queue == q
  | none => false

/-- The queue of class `c` whose head goes next (R231), with the deficits that reaching it leaves. -/
def Dev.dwrrNext (d : Dev) (p c : Nat) : Option (Nat × Dev) :=
  let qs := (d.portQueues p).filter (fun q => d.qClass q == c && d.queueOk q && !d.onPreemptable p q)
  let turn := d.chm.turn.get 0 (p * 8 + c)
  let keep := qs.find? (fun q => q + 1 == turn && (match (d.chmq q).frames with
    | f :: _ => decide (d.charged p f ≤ (d.chmq q).deficit)
    | [] => false))
  match keep with
  | some q => some (q, d)
  | none =>
    let order := qs.filter (fun q => decide (turn ≤ q)) ++ qs.filter (fun q => decide (q < turn))
    if order = [] then none else d.drrGo p order 0 (order.length * 400)

/-- The frame's bytes with its R-TAG (R242). -/
def withRtag (bs : Bytes) : Option W16 → Bytes
  | none => bs
  | some n =>
    let k := if vlanTagged bs then 16 else 12
    bs.take k ++ [0xF1, 0xC1, 0, 0, BitVec.ofNat 8 (n.toNat / 256), BitVec.ofNat 8 n.toNat] ++ bs.drop k

/-- The bytes that a queue's frame leaves with, R-TAG included, each with whether it is poisoned in its buffer. -/
def Dev.outBytes (d : Dev) (f : QFrame) : (Bytes × Bool) × Dev :=
  let (bs, d1) := d.readBytes (d.bufAddr f.pool f.idx + f.dofs) f.len
  ((withRtag (bs.map Prod.fst) f.seqNo, bs.any Prod.snd), d1)

/-- Bytes that MACsec adds to a frame of class `c`. -/
def Dev.secBytes (d : Dev) (p c : Nat) (bs : Bytes) : Nat :=
  if d.txClear p c bs then 0
  else if (d.msc (scKey p 1 (d.fld .msecTxmap p 0 (4 * c + 2) (4 * c)))).ctrl.getLsbD 3 then 32 else 24

/-- The frame fits its gate at time `t` (R236). -/
def Dev.fits (d : Dev) (p c t : Nat) (f : QFrame) : Bool :=
  if !d.bit .chmGateCtrl p 0 31 then true
  else
    let start := 64 + (if d.fld .msecPortCtrl p 0 1 0 = 0 then 0 else 48)
    let bs := (d.outBytes f).1.1
    let w := if d.preemptable p c then d.lineTime p (d.fragBytes p + 8)
      else d.lineTime p (max 60 (bs.length + d.secBytes p c bs) + 24)
    d.staysOpen p c t (start + w) (start + w)

/-- The choice over some classes at time `t`, highest first: the queue, and the state with its round's deficits. -/
def Dev.pick (d : Dev) (p t : Nat) : List Nat → Option (Nat × Nat × Dev)
  | [] => none
  | c :: r =>
    if !d.gateBit p c || d.paused p c || (d.bit .chmCbs p c 31 && decide (d.credit p c < 0))
      || (d.preemptable p c && d.holdOn p) then d.pick p t r
    else match d.dwrrNext p c with
      | none => d.pick p t r
      | some (q, d1) =>
        match (d.chmq q).frames with
        | f :: _ => if d.fits p c t f then some (c, q, d1) else d.pick p t r
        | [] => d.pick p t r

/-- The classes a MAC of port `p` chooses from, highest first. -/
def Dev.macClasses (d : Dev) (p : Nat) (pmac : Bool) : List Nat :=
  let all := [7, 6, 5, 4, 3, 2, 1, 0]
  if d.preActive p then all.filter (fun c => d.preemptable p c == pmac) else if pmac then [] else all

/-! ### Egress timestamps (R244–R246) -/

/-- A two-step capture of a timestamp with its tag. -/
def Dev.captureTs (d : Dev) (p : Nat) (tag : W16) (ts : W64) : Dev :=
  let l := d.chm.txts.get [] p
  if 16 ≤ l.length then d.count .chmTsLost p
  else
    let d1 := { d with chm := { d.chm with txts := d.chm.txts.set [] p (l ++ [(tag, ts)]) } }
    if l = [] then d1.raiseEvent (96 + p) 0 else d1

/-- The oldest capture is removed. -/
def Dev.popTs (d : Dev) (p : Nat) : Dev := { d with chm := { d.chm with txts := d.chm.txts.upd [] p (·.drop 1) } }

/-- The ten bytes of a PTP Timestamp. -/
def ptpStamp (ts : W64) : Bytes := toBe 6 (ts.toNat / 1000000000) ++ toBe 4 (ts.toNat % 1000000000)

/-- What the timestamp mode of a queue makes of a frame: the bytes to send, and the captures and counts. -/
def Dev.stamp (d : Dev) (p q : Nat) (bs : Bytes) (isClear : Bool) (ts : W64) : Bytes × Dev :=
  let tag := w16 (half bs (d.fld .chmPtp p 0 24 16))
  let ofs := d.fld .chmPtp p 0 8 0
  match d.fld .chmQmap q 0 19 18 with
  | 1 => (bs, d.captureTs p tag ts)
  | 2 =>
    if isClear ∧ ofs + 10 ≤ bs.length then (bs.take ofs ++ ptpStamp ts ++ bs.drop (ofs + 10), d)
    else (bs, (d.captureTs p tag ts).count .chmTsOnestepMiss p)
  | _ => (bs, d)

/-! ### Transmission (R230, R234, R242, R243) -/

/-- Zeros up to the shortest frame, and the FCS, inverted for a poisoned frame. -/
def onLine (bs : Bytes) (poisoned : Bool) : Bytes :=
  let x := bs ++ List.replicate (60 - bs.length) 0
  x ++ (if poisoned then (fcs x).map (fun b => ~~~b) else fcs x)

/-- The frame chosen for a MAC leaves its queue and is sent, or freed when it may not be sent. An express frame that cuts a preemptable one
begins after the mCRC and the gap of that fragment (R244). -/
def Dev.sendHead (d0 d1 : Dev) (p mac c q sub : Nat) : Dev :=
  match (d1.chmq q).frames with
  | [] => d1
  | f :: _ =>
    let ((bs, pois), dr) := d1.outBytes f
    let gone := fun (d : Dev) => (d.dequeue q).freeGen f.pool f.idx f.gen
    if f.seqNo.isSome ∧ d1.fld .prtRxctrl p 0 13 0 < bs.length + 4 then (gone (dr.cbsSync p)).count .chmTxToolong p
    else
      let cutting := decide (mac = 0) && (match dr.txOf p 1 with
        | some g => !g.preempted
        | none => false)
      let lead := if cutting then dr.lineTime p 16 else 0
      let start := dr.time.ns + BitVec.ofNat 64 (sub + lead)
      let adj : W16 := (dr.rd .prtTsAdj p >>> (16 : Nat)).truncate 16
      let ts := start + BitVec.ofNat 64 (64000 / dr.portRate p) + BitVec.signExtend 64 adj
      match dr.macsecTx p c bs pois with
      | (.tooLong, d2) => gone (d2.cbsSync p)
      | (.exhausted, d2) => gone (d2.cbsSync p)
      | (sec, d2) =>
        let l := d0.charged p f
        let isClear := decide (sec = SecTx.clear)
        let (bs1, d3) := d2.stamp p q bs isClear ts
        let body := match sec with | .sealed x => x | _ => bs1
        let d4 := (if pois then d3.count .chmTxPoison p else d3).cbsSync p
        let d5 := if mac = 0 then d4.preemptNow p false else d4
        let x := d5.chmq q
        let cap := d5.burst q + 2 ^ 24 * 1024
        let d6 := ((d5.setChmq q { x with deficit := x.deficit - l }).refill q).dequeue q
        let y := d6.chmq q
        let d7 := if d6.fld .chmQrate q 0 21 0 = 0 then d6 else d6.setChmq q { y with short := min (y.short + l * 1024) cap }
        let d8 := { d7 with chm := { d7.chm with turn := d7.chm.turn.set 0 (p * 8 + c) (q + 1) } }
        d8.setTx p mac (some ⟨f.pool, f.idx, f.gen, q, c, onLine body pois, false, false, d8.nsNow + sub + lead, 0, false, false⟩)

/-- The MAC can begin a frame: it has none, and an express MAC interrupts only a preemptable frame while preemption is
active, at a permitted point (R234). -/
def Dev.macFree (d : Dev) (p : Nat) (pmac : Bool) : Bool :=
  (d.txOf p 0).isNone && (match d.txOf p 1 with
    | none => true
    | some f => !pmac && d.preActive p && (f.preempted || d.canCut p f))

/-- `TX_START` (R230): a MAC of port `p` chooses a frame, `sub` ns after the last TICKCLK, and begins it. A
frame whose buffer lies in a region that is being filled is waited for (R287). -/
def execTxStart (p : Fin 32) (pmac : Bool) (sub : Fin 10) (s : State) : Host.Outcome State Fault Refusal :=
  s.onDev (fun d0 =>
    let d := d0.cbsSync p
    if d.portDown p ∨ !d.macFree p pmac then d0
    else match d.pick p (d.time.ns.toNat + sub.val) (d.macClasses p pmac) with
      | some (c, q, d1) =>
        if (d1.chmq q).frames.head?.any (fun f => d1.bufWaits f.pool f.idx) then d0
        else d.sendHead d1 p (if pmac then 1 else 0) c q sub.val
      | none => d0)

/-- A preempted frame may go on: no express frame is on the line or eligible, no hold, and its gate is open. With preemption no longer
active the port has one MAC (R230), and no other frame begins on it before this one has ended. -/
def Dev.resumeOk (d : Dev) (p : Nat) (f : TxFrame) : Bool :=
  (d.txOf p 0).isNone && !d.holdOn p && d.gateBit p f.cls
    && (!d.preActive p || (d.pick p d.time.ns.toNat (d.macClasses p false)).isNone)

/-- The preempted frame of port `p` goes on, if it may. -/
def Dev.resume (d : Dev) (p : Nat) : Dev :=
  match d.txOf p 1 with
  | some f => if f.preempted ∧ d.resumeOk p f then (d.cbsSync p).setTx p 1 (some { f with preempted := false, since := d.nsNow }) else d
  | none => d

/-- A write of `PREEMPT` after its fields are stored: a preempted frame goes on where preemption has ended. -/
def Dev.preemptWritten (d : Dev) (p : Nat) (en0 dis0 : Bool) : Dev := (d.preemptStart p en0 dis0).resume p

/-- The last byte of a frame has left: it is counted, its buffer freed, and its inter-frame gap begins (R233). -/
def Dev.txDone (d : Dev) (p mac : Nat) (f : TxFrame) : Dev :=
  let d1 := ((d.cbsSync p).count .prtTxFrames p).count .prtTxBytes p 0 f.line.length
  let d2 := if f.cut then d1.count .chmPreemptFrags p else d1
  let d3 := (d2.setTx p mac none).freeGen f.pool f.idx f.gen
  let d4 := d3.gapFrom p f.cls 12
  if mac = 0 then d4.resume p else d4

/-- `TX_END` (R20): the frame in transmission by a MAC ends. -/
def execTxEnd (p : Fin 32) (pmac : Bool) (s : State) : Host.Outcome State Fault Refusal :=
  s.onDev (fun d =>
    let mac := if pmac then 1 else 0
    match d.txOf p mac with
    | none => d
    | some f =>
      if f.preempted ∧ !d.resumeOk p f then d
      else if pmac ∧ (d.txOf p 0).isSome then d
      else d.txDone p mac f)

/-! ### Links and modes (R158, R165, R243) -/

/-- A frame in transmission is ended with an error code, freed and counted (R243). -/
def Dev.txAbort (d : Dev) (p mac : Nat) : Dev :=
  match d.txOf p mac with
  | some f => (((d.cbsSync p).setTx p mac none).freeGen f.pool f.idx f.gen).count .chmTxAbort p
  | none => d

/-- LINK of port `p` has fallen: what is in transmission is aborted, verification returns to INITIAL, and queues drain. -/
def Dev.linkFell (d : Dev) (p : Nat) : Dev :=
  let d1 := ((d.txAbort p 0).txAbort p 1)
  let d2 := if d1.bit .chmPreempt p 0 31 ∧ !d1.bit .chmPreempt p 0 30 then d1.setPreStatus p 0 else d1
  d2.discardDown p

/-- LINK_CHG is set and event `p` raised with STATUS[15:0] (R165). -/
def Dev.linkEvent (d : Dev) (p : Nat) : Dev :=
  let d1 := d.setBit .prtStatus p 0 8 true
  d1.raiseEvent p ((d1.rd .prtStatus p).truncate 16)

/-- Port `p` loses its link at once, if it has one. -/
def Dev.dropLink (d : Dev) (p : Nat) : Dev :=
  if d.bit .prtStatus p 0 0 then ((d.setBit .prtStatus p 0 0 false).linkEvent p).linkFell p else d

/-- A write has changed IF, SPEED, FEC or ANEG: the link falls and stays down for 10 µs (R158). -/
def Dev.modeChanged (d : Dev) (p : Nat) : Dev :=
  let d1 := d.dropLink p
  let t := d1.time.tick + usTicks 10
  ({ d1 with prt := { d1.prt with
      downUntil := d1.prt.downUntil.set 0 p t,
      cut := if d.bit .prtStatus p 0 0 then d1.prt.cut.set 0 p t else d1.prt.cut } }).discardDown p

/-- The rate in use on port `p`, as STATUS.SPEED codes it, when the PHY reports a rate in-band (R157): that rate in SGMII and USXGMII with
ANEG = 1, MODE.SPEED with ANEG = 0 or in 2500BASE-X, and the one rate of a BASE-R mode. A report of a rate that the mode does not have is
none. -/
def Dev.rateInUse (d : Dev) (p reported : Nat) : Option Nat :=
  let follow := d.bit .prtMode p 0 12
  let set := d.fld .prtMode p 0 6 4
  match d.fld .prtMode p 0 2 0 with
  | 1 => if follow then (if reported = 0 then some 0 else none) else some set
  | 2 => some set
  | 3 => if follow then (if reported ≤ 3 then some reported else none) else some set
  | 4 => some 3
  | 5 => some 4
  | _ => some reported

/-- `PORT_LINK_CHANGE` (R165): the PCS and the PHY report LINK, lock, faults and the rate. LINK rises only with the PCS locked, outside the
10 µs of R158 and with IF not Off. -/
def execPortLinkChange (p : Fin 32) (link lock localFault remoteFault : Bool) (speed : BitVec 3) (s : State) :
    Host.Outcome State Fault Refusal :=
  s.onDev (fun d =>
    if !d.domOn (domPortq (p.val / 4)) ∨ 5 ≤ speed.toNat then d else
    match d.rateInUse p speed.toNat with
    | none => d
    | some rate =>
      let up := link && lock && decide (d.prt.downUntil.get 0 p ≤ d.time.tick) && d.fld .prtMode p 0 2 0 != 0
      let was := d.bit .prtStatus p 0 0
      let chg := was != up || d.bit .prtStatus p 0 1 != localFault || d.bit .prtStatus p 0 2 != remoteFault
      let d1 := if d.fld .prtStatus p 0 6 4 ≠ rate then (d.cbsZero p).setFld .prtStatus p 0 6 4 rate else d
      let d2 := (((d1.setBit .prtStatus p 0 0 up).setBit .prtStatus p 0 1 localFault).setBit .prtStatus p 0 2
        remoteFault).setBit .prtStatus p 0 7 lock
      let d3 := if chg then d2.linkEvent p else d2
      if was ∧ !up then d3.linkFell p
      else if !was ∧ up ∧ d3.bit .chmPreempt p 0 31 then d3.verifyStart p
      else d3)

/-! ### Gates as time passes (R235, R239, R241) -/

/-- A list change or a change of the time takes effect while frames of port `p` are in transmission (R239). -/
def Dev.markMoved (d : Dev) (p : Nat) : Dev :=
  [0, 1].foldl (fun (d : Dev) mac => match d.txOf p mac with
    | some f => d.setTx p mac (some { f with moved := true })
    | none => d) d

/-- The gates take the states that the lists give now. A gate that closes on a frame in transmission is an overrun when a list
change or a change of the time took effect after the frame began; a preemptable frame is preempted. -/
def Dev.refreshGates (d : Dev) (p : Nat) : Dev :=
  if !d.gated p then d
  else
    let d0 := d.cbsSync p
    let g := d0.gatesAt p d0.time.ns.toNat
    let closes := fun (c : Nat) => d0.gateBit p c && !g.getLsbD c
    let hit : Nat → Bool := fun mac => match d0.txOf p mac with
      | some f => !f.preempted && closes f.cls
      | none => false
    let outrun := fun (mac : Nat) => hit mac && (match d0.txOf p mac with
      | some f => f.moved
      | none => false)
    let d1 := { d0 with chm := { d0.chm with gates := d0.chm.gates.set 0xFF p g } }
    let n := (if outrun 0 then 1 else 0) + (if outrun 1 then 1 else 0)
    let d2 := if 0 < n then d1.count .chmTxOverrun p 0 n else d1
    let d3 := if hit 1 ∧ d2.preActive p then d2.preemptNow p true else d2
    d3.resume p

/-- `GATE_ENTRY_START` (R235): the entry of the operational list that holds now is in force. -/
def execGateEntryStart (p : Fin 32) (s : State) : Host.Outcome State Fault Refusal :=
  s.onDev (fun d =>
    match d.changeAt p with
    | some c => if c ≤ d.time.ns.toNat then d else d.refreshGates p
    | none => d.refreshGates p)

/-- What the time has done to the lists of every port and to the TS_IO outputs after a set or a step (R248): the next rise of an output is
the first from the new time on. -/
def Dev.timeMoved (d : Dev) : Dev :=
  let d1 := (List.range 32).foldl (fun (d : Dev) p => (d.markMoved p).refreshGates p) d
  { d1 with chm := { d1.chm with operAt := Map.empty, tsRose := Map.empty,
                                 tsNext := (List.range 4).foldl (fun m n => m.set 0 n d1.time.ns.toNat) d1.chm.tsNext } }

/-- `GATE_LIST_SWAP` (R237): at the change time the banks swap and the admin values become operational. -/
def execGateListSwap (p : Fin 32) (s : State) : Host.Outcome State Fault Refusal :=
  s.onDev (fun d =>
    match d.changeAt p with
    | none => d
    | some c =>
      if d.time.ns.toNat < c then d
      else
        let d0 := d.cbsSync p
        let d1 := { d0 with chm := { d0.chm with bank := d0.chm.bank.set false p (!d0.operBank p),
                                                 operAt := d0.chm.operAt.set 0 p c } }
        let d2 := (((d1.setFld .chmGateCtrl p 0 26 16 (d1.fld .chmGateCtrl p 0 10 0)).wr .chmOperCycle p 0
          (d1.rd .chmAdminCycle p)).wr .chmOperBaseHi p 0 (d1.rd .chmAdminBaseHi p)).wr .chmOperBaseLo p 0
          (d1.rd .chmAdminBaseLo p)
        ((d2.setBit .chmGateCtrl p 0 28 false).markMoved p).refreshGates p)

/-- A write of CONFIG_CHANGE (R237): the change time is fixed; none while a change is pending. -/
def Dev.configChange (d : Dev) (p : Nat) : Option Dev :=
  if d.bit .chmGateCtrl p 0 28 then none
  else
    let l := d.adminList p
    let soon := d.time.ns.toNat + 1000
    let c := if soon ≤ l.base then l.base
      else l.base + (soon - l.base + max l.cycle 1 - 1) / max l.cycle 1 * max l.cycle 1
    let t := BitVec.ofNat 64 c
    some (((d.wr .chmChgTimeHi p 0 (t >>> (32 : Nat)).toNat).wr .chmChgTimeLo p 0 (t.truncate 32)).setBit .chmGateCtrl p 0 28 true)

/-- A write of CANCEL (R238): the pending change is dropped; none when there is none or its time has come. -/
def Dev.cancelChange (d : Dev) (p : Nat) : Option Dev :=
  match d.changeAt p with
  | some c => if d.time.ns.toNat < c then some (d.setBit .chmGateCtrl p 0 28 false) else none
  | none => none

/-! ### Hold (R241) -/

/-- A list's entries that set or release hold, as (asserts, start in the cycle). -/
def Dev.holdOps (d : Dev) (p : Nat) (l : GateCl) (i at_ : Nat) : Nat → List (Bool × Nat)
  | 0 => []
  | n + 1 =>
    if l.len ≤ i ∨ l.cycle ≤ at_ then []
    else
      let op := d.gclOp p l.bank i
      (if op = 1 then [(true, at_)] else if op = 2 then [(false, at_)] else [])
        ++ d.holdOps p l (i + 1) (at_ + d.gclInterval p l.bank i) n

/-- The latest of a list's instants of hold or release up to time `t`, each its advance ahead of its entry, and how long ago it was. Only
entries that start from `lo` on and before `hi` count. -/
def Dev.holdIn (d : Dev) (p t : Nat) (l : GateCl) (lo : Nat) (hi : Option Nat) : Option (Bool × Nat) :=
  let adv := fun (x : Bool) => if x then d.fld .chmHoldAdv p 0 15 0 else d.fld .chmHoldAdv p 0 31 16
  let instant := fun (o : Bool × Nat) =>
    let end_ := match hi with
      | some h => min (t + adv o.1) (h - 1)
      | none => t + adv o.1
    let back := l.pos (end_ + (max l.cycle 1 - o.2 % max l.cycle 1))
    if lo + back ≤ end_ then some (o.1, t + adv o.1 - (end_ - back)) else none
  ((d.holdOps p l 0 0 l.len).filterMap instant).foldl (fun (b : Option (Bool × Nat)) o => match b with
    | none => some o
    | some x => if o.2 < x.2 then some o else some x) none

/-- What the lists ask of hold at time `t`: the latest of the instants, and how long ago it was. A pending change gives the entries from its
time on to the new list and those before it to the old one, but for a partial cycle that does not start (R237). -/
def Dev.holdLatest (d : Dev) (p t : Nat) : Option (Bool × Nat) :=
  let old := match d.operList p with
    | some l => d.holdIn p t l (d.chm.operAt.get 0 p) ((d.changeAt p).map (fun c =>
        let cut := l.pos c
        if 0 < cut ∧ cut ≤ (d.rd .chmAdminCte p).toNat then c - cut else c))
    | none => none
  let new := match d.changeAt p with
    | some c => d.holdIn p t (d.adminList p) c none
    | none => none
  match new, old with
  | some x, some y => some (if x.2 ≤ y.2 then x else y)
  | some x, none => some x
  | none, y => y

/-- What the lists ask of hold at time `t`. -/
def Dev.holdWanted (d : Dev) (p t : Nat) : Option Bool := (d.holdLatest p t).map Prod.fst

/-- How far ahead of a closing gate hold is asserted. -/
def Dev.holdAhead (d : Dev) (p : Nat) : Nat := max (d.fld .chmHoldAdv p 0 15 0) (d.lineTime p (d.fragBytes p + 24))

/-- The gate of the preemptable frame in transmission closes within the lead (R241). -/
def Dev.gateCloses (d : Dev) (p t : Nat) : Bool :=
  match d.txOf p 1 with
  | some f => !f.preempted && !d.staysOpen p f.cls t (d.holdAhead p) (d.holdAhead p)
  | none => false

/-- Hold is over at time `t` (R241). Asserted for a list entry, it lasts until a Set-And-Release-MAC instant, or until no entry asks for it,
unless a gate is about to close. Asserted for a closing gate, it lasts until such an instant after it, or until that gate has reopened. -/
def Dev.holdOver (d : Dev) (p t : Nat) : Bool :=
  let (began, k) := d.chm.holdBy.get (0, 0) p
  if k = 0 then d.holdWanted p t != some true && !d.gateCloses p t
  else (match d.holdLatest p t with
      | some (false, age) => decide (age < t - began)
      | _ => false) ||
    (d.holdWanted p t != some true && d.gateBit p (k - 1) && d.staysOpen p (k - 1) t (d.holdAhead p) (d.holdAhead p))

/-- The instants of hold are met in the TICKCLK in which they fall. -/
def Dev.holdTime (d : Dev) : Nat := d.time.ns.toNat + 9

/-- `HOLD_ASSERT` (R241): hold is asserted and the preemptable frame in transmission ends its fragment, now or at the next permitted point. -/
def execHoldAssert (p : Fin 32) (s : State) : Host.Outcome State Fault Refusal :=
  s.onDev (fun d =>
    let t := d.holdTime
    if d.preActive p ∧ d.bit .chmGateCtrl p 0 31 ∧ !d.holdOn p ∧ (d.holdWanted p t = some true ∨ d.gateCloses p t) then
      let k := if d.holdWanted p t = some true then 0 else match d.txOf p 1 with
        | some f => f.cls + 1
        | none => 0
      (({ d with chm := { d.chm with hold := d.chm.hold.set false p true, holdBy := d.chm.holdBy.set (0, 0) p (t, k) } }).count
        .chmHold p).preemptNow p false
    else d)

/-- `HOLD_WITHDRAW` (R241): hold is withdrawn and the preempted frame goes on. -/
def execHoldWithdraw (p : Fin 32) (s : State) : Host.Outcome State Fault Refusal :=
  s.onDev (fun d =>
    let t := d.holdTime
    if d.holdOn p ∧ (!d.bit .chmGateCtrl p 0 31 ∨ d.holdOver p t) then
      ({ d with chm := { d.chm with hold := d.chm.hold.set false p false } }).resume p
    else d)

/-! ### TS_IO (R250) -/

/-- The first rise of output pin `n` at or after time `t`: START + k × PERIOD, and with PERIOD 0 START alone. -/
def Dev.tsRise (d : Dev) (n t : Nat) : Option Nat :=
  let start := (d.rd64 .tsioStartHi .tsioStartLo n).toNat
  let period := (d.rd .tsioPeriod n).toNat
  if t ≤ start then some start
  else if period = 0 then none
  else some (start + (t - start + period - 1) / period * period)

/-- Time `t` lies in a pulse of output pin `n`. -/
def Dev.tsHigh (d : Dev) (n t : Nat) : Bool :=
  let start := (d.rd64 .tsioStartHi .tsioStartLo n).toNat
  let period := (d.rd .tsioPeriod n).toNat
  decide (start ≤ t) && decide ((if period = 0 then t - start else (t - start) % period) < (d.rd .tsioWidth n).toNat)

/-- The MODE of a pin has become output: it starts low, and rises whose time has passed are skipped. -/
def Dev.tsModeWritten (d : Dev) (n was : Nat) : Dev :=
  if d.fld .tsioCtrl n 0 2 0 = 4 ∧ was ≠ 4 then
    { d.setBit .tsioCtrl n 0 16 false with chm := { d.chm with tsNext := d.chm.tsNext.set 0 n d.time.ns.toNat } }
  else d

/-- The pulse of output pin `n` that is high is over: WIDTH after its rise, or after a change of the time once the time lies in no pulse. -/
def Dev.tsOver (d : Dev) (n : Nat) : Bool :=
  match d.chm.tsRose.get none n with
  | some t => decide (t + (d.rd .tsioWidth n).toNat ≤ d.holdTime)
  | none => !d.tsHigh n d.holdTime

/-- `TS_IO_OUTPUT_EDGE` (R250): an output pin rises or falls when its time has come: a low pin at its next rise, a high one at the end of its
pulse. -/
def execTsIoOutputEdge (n : Fin 4) (s : State) : Host.Outcome State Fault Refusal :=
  s.onDev (fun d =>
    if d.fld .tsioCtrl n 0 2 0 ≠ 4 then d
    else if d.bit .tsioCtrl n 0 16 then
      if d.tsOver n then d.setBit .tsioCtrl n 0 16 false else d
    else match d.tsRise n (d.chm.tsNext.get 0 n) with
      | some t =>
        if d.holdTime < t then d
        else { d.setBit .tsioCtrl n 0 16 true with chm := { d.chm with
                 tsNext := d.chm.tsNext.set 0 n (t + 1), tsRose := d.chm.tsRose.set none n (some t) } }
      | none => d)

/-- `TS_IO_CAPTURE` (R250): an input pin takes a level, `sub` ns after the last TICKCLK; a selected edge is captured, or lost
while CAP_VALID is 1. -/
def execTsIoCapture (n : Fin 4) (level : Bool) (sub : Fin 10) (s : State) : Host.Outcome State Fault Refusal :=
  s.onDev (fun d =>
    let mode := d.fld .tsioCtrl n 0 2 0
    if mode = 4 ∨ d.bit .tsioCtrl n 0 16 = level then d
    else
      let d1 := d.setBit .tsioCtrl n 0 16 level
      if (mode = 1 ∧ level) ∨ (mode = 2 ∧ !level) ∨ mode = 3 then
        if d1.bit .tsioCtrl n 0 8 then d1.setBit .tsioCtrl n 0 9 true
        else
          let t := d1.time.ns + BitVec.ofNat 64 sub.val
          (((d1.wr .tsioCapHi n 0 (t >>> (32 : Nat)).toNat).wr .tsioCapLo n 0 (t.truncate 32)).setBit .tsioCtrl n 0 8
            true).raiseEvent (128 + n.val) 0
      else d1)

end Sys2Proof.Machine
end

