-- ==== Sys2Proof/Machine/Local.lean ====
section
/-!
DEFINITION. The CAN controllers (R371–R379) and the local interfaces (R380–R384).
-/
namespace Sys2Proof.Machine

/-! ### CAN controllers -/

def Dev.can (d : Dev) (c : Nat) : CanCtl := d.loc.can.get CanCtl.init c
def Dev.setCan (d : Dev) (c : Nat) (x : CanCtl) : Dev :=
  { d with loc := { d.loc with can := d.loc.can.set CanCtl.init c x } }
/-- The controller is on its bus. -/
def Dev.canOn (d : Dev) (c : Nat) : Bool := d.domOn domCan && (d.can c).on
def Dev.canState (d : Dev) (c : Nat) : Nat := d.fld .canStatus c 0 31 30
/-- Bus-off, or recovering from it. -/
def Dev.busOff (d : Dev) (c : Nat) : Bool := decide (2 ≤ d.canState c)

/-- A write of a bit-timing register gives a bit no shorter than R372 allows: 0 NBT, 1 DBT, 2 XBT. -/
def btLegal (n : Nat) (v : W32) : Bool :=
  decide ([1000, 125, 50].getD n 0 ≤ (bits v 31 24 + 1) * (1 + (bits v 23 16 + 1) + (bits v 14 8 + 1)))

/-- Format 0 Classical is always enabled; 1 FD and 2 XL by CTRL (R371). -/
def Dev.fmtOn (d : Dev) (c fmt : Nat) : Bool :=
  fmt == 0 || (fmt == 1 && d.bit .canCtrl c 0 30) || (fmt == 2 && d.bit .canCtrl c 0 29)

/-- The data length that a DLC gives in format `fmt` (R374). -/
def dlcLen (fmt : Nat) (dlc : Nat) : Nat :=
  if fmt = 0 then min dlc 8 else [0, 1, 2, 3, 4, 5, 6, 7, 8, 12, 16, 20, 24, 32, 48, 64].getD dlc 0

/-- The eight words of a frame image (R374). -/
def canImage (c : Nat) (f : CanFrame) : List Word :=
  let fmt := f.fmt.val
  let b := fun (x : Bool) (n : Nat) => if x then 2 ^ n else 0
  let w0 := fmt * 16384 + b (f.ide && fmt != 2) 13 + b (f.rtr && fmt == 0) 12 + b (f.brs && fmt == 1) 11 +
    b (f.esi && fmt == 1) 10 + b (f.sec && fmt == 2) 9 + (if fmt = 2 then 0 else f.dlc.toNat)
  let id := if f.ide ∧ fmt ≠ 2 then f.id.toNat else f.id.toNat % 2048
  let xl := fun (n : Nat) => if fmt = 2 then n else 0
  [w0, id / 65536, id % 65536, xl (f.sdt.toNat * 256 + f.vcid.toNat), xl (f.af.toNat / 65536), xl (f.af.toNat % 65536),
   f.data.length, c].map (fun n => Word.plain (w16 n))

/-- The image of a frame is valid (R377): its format is enabled, every rsv field zero, LEN 16 plus the data length, and the
length legal for the format and DLC. -/
def Dev.imageOk (d : Dev) (c : Nat) (ws : List Word) (len : Nat) : Bool :=
  let v := fun k => (ws.getD k Word.zero).v.toNat
  let fmt := v 0 / 16384
  let n := v 6
  ws.all Word.isPlain && d.fmtOn c fmt && v 0 / 16 % 32 == 0 && v 6 / 4096 == 0 && v 7 / 32 == 0 && len == 16 + n &&
  (if fmt = 2 then decide (1 ≤ n ∧ n ≤ 2048)
   else n == (if fmt = 0 ∧ (ws.getD 0 Word.zero).v.getLsbD 12 then 0 else dlcLen fmt (v 0 % 16)))

/-- Free the buffer of a reception. -/
def Dev.canFreeRx (d : Dev) (x : CanCtl) : Dev :=
  match x.rx with
  | some (some (n, i, g), _) => d.freeGen n i g
  | _ => d

/-- TEC and REC take their values, which STATUS shows up to 255 (R371). -/
def Dev.canErrors (d : Dev) (c tec rxErr : Nat) : Dev :=
  ((d.setCan c { d.can c with txErrs := tec, rxErrs := rxErr }).setFld .canStatus c 0 23 16 (min tec 255)).setFld .canStatus c 0 7 0 (min rxErr 255)

/-- The mode of the transceiver in the data phase of a frame (R373): fast transmit or receive for an XL frame with MSW, else slow. -/
def Dev.canFast (d : Dev) (c : Nat) (xl : Bool) (fast : Nat) : Nat := if xl ∧ d.bit .canCtrl c 0 28 then fast else 0

/-- An XL frame of the controller was sent with the transceiver in fast transmit mode, which it has left (R373): the mode begins and ends within
the command that ends the frame (notes/assumptions/32.md). -/
def Dev.canSentFast (d : Dev) (c : Nat) (xl : Bool) : Dev :=
  if d.canFast c xl 1 = 1 then d.setCan c { d.can c with lastFast := 1, pwm := d.rd .canPwm c, mode := 0 } else d

/-- `CAN_DLC_RECEIVED` (R373, R375): the length of a frame in reception is known; a lossy buffer is allocated for it. A frame of a format that
is not enabled gets none. -/
def execCanDlcReceived (c : Fin 32) (fmt : Fin 3) (len : Nat) (s : State) : Host.Outcome State Fault Refusal :=
  s.onDev (fun d =>
    let x := d.can c
    if !d.canOn c ∨ d.busOff c ∨ x.rx.isSome ∨ 2048 < len ∨ !d.fmtOn c fmt then d
    else
      let (a, d1) := d.allocLen (16 + len) true none
      let fast := d.canFast c (fmt == 2) 2
      d1.setCan c { x with rx := some (a.got, len), mode := fast, lastFast := if fast = 2 then 2 else x.lastFast })

/-- A frame in reception fails under the standard's error rules (R375): its buffer is freed, RX_ERR counts, and REC rises by `k`. -/
def Dev.canRxFails (d : Dev) (c k : Nat) : Dev :=
  let x := d.can c
  (((d.canFreeRx x).setCan c { x with rx := none, mode := 0 }).canErrors c x.txErrs (min (x.rxErrs + k) 255)).count .canRxErr c

/-- `CAN_RX_ERROR` (R371, R375): REC rises by one, or by eight where the standard says so. -/
def execCanRxError (c : Fin 32) (eight : Bool) (s : State) : Host.Outcome State Fault Refusal :=
  s.onDev (fun d => if d.canOn c ∧ !d.busOff c then d.canRxFails c (if eight then 8 else 1) else d)

/-- REC after a frame received without error (R371; PRESUMED, ISO 11898-1, notes/assumptions/50.md). -/
def recAfter (n : Nat) : Nat := if 127 < n then 127 else n - 1

/-- `CAN_RX_FRAME` (R374, R375): the image and the data are written, and the frame waits for its mill. A format that is not
enabled is a format error; a fifth frame that waits is dropped. An XL frame whose length no command announced had the
transceiver in fast receive mode too (R373). A frame without a buffer counts in RX_NOBUF and is still parsed and
classified (R9); where four wait already it is not (DESIGN CHOICE, notes/assumptions/50.md). -/
def execCanRxFrame (c : Fin 32) (f : CanFrame) (ago : W32) (s : State) : Host.Outcome State Fault Refusal :=
  s.onDev (fun d =>
    if !d.canOn c ∨ d.busOff c then d
    else if !d.fmtOn c f.fmt then d.canRxFails c 1
    else
      let x := d.can c
      let n := f.data.length
      let (got, d1) := match x.rx with
        | some (b, len) => if len = n then (b, d) else (none, d.canFreeRx x)
        | none => let (a, d1) := d.allocLen (16 + n) true none; (a.got, d1)
      let d2 := (d1.canErrors c x.txErrs (recAfter x.rxErrs)).count .canRxFrames c
      let idle := { x with rx := none, mode := 0, rxErrs := recAfter x.rxErrs,
                           lastFast := if d.canFast c (f.fmt.val == 2) 2 = 2 then 2 else x.lastFast }
      let dropped := { idle with drops := min (x.drops + 1) 0xFFFF }
      let full := decide (4 ≤ (d2.prt.rxq.get [] (32 + c)).length)
      let ts := d2.time.ns - ago.zeroExtend 64
      let bs := (wordsToBytes (canImage c f) ++ f.data).map (fun b => (b, false))
      let e : RxEntry := { bytes := bs, src := 32 + c, fifo := 0, since := d.time.tick, ts := ts, status := 0, meta3 := 0,
                           meta4 := w16 (c + f.fmt.val * 256), meta5 := w16 x.drops, buf := none }
      match got with
      | none =>
        let d3 := (d2.setCan c dropped).count .canRxNobuf c
        if full then d3 else d3.pushRx e
      | some (p, i, g) =>
        if full then ((d2.freeGen p i g).setCan c dropped).count .canRxOverrun c
        else
          let d3 := (d2.writeHead p i g (16 + n) (32 + c) false (ts.truncate 32)).storeBytes
            (d2.bufAddr p i + 16 + d2.poolPad p) bs
          (d3.setCan c { idle with drops := 0 }).pushRx { e with buf := some (p, i, g) })

/-- The transmit flue of a controller (R376). -/
def Dev.txFlue (d : Dev) (c : Nat) : Nat := 4096 + d.fld .canCtrl c 0 9 0

/-- The buffer that a transmit message names, with its generation, if it is exactly a current buffer handle. -/
def Dev.msgBuf (d : Dev) (m : FlueMsg) : Option (Nat × Nat × Nat) :=
  match m.words with
  | [h, l] =>
    match handleOf h l with
    | some (k, g, i) => if d.bufCurrent k g i then some (k, i, g) else none
    | none => none
  | _ => none

/-- `CAN_TX_TAKE` (R376, R377). A controller that is to leave its bus takes no further message (R378). -/
def execCanTxTake (c : Fin 32) (s : State) : Host.Outcome State Fault Refusal :=
  s.onDev (fun d =>
    let x := d.can c
    let f := d.txFlue c
    if !d.canOn c ∨ d.busOff c ∨ x.tx.isSome ∨ !d.bit .canCtrl c 0 31 ∨ !d.bit .canCtrl c 0 24 ∨ d.bit .canCtrl c 0 25 then d
    else match (d.flue f).find? (fun m => m.reader.isNone) with
      | none => d
      | some m =>
        let d1 := d.setFlue f ((d.flue f).erase m)
        match d1.msgBuf m with
        | none => d1.count .canTxBad c
        | some (p, i, g) =>
          if d.bufWaits p i then d else
          let (hd, d2) := d1.head p i
          let (fmt, d3) := match hd with
            | some (len, dofs) =>
              let (ws, d3) := d2.readWords (d2.bufAddr p i + dofs) 8
              (if d3.imageOk c ws len then some ((ws.getD 0 Word.zero).v.toNat / 16384) else none, d3)
            | none => (none, d2)
          match fmt with
          | some k => d3.setCan c { x with tx := some ⟨p, i, g, 0, k == 2, true⟩ }
          | none => (d3.freeGen p i g).count .canTxBad c)

/-- The controller can send: it is on its bus, not bus-off and not listen-only (R371, R378). A frame that it took before waits. -/
def Dev.canSends (d : Dev) (c : Nat) : Bool := d.canOn c && !d.busOff c && !d.bit .canCtrl c 0 25

/-- The controller has a frame on its bus: in reception, or in transmission and neither failed nor kept from being sent. -/
def Dev.canBusy (d : Dev) (c : Nat) : Bool :=
  (d.can c).rx.isSome || ((d.can c).tx.any (fun t => t.going) && d.canSends c)

/-- `CAN_TX_SUCCESS` (R377): TEC falls by one. -/
def execCanTxSuccess (c : Fin 32) (s : State) : Host.Outcome State Fault Refusal :=
  s.onDev (fun d =>
    let x := d.can c
    match x.tx with
    | some t =>
      if d.canSends c then
        ((((d.freeGen t.pool t.idx t.gen).setCan c { x with tx := none, mode := 0 }).canSentFast c t.xl).canErrors c (x.txErrs - 1)
          x.rxErrs).count .canTxFrames c
      else d
    | none => d)

/-- `CAN_TX_FAIL` (R377): a lost arbitration is repeated; the RETRY-th error abandons the frame. An error raises TEC by eight unless it is
one of those that the standard exempts (`kept`); `inData` says that it lay in the data phase. -/
def execCanTxFail (c : Fin 32) (error kept inData : Bool) (s : State) : Host.Outcome State Fault Refusal :=
  s.onDev (fun d =>
    let x := d.can c
    let retry := d.fld .canCtrl c 0 23 16
    match x.tx with
    | some t =>
      if !d.canSends c then d
      else if !error then d.setCan c { x with tx := some { t with going := false } }
      else
        let d1 := (d.canSentFast c (t.xl && inData)).canErrors c (if kept then x.txErrs else x.txErrs + 8) x.rxErrs
        if retry ≠ 0 ∧ retry ≤ t.fails + 1 then
          ((d1.freeGen t.pool t.idx t.gen).setCan c { d1.can c with tx := none, mode := 0 }).count .canTxAbandon c
        else d1.setCan c { d1.can c with tx := some { t with fails := t.fails + 1, going := false }, mode := 0 }
    | none => d)

/-- The state that the error counters put a controller in that is not bus-off (R371): bus-off past 255, error-passive past 127. -/
def canStateOf (tec rxErr : Nat) : Nat := if 255 < tec then 2 else if 127 < tec ∨ 127 < rxErr then 1 else 0

/-- A controller enters a state of fault confinement: bit c of EVT_PEND and event 163 (R378). -/
def Dev.canTo (d : Dev) (c st : Nat) : Dev :=
  ((d.setFld .canStatus c 0 31 30 st).setBit .canEvtPend 0 0 c true).raiseEvent 163 0

/-- `CAN_STATE_CHANGE` (R371, R378): the controller goes to the state that its error counters give; bus-off recovers at once with AUTO_REC. One
that recovers has met the sequence of the standard, and is error-active with TEC and REC zero. -/
def execCanStateChange (c : Fin 32) (s : State) : Host.Outcome State Fault Refusal :=
  s.onDev (fun d =>
    let x := d.can c
    let now := canStateOf x.txErrs x.rxErrs
    if !d.canOn c ∨ d.canState c = 2 then d
    else if d.canState c = 3 then (d.canErrors c 0 0).canTo c 0
    else if now = d.canState c then d
    else if now = 2 then
      ((d.setCan c { x with mode := 0 }).canTo c (if d.bit .canCtrl c 0 26 then 3 else 2)).count .canBusoff c
    else d.canTo c now)

/-- A write of CMD (R378): bit 0 REC_GO, ignored and logged unless bus-off; bit 1 TX_FLUSH. -/
def Dev.canCmdWritten (d : Dev) (r : Req) (c : Nat) (v : W32) : Dev :=
  let d1 := if v.getLsbD 0 then
      (if d.canState c = 2 then d.setFld .canStatus c 0 31 30 3 else d.reject r (RegKind.off .canCmd c 0))
    else d
  if v.getLsbD 1 ∧ d1.bit .canCtrl c 0 24 then
    let f := d1.txFlue c
    let d2 := (d1.flue f).foldl (fun d m =>
      (match d.msgBuf m with
        | some (p, i, g) => d.freeGen p i g
        | none => d).count .canTxBad c) d1
    d2.setFlue f []
  else d1

/-- EN of a controller was written: 1 takes effect at once, 0 at the next bus idle. -/
def Dev.canEnWritten (d : Dev) (c : Nat) (now : Bool) : Dev :=
  if now then d.setCan c { d.can c with on := true } else d

/-- `CAN_DISABLE` (R378): the bus is idle, and CTRL.EN = 0 takes effect. -/
def execCanDisable (c : Fin 32) (s : State) : Host.Outcome State Fault Refusal :=
  s.onDev (fun d =>
    if !d.bit .canCtrl c 0 31 ∧ !d.canBusy c then d.setCan c { d.can c with on := false, mode := 0 } else d)

/-- No controller has a frame in progress (R399): one that is off its bus, or bus-off, sends none. -/
def Dev.canIdle (d : Dev) : Bool := (List.range 32).all (fun c => !d.canBusy c)

/-- PD_CAN is asked to power down: each controller ends as if CTRL.EN were written 0 (R399). -/
def Dev.canLeave (d : Dev) : Dev := (List.range 32).foldl (fun d c => d.setBit .canCtrl c 0 31 false) d

/-- The controllers lose power: a frame in reception or transmission is dropped and its buffer freed. -/
def Dev.canPowerOff (d : Dev) : Dev :=
  (List.range 32).foldl (fun d c =>
    let x := d.can c
    let d1 := d.canFreeRx x
    let d2 := match x.tx with
      | some t => d1.freeGen t.pool t.idx t.gen
      | none => d1
    d2.setCan c { CanCtl.init with drops := x.drops }) d

/-! ### xSPI (R380) -/

/-- A write of XSPI.CMD with GO = 1: DIR and LEN; while BUSY it is ignored and logged. -/
def Dev.xspiWritten (d : Dev) (r : Req) (v : W32) : Dev :=
  if !v.getLsbD 31 then d
  else if d.loc.xspi.isSome then d.reject r (RegKind.off .xspiCmd 0 0)
  else
    let x := (v.getLsbD 29, d.fld .xspiGran 0 0 24 0, bits v 15 0 + 1)
    { d.setBit .xspiCmd 0 0 30 true with loc := { d.loc with xspi := some x } }

/-- `XSPI_DONE` (R380): bytes from the flash are stored in the granary, or the granary's go to the flash; BUSY clears. -/
def execXspiDone (data : Bytes) (s : State) : Host.Outcome State Fault Refusal :=
  s.onDev (fun d =>
    match d.loc.xspi with
    | none => d
    | some (toFlash, a, n) =>
      let m := min n (0x2000000 - a)
      let d1 := { d.setBit .xspiCmd 0 0 30 false with loc := { d.loc with xspi := none } }
      if toFlash then
        let (bs, d2) := d1.readBytes a m
        { d2 with loc := { d2.loc with xspiOut := bs.map Prod.fst } }
      else
        let bs := (data.take m).map (fun b => (b, false))
        let n1 := 0x400000 - a % 0x400000
        let put := fun (d : Dev) (x : Nat) (bs : List (W8 × Bool)) => if d.memOk x then d.storeBytes x bs else d
        put (put d1 a (bs.take n1)) (a + n1) (bs.drop n1))

/-! ### UARTs (R382) -/

/-- `UART_RX_BYTE`. -/
def execUartRxByte (u : Fin 2) (b : W8) (s : State) : Host.Outcome State Fault Refusal :=
  s.onDev (fun d =>
    let q := d.loc.uartRx.get [] u
    if !d.bit .uartCtrl u 0 31 then d
    else if 32 ≤ q.length then d.setBit .uartStat u 0 31 true
    else
      let d1 := { d with loc := { d.loc with uartRx := d.loc.uartRx.set [] u (q ++ [b]) } }
      if q = [] then d1.raiseEvent (165 + u) 0 else d1)

/-- A write of DATA queues a byte; one that finds the FIFO full is lost. -/
def Dev.uartSend (d : Dev) (u : Nat) (b : W8) : Dev :=
  let q := d.loc.uartTx.get [] u
  if 32 ≤ q.length then d else { d with loc := { d.loc with uartTx := d.loc.uartTx.set [] u (q ++ [b]) } }

/-- A read of DATA returns and removes the oldest received byte, with VALID; zero when there is none. -/
def Dev.uartTake (d : Dev) (u : Nat) : W32 × Dev :=
  match d.loc.uartRx.get [] u with
  | [] => (0, d)
  | b :: q => (BitVec.ofNat 32 (256 + b.toNat), { d with loc := { d.loc with uartRx := d.loc.uartRx.set [] u q } })

/-- `UART_TX_BYTE_SENT`. -/
def execUartTxByteSent (u : Fin 2) (s : State) : Host.Outcome State Fault Refusal :=
  s.onDev (fun d =>
    if d.bit .uartCtrl u 0 31 then
      { d with loc := { d.loc with uartTx := d.loc.uartTx.upd [] u (List.drop 1) } }
    else d)

/-! ### GPIO (R383) -/

/-- The level of every pin: an output shows OUT. -/
def Dev.gpioLevels (d : Dev) : W32 :=
  let oe := d.rd .gpioOe
  (d.rd .gpioOut &&& oe) ||| (d.rd .gpioIn &&& ~~~ oe)

/-- `GPIO_EDGE`: an input pin's level changes; an enabled edge sets EDGE_PEND and raises event 167. -/
def execGpioEdge (n : Fin 32) (level : Bool) (s : State) : Host.Outcome State Fault Refusal :=
  s.onDev (fun d =>
    let was := d.bit .gpioIn 0 0 n
    let d1 := d.setBit .gpioIn 0 0 n level
    if was = level ∨ d.bit .gpioOe 0 0 n then d1
    else if (if level then d.bit .gpioRiseEn 0 0 n else d.bit .gpioFallEn 0 0 n) then
      (d1.setBit .gpioEdgePend 0 0 n true).raiseEvent 167 0
    else d1)

/-! ### MDIO (R384) -/

/-- A write of CMD starts a frame; while BUSY it is ignored and logged. -/
def Dev.mdioStart (d : Dev) (m : Nat) : Dev :=
  let d1 := d.setBit .mdioCmd m 0 31 true
  { d1 with loc := { d1.loc with mdio := d1.loc.mdio.set none m (some (d1.rd .mdioCmd m)) } }

/-- `MDIO_DONE`: the frame ends; a read leaves the PHY's data in DATA. -/
def execMdioDone (m : Fin 2) (data : W16) (s : State) : Host.Outcome State Fault Refusal :=
  s.onDev (fun d =>
    match d.loc.mdio.get none m with
    | none => d
    | some v =>
      let d1 := { d.setBit .mdioCmd m 0 31 false with loc := { d.loc with mdio := d.loc.mdio.set none m none } }
      if 2 ≤ bits v 29 28 then d1.setFld .mdioCmd m 0 15 0 data.toNat else d1)

end Sys2Proof.Machine
end

