-- ==== Sys2Proof/Machine/LogBook.lean ====
section
/-!
DEFINITION. The log writer (R404, R405), fuse programming (R412) and the temperature sensors (R427).
-/
namespace Sys2Proof.Machine

/-! ### The log book (R401, R404, R405) -/

/-- The eight words of a record. -/
def LogRec.words (r : LogRec) : List W16 :=
  let t := r.time.toNat
  [w16 (r.sev * 16384 + r.block * 256 + r.code), w16 ((if r.coal then 32768 else 0) + r.inst % 1024), r.d2, r.d3, r.d4,
   w16 (t / 2 ^ 32), w16 (t / 65536), w16 t]

/-- The ring is enabled and not full. -/
def Dev.logRoom (d : Dev) : Bool :=
  let n := 2 ^ d.fld .errLogCfg 0 0 8 4
  d.bit .errLogCfg 0 0 0 && decide ((d.fld .errLogProd 0 0 15 0 + 1) % n ≠ d.fld .errLogCons 0 0 15 0 % n)

/-- Store one record at PROD: the Bool says that the target accepted it. Then PROD advances, event 169 is raised, and a record of
severity IRQ_SEV or above sets IRQ_PEND.RECORD. -/
def Dev.logPut (d : Dev) (sev : Nat) (ws : List W16) : Dev × Bool :=
  let n := 2 ^ d.fld .errLogCfg 0 0 8 4
  let prod := d.fld .errLogProd 0 0 15 0 % n
  let base := d.fld .errLogBaseHi 0 0 3 0 * 2 ^ 32 + (d.rd .errLogBaseLo).toNat / 16 * 16
  let pa := base + prod * 16
  let ok : Bool := match d.region pa with
    | .granary _ => d.memOk pa
    | .lpddr _ => true
    | .host _ => true
    | _ => false
  if !ok then (d, false)
  else match d.agentStore pa (ws.map Word.plain) with
    | (d1, false) => (d1, false)
    | (d1, true) =>
      let next := (prod + 1) % n
      let d2 := (d1.setFld .errLogProd 0 0 15 0 next).raiseEvent 169 (w16 next)
      (if d2.fld .errIrqEn 0 0 5 4 ≤ sev then d2.setBit .errIrqPend 0 0 0 true else d2, true)

/-- The LOST record: the counts of the records lost since the last one. -/
def Dev.lostWords (d : Dev) : List W16 :=
  let n := fun s => d.log.lost.get 0 s
  let top := if 0 < n 3 then 3 else if 0 < n 2 then 2 else if 0 < n 1 then 1 else 0
  let t := d.time.ns.toNat
  [w16 (top * 16384 + 0x3FFF), 0, w16 (n 0), w16 (n 1), w16 (n 2), w16 (n 3), w16 (t / 65536), w16 t]

/-- The source that the writer serves next: the highest severity, in rotation after the one it served last. -/
def Dev.logPick (d : Dev) : Option (Nat × LogRec) :=
  let srcs := d.log.srcs.entries.filterMap (fun e => e.2.first.map (fun r => (e.1, r)))
  let order := srcs.filter (fun e => d.log.served < e.1 + 1) ++ srcs.filter (fun e => ¬ d.log.served < e.1 + 1)
  [3, 2, 1, 0].findSome? (fun s => order.find? (fun e => e.2.sev == s))

/-- The writer is busy with a record for 8 FABCLK (R404). -/
def Dev.logBusy (d : Dev) : Dev := { d with log := { d.log with nextAt := max d.log.nextAt d.fabclk + 8 } }

/-- `LOG_WRITE` (R404, R405): the LOST record first; else the next record, which is lost when its target refuses it. -/
def execLogWrite (s : State) : Host.Outcome State Fault Refusal :=
  s.onDev (fun d =>
    if !d.logRoom ∨ d.fabclk + 9 < d.log.nextAt then d
    else if (List.range 4).any (fun s => decide (0 < d.log.lost.get 0 s)) then
      let ws := d.lostWords
      match d.logBusy.logPut ((ws.getD 0 0).toNat / 16384) ws with
      | (d1, true) => { d1 with log := { d1.log with lost := Map.empty } }
      | (d1, false) => d1
    else match d.logPick with
      | none => d
      | some (k, r) =>
        let src := d.log.srcs.get ⟨none, none, 0⟩ k
        let d1 := { d with log := { d.log with
          srcs := d.log.srcs.set ⟨none, none, 0⟩ k ⟨src.last, none, if src.last.isSome then src.pend else 0⟩, served := k + 1 } }
        match d1.logBusy.logPut r.sev r.words with
        | (d2, true) => d2
        | (d2, false) =>
          match d2.lose r.sev with
          | (d3, false) => d3
          | (d3, true) => (d3.saturated 2).logRec (satRecord d3 2 0 (CtrKind.off .errLost r.sev 0)))

/-! ### Fuses (R412) -/

/-- TOP.FUSE for a fuse image: AUTH_EN and KEY_SET. -/
def fuseReg (f : Map W32) : W32 :=
  let w := f.get 0 16
  BitVec.ofNat 32 ((if w.getLsbD 0 then 2 ^ 31 else 0) + (if w.getLsbD 1 then 2 ^ 30 else 0))

/-- `OTP_PROGRAM` (R412): a PROGRAM command through DBGACC. It is refused with ERR for a key word once KEY_SET is 1, or without
VDD_OTP; and refused altogether while JTAG_EN is 0. A word above 16 holds no fuse. -/
def execOtpProgram (word : Fin 32) (vddOtp : Bool) (s : State) : Host.Outcome State Fault Refusal :=
  let keySet := (s.fuses.get 0 16).getLsbD 1
  s.onDev (fun d =>
    if !d.bit .dbgCtrl 0 0 31 ∨ d.top.inReset ∨ d.top.otpBusy.isSome then d
    else
      let d0 := d.setFld .dbgOtpCmd 0 0 4 0 word
      if (keySet ∧ word.val < 16) ∨ !vddOtp then d0.setBit .dbgOtpCmd 0 0 29 true
      else { d0.setBit .dbgOtpCmd 0 0 30 true with
             top := { d0.top with otpBusy := some (d0.time.tick, word.val, d0.rd .dbgOtpData) } })

/-- `OTP_PROGRAM_DONE` (R412): after 100 µs the bits that are 1 in DATA are set; no fuse is cleared. -/
def execOtpProgramDone (s : State) : Host.Outcome State Fault Refusal :=
  match s.dev.top.otpBusy with
  | none => .next s
  | some (since, k, v) =>
    if s.dev.time.tick < since + usTicks 100 then .next s
    else
      let d := s.dev
      let f := if k ≤ 16 then s.fuses.set 0 k (s.fuses.get 0 k ||| v) else s.fuses
      .next { s with fuses := f,
                     dev := { d.setBit .dbgOtpCmd 0 0 30 false with top := { d.top with otpBusy := none } } }

/-! ### Temperature (R427) -/

/-- A temperature alarm set in the present sample period of 10 µs stands: a clear in it takes effect first. -/
def Dev.tempStands (d : Dev) : Bool :=
  match d.top.tempCross with
  | some t => decide (d.time.tick < t + usTicks 10)
  | none => false

/-- ALARM was written 1: it is set again where the crossing of the same sample period sets it. -/
def Dev.tempCleared (d : Dev) (was : Bool) : Dev := if was && d.tempStands then d.setBit .topTemp 0 0 31 true else d

/-- `TEMP_SAMPLE`: TEMP holds the highest sensor; a sample that reaches TH sets ALARM and raises event 171, once until a sample
falls below TH − 2 °C or EN is written. -/
def execTempSample (t : BitVec 11) (s : State) : Host.Outcome State Fault Refusal :=
  s.onDev (fun d =>
    let th : Int := (BitVec.ofNat 11 (d.fld .topTempAlarm 0 0 10 0)).toInt
    let d1 := d.setFld .topTemp 0 0 10 0 t.toNat
    let arm := fun (b : Bool) (x : Option Nat) (d : Dev) => { d with top := { d.top with tempArmed := b, tempCross := x } }
    if t.toInt < th - 8 then arm true none d1
    else if th ≤ t.toInt ∧ d.bit .topTempAlarm 0 0 31 ∧ d.top.tempArmed then
      (arm false (some d.time.tick) (d1.setBit .topTemp 0 0 31 true)).raiseEvent 171 0
    else arm d.top.tempArmed none d1)

/-- A write of TEMP_ALARM that sets EN lets the alarm be set again. -/
def Dev.tempEnWritten (d : Dev) (was now : Bool) : Dev :=
  if !was && now then { d with top := { d.top with tempArmed := true } } else d

end Sys2Proof.Machine
end

