-- ==== Sys2Proof/Machine/Flit.lean ====
section
/-!
DEFINITION. The 384 bits of a flit (R346–R350): its header, its sequence and acknowledgement word, its payload and its CRC. The first bit
sent is the most significant one of the number, and every field is sent most significant bit first (DESIGN CHOICE, notes/assumptions/54.md).
-/
namespace Sys2Proof.Machine

/-- `n` bits of a flit from bit `lo` on. -/
def flitBits (x : Flit) (lo n : Nat) : Nat := x.toNat / 2 ^ lo % 2 ^ n

/-! ### The header (R347) -/

def flitType (x : Flit) : Nat := flitBits x 380 4
def flitCt (x : Flit) : Nat := flitBits x 378 2
/-- The payload is in word form. -/
def flitW (x : Flit) : Bool := x.getLsbD 377
/-- The flit is the last of its message. -/
def flitLast (x : Flit) : Bool := x.getLsbD 376
def flitTag (x : Flit) : Nat := flitBits x 368 8
def flitRetType (x : Flit) : Nat := flitBits x 366 2
def flitRetCount (x : Flit) : Nat := flitBits x 352 14

/-! ### The sequence and acknowledgement word (R348) -/

def flitSeq (x : Flit) : Nat := flitBits x 340 12
def flitSv (x : Flit) : Bool := x.getLsbD 339
def flitAck (x : Flit) : Nat := flitBits x 327 12
def flitAv (x : Flit) : Bool := x.getLsbD 326
def flitNak (x : Flit) : Bool := x.getLsbD 325
def flitRsv (x : Flit) : Nat := flitBits x 320 5

/-! ### The payload (R349, R350) -/

/-- `n` payload bytes from byte `k` on as one number, most significant byte first. -/
def flitNum (x : Flit) (k n : Nat) : Nat := flitBits x (32 + 8 * (36 - k - n)) (8 * n)

/-- The words of a data flit: sixteen with their tags in word form, else eighteen PLAIN ones of two bytes each (R36). -/
def flitWords (x : Flit) : List Word :=
  if flitW x then
    (List.range 16).map (fun k => ⟨Tag.ofBits (BitVec.ofNat 2 (flitBits x (32 + 18 * k + 16) 2)), BitVec.ofNat 16 (flitBits x (32 + 18 * k) 16)⟩)
  else (List.range 18).map (fun k => Word.plain (BitVec.ofNat 16 (flitNum x (2 * k) 2)))

/-- A payload in word form. -/
def wordPayload : List Word → Nat
  | [] => 0
  | w :: r => w.tag.bits.toNat * 2 ^ 16 + w.v.toNat + 2 ^ 18 * wordPayload r

/-- A payload of numbers, each with its width in bytes, from byte 0 on; the bytes after them are zero. -/
def bytePayload (fs : List (Nat × Nat)) : Nat :=
  (fs.foldl (fun (a : Nat × Nat) f => (a.1 + f.2 % 2 ^ (8 * f.1) * 2 ^ (8 * (a.2 - f.1)), a.2 - f.1)) (0, 36)).1

/-! ### The CRC (R346) -/

/-- The CRC-32C of the 44 bytes that a number of 352 bits is sent as. -/
def flitCrc (b : Nat) : Nat :=
  Crypto.crc32cRun 0xFFFFFFFF ((List.range 44).map (fun k => BitVec.ofNat 8 (b / 2 ^ (8 * (43 - k))))) ^^^ 0xFFFFFFFF

/-- The flit's CRC is good. -/
def flitGood (x : Flit) : Bool := flitCrc (x.toNat / 2 ^ 32) == x.toNat % 2 ^ 32

/-- A flit of a header, a sequence word and a payload. -/
def flitOf (head seqWord payload : Nat) : Flit :=
  let b := head * 2 ^ 320 + seqWord * 2 ^ 288 + payload
  BitVec.ofNat 384 (b * 2 ^ 32 + flitCrc b)

/-- A flit header's number. -/
def flitHead (type ct : Nat) (word last : Bool) (tag retType retCount : Nat) : Nat :=
  type * 2 ^ 28 + ct * 2 ^ 26 + (if word then 2 ^ 25 else 0) + (if last then 2 ^ 24 else 0) + tag * 2 ^ 16 + retType * 2 ^ 14 + retCount

/-- A sequence and acknowledgement word's number: SEQ where it is valid, and ACK where it is valid. -/
def flitSeqWord (seq ack : Option Nat) (nak : Bool) : Nat :=
  (match seq with | some n => n * 2 ^ 20 + 2 ^ 19 | none => 0) +
  (match ack with | some n => n * 2 ^ 7 + 2 ^ 6 | none => 0) + (if nak then 2 ^ 5 else 0)

end Sys2Proof.Machine
end

