-- ==== Sys2Proof/Machine/Link.lean ====
section
/-!
DEFINITION. The Fupaul link (R342–R355): its states, the flits sent with their acknowledgements, returned credits and replays, the flits
received and the messages made of them, and what a load writes when its words arrive.
-/
namespace Sys2Proof.Machine

/-! ### What a load writes (R31, R65, R74) -/

/-- The byte that `LDB` reads of a word, in V[7:0] with V[15:8] zero (R68): POISON where the word is (R29, R31). -/
def byteOf (w : Word) (odd : Bool) : Word :=
  ⟨if w.isPoison then .poison else .plain, if odd then w.v &&& 0x00FF else w.v >>> (8 : Nat)⟩

/-- The results of a load of thread state `t` whose words are `ws`: its register or pair, and with U the pair that advances. -/
def loadPend (t : Thread) (i : Instr) (ws : List Word) : Pend :=
  let upd := fun (p : PairN) (exi : Exi) (u : Bool) (size : Nat) =>
    if u then
      let n := (t.low p ((memDisp exi size).getD 0) + size) % 2 ^ 32
      [(2 * p.val, Word.plain (w16 (n / 65536))), (2 * p.val + 1, Word.plain (w16 n))]
    else []
  let w := fun k => ws.getD k Word.zero
  match i with
  | .ld _ exi a p u => ⟨(a.val, w 0) :: upd p exi u 2, none, none⟩
  | .ldp _ exi a p u => ⟨(2 * a.val, w 0) :: (2 * a.val + 1, w 1) :: upd p exi u 4, none, none⟩
  | .ldb _ exi a p u =>
    if (w 0).isRef then ⟨[], none, some (operandFault 1 16 0 (w 0).v)⟩
    else ⟨(a.val, byteOf (w 0) (t.low p ((memDisp exi 1).getD 0) % 2 == 1)) :: upd p exi u 1, none, none⟩
  | _ => ⟨[], none, none⟩

/-! ### States (R343–R345) -/

def Dev.lnkStateNo (d : Dev) : Nat := d.fld .lnkStatus 0 0 27 24
/-- STATE changes, and UP with it; the state is entered now. -/
def Dev.lnkTo (d : Dev) (st : Nat) : Dev :=
  { (d.setFld .lnkStatus 0 0 27 24 st).setBit .lnkStatus 0 0 31 (st == 6) with
    lnk := { d.lnk with since := d.time.tick } }

/-- The high half of LNK.STATUS, as records and entries carry it. -/
def Dev.lnkWord (d : Dev) : W16 := hi16 (d.rd .lnkStatus)

/-- A write message is complete in the last data flit of a posted message. -/
def lastPosted : FlitBody × Nat → Bool
  | (.data _ true _, 0) => true
  | _ => false

def isMsi : FlitBody × Nat → Bool
  | (.msi _, _) => true
  | _ => false

/-- The writes not yet acknowledged are lost and counted; only interrupts stay; sequence numbers and credits start anew
(R344, R345, R370). -/
def Dev.lnkFlush (d : Dev) : Dev :=
  let kept := (d.lnk.replay.map (fun f => (f.body, f.ct))) ++ d.lnk.waiting
  let lost := (kept.filter lastPosted).length
  let d1 := if lost = 0 then d else d.count .lnkWrLost 0 0 lost
  { d1 with lnk := { d1.lnk with replay := [], waiting := kept.filter isMsi, nextSeq := 0, expect := 0, nakSent := false,
                                 asm := .none, ackDue := false, nakDue := false, again := false, txCredit := Map.empty, rxSpent := Map.empty } }

/-- CHG, event 161 and the link event for the host, when the link goes down (R345, R366). -/
def Dev.lnkTell (d : Dev) : Dev :=
  let d1 := d.setBit .lnkStatus 0 0 30 true
  (d1.raiseEvent 161 (lo16 (d1.rd .lnkStatus))).hostEvent [0x3000, d1.lnkWord, 0, 0, 0, 0, 0, 0]

/-- The widest width allowed whose lanes all lock, as MAXW encodes it (R343). -/
def lnkWidth (lanes : BitVec 4) (maxw : Nat) : Option Nat :=
  if maxw = 0 ∧ lanes = 0xF then some 0
  else if maxw ≤ 1 ∧ lanes.getLsbD 0 ∧ lanes.getLsbD 1 then some 1
  else if lanes.getLsbD 0 then some 2
  else none

/-- The time limit of a training state, in TICKCLK (R343, R344). -/
def lnkLimit (st : Nat) : Nat := [0, 1000, 2000, 1000, 5000, 1000, 0, 100].getD st 0 * 100

/-- A fast retrain starts (R344), logged. -/
def Dev.fastRetrain (d : Dev) : Dev :=
  if d.lnkStateNo = 6 ∧ d.domOn domLink then
    let d1 := d.lnkTo 7
    d1.log4 1 15 0x0B 0 d1.lnkWord 0 0
  else d

/-- `n` violations are counted in the present window; past ERR_LIMIT the link retrains (R355). -/
def Dev.lnkViol (d : Dev) (n : Nat) : Dev :=
  let win := d.time.tick / usTicks 1000
  let v := (if d.lnk.violWin = win then d.lnk.viol else 0) + n
  let d1 := { d with lnk := { d.lnk with viol := v, violWin := win } }
  if d.fld .lnkCtrl 0 0 7 0 < v ∧ d1.lnkStateNo = 6 then (d1.count .lnkRetrains).fastRetrain else d1

/-! ### Sending (R350–R352) -/

/-- Sequence distance from `a` up to `b`, modulo 4,096. -/
def seqDist (a b : Nat) : Nat := (b + 4096 - a % 4096) % 4096

/-- Every kept flit is to be resent: one pass (R352), and no second one while it is due (R370). Four passes of the same oldest flit retrain the
link (R355). -/
def Dev.resend (d : Dev) : Dev :=
  if d.lnk.replay = [] ∨ d.lnk.again then d
  else
    let l := d.lnk.replay.map (fun f => { f with since := d.time.tick, passes := f.passes + 1 })
    let d1 := ({ d with lnk := { d.lnk with replay := l, again := true } }).count .lnkReplays
    if 4 ≤ (l.head?.map TxFlit.passes).getD 0 ∧ d1.lnkStateNo = 6 then (d1.count .lnkRetrains).fastRetrain else d1

/-- An acknowledgement of `a` (R352, R354): it frees every kept flit up to and including `a`; one that names no kept flit is
ignored and counted. A NAK then resends what is left. -/
def Dev.lnkAck (d : Dev) (a : Nat) (nak : Bool) : Dev :=
  if d.lnk.replay.any (fun f => f.seq == a) then
    let rest := (d.lnk.replay.dropWhile (fun f => f.seq != a)).drop 1
    let d1 := { d with lnk := { d.lnk with replay := rest } }
    if nak then d1.resend else d1
  else (d.count .lnkProtoErr).lnkViol 1

/-- The link's flits flow: in CREDIT those of link control, in ACTIVE all. -/
def Dev.lnkFlows (d : Dev) : Bool := d.domOn domLink && (d.lnkStateNo == 5 || d.lnkStateNo == 6)

/-- `REPLAY_TIMEOUT` (R352). -/
def execReplayTimeout (s : State) : Host.Outcome State Fault Refusal :=
  s.onDev (fun d =>
    match d.lnk.replay with
    | f :: _ =>
      if d.lnkFlows ∧ f.since + d.fld .lnkTimers 0 0 31 24 * 10 ≤ d.time.tick then d.resend else d
    | [] => d)

/-- The flits of `w` that may be sent now: LCTL flits always, the others in ACTIVE while a credit of their type is left; all
while the replay buffer has room. `n` bounds them. -/
def Dev.pump (d : Dev) : Nat → Dev
  | 0 => d
  | n + 1 =>
    match d.lnk.waiting with
    | [] => d
    | (b, ct) :: r =>
      let credit := d.lnk.txCredit.get 0 ct
      if d.lnk.replay.length < 512 ∧ (ct = 3 ∨ (d.linkUp ∧ 0 < credit)) then
        let f : TxFlit := ⟨d.lnk.nextSeq, b, ct, d.time.tick, 0⟩
        let d1 := { d with lnk := { d.lnk with
          waiting := r, replay := d.lnk.replay ++ [f], nextSeq := (d.lnk.nextSeq + 1) % 4096,
          txCredit := if ct = 3 then d.lnk.txCredit else d.lnk.txCredit.set 0 ct (credit - 1) } }
        (d1.count .lnkFlitsTx).pump n
      else d

/-- The type, form, L and TAG of a body's flit, and its payload (R347, R350). -/
def FlitBody.fields : FlitBody → Nat × Bool × Bool × Nat × Nat
  | .mwr addr len => (1, false, false, 0, bytePayload [(8, addr.toNat), (2, len)])
  | .mrd addr len tag => (2, false, true, tag, bytePayload [(8, addr.toNat), (2, len)])
  | .cpl status len tag => (3, false, status != 0, tag, bytePayload [(1, status), (2, len)])
  | .data wordForm last ws =>
    (4, wordForm, last, 0, if wordForm then wordPayload ws else bytePayload (ws.map (fun w => (2, w.v.toNat))))
  | .msi vec => (5, false, true, 0, bytePayload [(1, vec)])
  | .lctl sub typ count => (6, false, true, 0, bytePayload [(1, sub), (1, typ), (2, count)])

/-- The flit on the lanes of a kept flit, or of a NOP: with the acknowledgement and the credits that it carries (R346–R348). -/
def laneFlit (f : Option TxFlit) (ack : Option Nat) (nak : Bool) (ret : Nat × Nat) : Flit :=
  match f with
  | some f =>
    let (type, word, last, tag, payload) := f.body.fields
    flitOf (flitHead type f.ct word last tag ret.1 ret.2) (flitSeqWord (some f.seq) ack nak) payload
  | none => flitOf (flitHead 0 3 false true 0 ret.1 ret.2) (flitSeqWord none ack nak) 0

/-- The NOP flits that go out beside `n` others: for what those cannot carry, and one in each 1,024 (R351, R353). -/
def Dev.nopsDue (d : Dev) (n : Nat) : Nat :=
  let rets := (List.range 3).filter (fun t => d.lnk.rxSpent.get 0 t != 0)
  max (max rets.length (if d.lnk.ackDue ∨ d.lnk.nakDue then 1 else 0) - n) (if 1024 ≤ d.lnk.sinceNop + n then 1 else 0)

/-- Flits go out on the lanes: NOPs first, then `fs`, with the acknowledgement or NAK that is owed and the credits that the card has
spent, which it gets back (R351–R353). -/
def Dev.lanes (d : Dev) (fs : List TxFlit) : Dev :=
  let nops := d.nopsDue fs.length
  let rets := ((List.range 3).filter (fun t => d.lnk.rxSpent.get 0 t != 0)).map (fun t => (t, d.lnk.rxSpent.get 0 t))
  let all := List.replicate nops none ++ fs.map some
  let ack := if d.lnk.ackDue ∨ d.lnk.nakDue then some ((d.lnk.expect + 4095) % 4096) else none
  if all = [] then d
  else
    { d with lnk := { d.lnk with
      laneOut := ((List.range all.length).zip all).map (fun kf =>
        laneFlit kf.2 (if kf.1 = 0 then ack else none) (kf.1 == 0 && d.lnk.nakDue) (rets.getD kf.1 (3, 0))),
      ackDue := false, nakDue := false, rxSpent := Map.empty,
      sinceNop := if nops = 0 then d.lnk.sinceNop + fs.length else fs.length } }

/-- A tick of the link: the flits to be resent, then new ones while the replay buffer has room (R352). -/
def Dev.lnkTick (d : Dev) : Dev :=
  if d.lnkFlows then
    let old := d.lnk.replay
    let d1 := d.pump (d.lnk.waiting.length)
    let again := if d.lnk.again then old else []
    let d2 := if again = [] then d1 else d1.count .lnkFlitsTx 0 0 again.length
    { d2 with lnk := { d2.lnk with again := false } }.lanes (again ++ d1.lnk.replay.drop old.length)
  else d

/-- LCTL flits go before what waits. -/
def Dev.sendFront (d : Dev) (fs : List (FlitBody × Nat)) : Dev :=
  { d with lnk := { d.lnk with waiting := fs ++ d.lnk.waiting } }

/-- The device's credits of each type (R351). -/
def rxCredits (ct : Nat) : Nat := [256, 64, 512].getD ct 0

/-! ### Receiving (R353, R354) -/

/-- A violation of the last row kinds of R354 is counted. -/
def Dev.protoErr (d : Dev) : Dev := (d.count .lnkProtoErr).lnkViol 1

/-- The acknowledgement and credit fields of an accepted flit (R351, R352). -/
def Dev.flitFields (d : Dev) (x : Flit) : Dev :=
  let d1 := if flitRetType x = 3 then d else
    { d with lnk := { d.lnk with txCredit := d.lnk.txCredit.upd 0 (flitRetType x) (· + flitRetCount x) } }
  if flitAv x then d1.lnkAck (flitAck x) (flitNak x) else d1

/-- A flit without a good place in the sequence counts, and one NAK goes out until E is accepted (R353). -/
def Dev.seqGap (d : Dev) (k : CtrKind) : Dev :=
  ({ d with lnk := { d.lnk with nakSent := true, nakDue := d.lnk.nakDue || !d.lnk.nakSent } }.count k).lnkViol 1

/-- Flits of type `ct` beyond the card's credit (R354): CREDIT_RESET, and full credit again with CREDIT_INIT. -/
def Dev.creditErr (d : Dev) (ct : Nat) : Dev :=
  let d1 := { d with lnk := { d.lnk with rxSpent := d.lnk.rxSpent.set 0 ct 0 } }
  ((d1.sendFront [(.lctl 2 ct 0, 3), (.lctl 1 ct (rxCredits ct), 3)]).count .lnkCreditErr).lnkViol 1

/-- What a flit completes (R350, R354): nothing; a memory write; a read, or one that is answered with UR; a completion, or one discarded
whose read fails; or link control. -/
inductive CardMsg where
  | none
  | mwr (addr len : Nat) (data : List Word)
  | mrd (addr len tag : Nat)
  | refused (tag : Nat)
  | cpl (status len tag : Nat) (data : List Word)
  | broken (tag : Nat)
  | lctl (sub typ count : Nat)
deriving DecidableEq, Repr

/-- A flit header that R347 or R350 does not allow: a reserved TYPE, the CT of another type, a nonzero rsv field, a reserved LCTL
subtype or CPL STATUS; the card sends no MSI (notes/assumptions/54.md). -/
def flitBad (x : Flit) : Bool :=
  flitRsv x != 0 ||
  match flitType x with
  | 0 => flitCt x != 3
  | 1 => flitCt x != 0
  | 2 => flitCt x != 1
  | 3 => flitCt x != 2 || decide (2 < flitNum x 0 1)
  | 4 => false
  | 6 => flitCt x != 3 || !decide (1 ≤ flitNum x 0 1 ∧ flitNum x 0 1 ≤ 3)
  | _ => true

/-- Bytes of data that a header announces. -/
def flitNeed (x : Flit) : Nat :=
  if flitType x = 1 then flitNum x 8 2 else if flitType x = 3 ∧ flitNum x 0 1 = 0 then flitNum x 1 2 else 0

/-- Bytes that some DATA flits hold, each by its form. -/
def flitRoom (ds : List Flit) : Nat := (ds.map (fun x => if flitW x then 32 else 36)).foldl (· + ·) 0

/-- The message of a header flit and its DATA flits. -/
def flitMessage (h : Flit) (ds : List Flit) : CardMsg :=
  let data := ((ds.map flitWords).flatten).take ((flitNeed h + 1) / 2)
  match flitType h with
  | 1 => .mwr (flitNum h 0 8) (flitNum h 8 2) data
  | 2 => .mrd (flitNum h 0 8) (flitNum h 8 2) (flitTag h)
  | 3 => .cpl (flitNum h 0 1) (flitNum h 1 2) (flitTag h) data
  | 6 => .lctl (flitNum h 0 1) (flitNum h 1 1) (flitNum h 2 2)
  | _ => .none

def Dev.setAsm (d : Dev) (a : FlitAsm) : Dev := { d with lnk := { d.lnk with asm := a } }

/-- The message that flit `x` belongs to is discarded: the flits that are still to come of it count no more. -/
def Dev.dropMsg (d : Dev) (x : Flit) : Dev := d.setAsm (if flitLast x then .none else .drop)

/-- An accepted DATA flit joins its message (R349, R350): the last one is the first with which the data is whole. -/
def Dev.dataFlit (d : Dev) (x : Flit) : CardMsg × Dev :=
  match d.lnk.asm with
  | .none => (.none, d.protoErr.dropMsg x)
  | .drop => (.none, d.dropMsg x)
  | .msg h ds =>
    if flitRsv x ≠ 0 ∨ flitCt x ≠ flitCt h then (.none, d.protoErr.dropMsg x)
    else if (flitWords x).any Word.isRef then
      (if flitType h = 3 then .broken (flitTag h) else .none, d.protoErr.dropMsg x)
    else if flitLast x ≠ decide (flitNeed h ≤ flitRoom (ds ++ [x])) then (.none, d.protoErr.dropMsg x)
    else if flitLast x then (flitMessage h (ds ++ [x]), d.setAsm .none)
    else (.none, d.setAsm (.msg h (ds ++ [x])))

/-- An accepted header flit starts a message, which ends one that lacks DATA flits; a message without data is whole. -/
def Dev.headFlit (d : Dev) (x : Flit) : CardMsg × Dev :=
  let d1 := match d.lnk.asm with
    | .msg _ _ => d.protoErr
    | _ => d
  if flitBad x then (if flitType x = 2 then .refused (flitTag x) else .none, d1.protoErr.dropMsg x)
  else if flitLast x ≠ decide (flitNeed x = 0) then (.none, d1.protoErr.dropMsg x)
  else if flitLast x then (flitMessage x [], d1.setAsm .none)
  else (.none, d1.setAsm (.msg x []))

/-- A flit in its place: E advances, its fields act, it spends the card's credit, and it joins its message. -/
def Dev.flitAccept (d : Dev) (x : Flit) : CardMsg × Dev :=
  let d1 := { d with lnk := { d.lnk with expect := (d.lnk.expect + 1) % 4096, nakSent := false, ackDue := true } }
  let d2 := (d1.count .lnkFlitsRx).flitFields x
  let ct := flitCt x
  let spent := d2.lnk.rxSpent.get 0 ct + 1
  if ct < 3 ∧ rxCredits ct < spent then (.none, (d2.creditErr ct).dropMsg x)
  else
    let d3 := if ct < 3 then { d2 with lnk := { d2.lnk with rxSpent := d2.lnk.rxSpent.set 0 ct spent } } else d2
    if flitType x = 4 then d3.dataFlit x else d3.headFlit x

/-- A flit arrives (R353, R354): what it completes. -/
def Dev.flitTake (d : Dev) (x : Flit) : CardMsg × Dev :=
  let behind := seqDist (flitSeq x) d.lnk.expect
  if !d.lnkFlows then (.none, d)
  else if !flitGood x then (.none, d.seqGap .lnkCrcErr)
  else if flitType x = 0 then
    let d1 := d.flitFields x
    (.none, if flitBad x then d1.protoErr else d1)
  else if d.lnkStateNo = 5 ∧ flitCt x ≠ 3 then (.none, d)
  else if !flitSv x then (.none, d.seqGap .lnkSeqErr)
  else if behind = 0 then d.flitAccept x
  else if behind ≤ 512 then (.none, { d with lnk := { d.lnk with ackDue := true } }.count .lnkDup)
  else (.none, d.seqGap .lnkSeqErr)

/-! ### Interrupts to the host (R368, R369) -/

/-- One MSI flit for vector `v`. -/
def Dev.sendMsi (d : Dev) (v : Nat) : Dev := d.sendFlits [(.msi v, 0)]

/-- The vector's limit of R368 is reached. -/
def Dev.vecDue (d : Dev) (v : Nat) : Bool :=
  let x := d.lnk.vecs.get ⟨0, 0⟩ v
  let t := d.fld .lnkVec v 0 25 16
  decide (0 < x.pending) && (decide (d.fld .lnkVec v 0 7 0 ≤ x.pending) || decide (x.since + usTicks t ≤ d.time.tick))

/-- The pending raises of a vector are signalled by one flit. -/
def Dev.vecSend (d : Dev) (v : Nat) : Dev :=
  ({ d with lnk := { d.lnk with vecs := d.lnk.vecs.set ⟨0, 0⟩ v ⟨0, 0⟩ } }).sendMsi v

/-- A ring raises vector `v`. -/
def Dev.raiseVec (d : Dev) (v : Nat) : Dev :=
  let x := d.lnk.vecs.get ⟨0, 0⟩ v
  let d1 := { d with lnk := { d.lnk with
    vecs := d.lnk.vecs.set ⟨0, 0⟩ v ⟨x.pending + 1, if x.pending = 0 then d.time.tick else x.since⟩ } }
  if d1.vecDue v then d1.vecSend v else d1

/-- `MSI_MODERATION_SEND` (R368). -/
def execMsiModerationSend (v : W8) (s : State) : Host.Outcome State Fault Refusal :=
  s.onDev (fun d => if d.vecDue v.toNat then d.vecSend v.toNat else d)

end Sys2Proof.Machine
end

