-- ==== Sys2Proof/Machine/Locks.lean ====
section
/-!
DEFINITION. The lock unit and the lock instructions (R86, R323–R333).
-/
namespace Sys2Proof.Machine

def Lock.init : Lock := ⟨none, 0, 0, false, 0, []⟩
def Dev.lock (d : Dev) (n : Nat) : Lock := d.lck.locks.get Lock.init n
def Dev.setLock (d : Dev) (n : Nat) (l : Lock) : Dev :=
  { d with lck := { d.lck with locks := d.lck.locks.set Lock.init n l } }

/-- The physical address of a lock's word (R323). -/
def lockAddr (n : Nat) : Nat := 0xF000000 + n * 8

/-- The status word of an answer (R324). -/
def lockStatus (l : Lock) (timeout waited : Bool) : W16 :=
  w16 ((if timeout then 0x8000 else 0) + (if waited then 0x2000 else 0) +
    (if l.abandoned then 0x4000 + l.prev % 2048 else 0))

/-- R326: the thread holds eight locks, or the lock that it names. -/
def Thread.lockBarred (t : Thread) (n : Nat) : Bool := decide (8 ≤ t.locks.length) || t.locks.any (fun x => x.1 == n)

/-- An acquiring request sets out, or the fault of R326. -/
def Dev.acquire (d : Dev) (g n p : Nat) (wb : Option Nat) (upd : Option (Nat × Nat)) (f : FaultInfo) : IRes :=
  if (d.thr g).lockBarred n then .fault f
  else .block (d.lockSend (.request n g (d.lockPrio g))) 2 (.lock n p wb upd)

/-- `LOCK pA, wB` (R86). -/
def execLock (g : Thr) (a : PairN) (b : Reg) (s : State) : Host.Outcome State Fault Refusal :=
  s.onDev (·.issue g 0 false false (fun d =>
    let w := (d.thr g).get b
    if b.val / 2 = a.val then .emu else
    match addrOperand w b with
    | some x => .fault x
    | none =>
      if 4096 ≤ w.v.toNat then .fault (busFault 7)
      else d.acquire g w.v.toNat a (some b) none (addrFault 6 7 false 0x1F (lockAddr w.v.toNat))))

/-- Lock `n` goes to thread `g`, which asked with a priority: the grant sets out with its status (R327, R328). -/
def Dev.grantLock (d : Dev) (n g prio : Nat) (waited : Bool) (queue : List LockWaiter) : Dev :=
  let l := d.lock n
  let d1 := (d.setLock n { l with owner := some g, ownPrio := prio, queue := queue }).count .lckAcquires
  let d2 := if waited then d1.count .lckContended else d1
  (d2.lockSend (.grant n g l.gen (lockStatus l false waited))).boostEval g

/-- A lock that has no owner goes to the first waiter, if there is one. -/
def Dev.grantNext (d : Dev) (n : Nat) : Dev :=
  match (d.lock n).queue with
  | [] => d
  | w :: r => d.grantLock n w.g w.prio true r

/-- Join a lock's queue: behind the waiters of the same or higher priority. -/
def joinQueue (q : List LockWaiter) (w : LockWaiter) : List LockWaiter :=
  q.filter (fun x => decide (w.prio ≤ x.prio)) ++ [w] ++ q.filter (fun x => ¬ decide (w.prio ≤ x.prio))

/-- The first message that `p` holds of, and the messages without it. -/
def takeMsg (p : LockMsg → Bool) : List LockMsg → Option (LockMsg × List LockMsg)
  | [] => none
  | m :: r => if p m then some (m, r) else (takeMsg p r).map (fun x => (x.1, m :: x.2))

/-- `LOCK_REQUEST_ARRIVE` (R327, R329): a free lock is granted, a held one queues the request. -/
def execLockRequestArrive (g : Thr) (s : State) : Host.Outcome State Fault Refusal :=
  s.onDev (fun d =>
    match takeMsg (fun m => match m with | .request _ g' _ => g' == g.val | _ => false) d.lck.msgs with
    | some (.request n _ p, rest) =>
      let d1 := { d with lck := { d.lck with msgs := rest } }
      let l := d1.lock n
      match l.owner with
      | none => d1.grantLock n g p false l.queue
      | some o =>
        let d2 := d1.setLock n { l with queue := joinQueue l.queue ⟨g, p, d1.time.tick⟩ }
        if l.ownPrio < p ∧ d2.bit .lckCtrl 0 0 1 then d2.boostSignal o else d2
    | _ => d)

/-- An answer reaches a waiting thread: the pair, the status latch, and for `LOCK` the status word with Z and C. -/
def Dev.lockAnswer (d : Dev) (g p : Nat) (wb : Option Nat) (upd : Option (Nat × Nat)) (h l : Word) (stat : W16)
    (held : List (Nat × Nat)) : Dev :=
  let d1 := d.updThr g (fun t =>
    let t1 := { t.setPair p h l with lockStat := stat, locks := t.locks ++ held }
    let t2 := match upd with
      | some (k, low) => t1.bump k low 4
      | none => t1
    match wb with
    | some b => { t2.set b (Word.plain stat) with fl := flagsZC stat.msb (stat.getLsbD 14) }
    | none => t2)
  d1.afterWait g

/-- `LOCK_GRANT` (R328): the grant reaches the waiter's hearth. -/
def execLockGrant (g : Thr) (s : State) : Host.Outcome State Fault Refusal :=
  s.onDev (fun d =>
    match takeMsg (fun m => match m with | .grant _ g' _ _ => g' == g.val | _ => false) d.lck.msgs, (d.thr g).wait with
    | some (.grant n _ gen stat, rest), .lock _ p wb upd =>
      let d1 := { d with lck := { d.lck with msgs := rest } }
      let (h, l) := mkHandle 13 gen n
      d1.lockAnswer g p wb upd h l stat [(n, gen)]
    | _, _ => d)

/-- `LOCK_TIMEOUT` (R330): the waiter leaves the queue and is answered with zero words and TIMEOUT. -/
def execLockTimeout (g : Thr) (s : State) : Host.Outcome State Fault Refusal :=
  s.onDev (fun d =>
    match (d.thr g).wait with
    | .lock n p wb upd =>
      let l := d.lock n
      match l.queue.find? (fun w => w.g == g.val) with
      | none => d
      | some w =>
        let us := d.fld .lckTmo (d.fld .lckCfg n 0 2 0) 0 19 0
        if us = 0 ∨ (d.time.tick - w.since) * 10 < us * 1000 then d
        else
          let d1 := (d.setLock n { l with queue := l.queue.filter (fun x => x.g != g.val) }).count .lckTimeouts
          let d2 := match l.owner with
            | some o => d1.boostEval o
            | none => d1
          d2.lockAnswer g p wb upd Word.zero Word.zero (lockStatus l true true) []
    | _ => d)

/-- The body of `UNLOCK pA` (R331): the record loses the lock at once, and the release leaves when the engine has drained the stores
before it; until then the thread waits. -/
def unlockBody (g : Nat) (a : PairN) (clr : Bool) (i : Instr) (d : Dev) : IRes :=
  let t := d.thr g
  let (h, l) := t.pair a
  match handleOf h l with
  | some (13, gen, n) =>
    match t.locks.find? (fun x => x.1 == n) with
    | none => .fault (busFault 7)
    | some (_, held) =>
      if held ≠ gen then .fault (operandFault 5 (2 * a) h.v l.v)
      else
        let e := engineOf g
        let upto := (d.engn e).wbIn
        let d1 := d.setThr g { t with locks := t.locks.filter (fun x => x.1 != n) }
        if d.drained e upto then .done (d1.lockSend (.release n g gen clr))
        else .ended ({ d1 with lck := { d1.lck with unsent := d1.lck.unsent ++ [(e, upto, LockMsg.release n g gen clr)] } }.updThr g
          (fun t => { t with wait := .drain i upto }))
  | _ => .fault (operandFault 1 (2 * a) h.v l.v)

def execUnlock (g : Thr) (a : PairN) (clr : Bool) (s : State) : Host.Outcome State Fault Refusal :=
  s.onDev (·.issue g 0 true false (unlockBody g a clr (.unlock g a clr)))

/-- `LOCK_RELEASE_ARRIVE` (R331): the generation advances and the next waiter is granted. -/
def execLockReleaseArrive (n : Fin 4096) (s : State) : Host.Outcome State Fault Refusal :=
  s.onDev (fun d =>
    match takeMsg (fun m => match m with | .release n' _ _ _ => n' == n.val | _ => false) d.lck.msgs with
    | some (.release _ g gen clr, rest) =>
      let d1 := { d with lck := { d.lck with msgs := rest } }
      let l := d1.lock n
      if l.owner = some g ∧ l.gen = gen then
        let d2 := d1.setLock n { l with
          owner := none, ownPrio := 0, gen := (l.gen + 1) % 4096, abandoned := l.abandoned && !clr }
        (d2.grantNext n).boostEval g
      else d1
    | _ => d)

/-- `LOCK_ABANDON` (R332): as a release, with the ABANDONED mark, PREV, a count and a record. -/
def execLockAbandon (n : Fin 4096) (s : State) : Host.Outcome State Fault Refusal :=
  s.onDev (fun d =>
    match takeMsg (fun m => match m with | .abandon n' _ _ => n' == n.val | _ => false) d.lck.msgs with
    | some (.abandon _ g gen, rest) =>
      let d1 := { d with lck := { d.lck with msgs := rest } }
      let l := d1.lock n
      if l.owner = some g ∧ l.gen = gen then
        let d2 := (d1.setLock n { l with
          owner := none, ownPrio := 0, gen := (l.gen + 1) % 4096, abandoned := true, prev := g }).count .lckAbandons
        ((d2.log4 0 12 0x08 0 (w16 n) (w16 g) 0).grantNext n).boostEval g
      else d1
    | _ => d)

/-- The peek word of a lock (R323). -/
def Dev.lockPeek (d : Dev) (n : Nat) : Word :=
  let l := d.lock n
  Word.plain (w16 ((if l.owner.isSome then 0x8000 else 0) + (if l.abandoned then 0x4000 else 0) + l.owner.getD 0 % 2048))

/-- `LCK.STATE[n]`. -/
def Dev.lockState (d : Dev) (n : Nat) : W32 :=
  let l := d.lock n
  BitVec.ofNat 32 ((if l.owner.isSome then 2 ^ 31 else 0) + (if l.abandoned then 2 ^ 30 else 0) + l.prev % 2048 * 65536
    + min l.queue.length 31 * 2048 + l.owner.getD 0 % 2048)

end Sys2Proof.Machine
end

