-- ==== Sys2Proof/Machine/Smithy.lean ====
section
/-!
DEFINITION. The smithy of each hearth (R87, R334–R341): the coprocessor instructions, the nine operations, key slots and the
pattern store.
-/
namespace Sys2Proof.Machine

open Sys2Proof.Crypto

/-! ### Coprocessor registers and units -/

def Dev.creg (d : Dev) (g n : Nat) : Word × Word :=
  (d.eng.cregs.get Word.zero (g * 16 + 2 * n), d.eng.cregs.get Word.zero (g * 16 + 2 * n + 1))
def Dev.setCreg (d : Dev) (g n : Nat) (h l : Word) : Dev :=
  { d with eng := { d.eng with
    cregs := (d.eng.cregs.set Word.zero (g * 16 + 2 * n) h).set Word.zero (g * 16 + 2 * n + 1) l } }

/-- The operations of unit `x` of hearth `h`, running and queued. -/
def Dev.unitOps (d : Dev) (h x : Nat) : List SmOp := (d.hth h).smq.get [] x
def Dev.setUnitOps (d : Dev) (h x : Nat) (l : List SmOp) : Dev :=
  d.setHth h { d.hth h with smq := (d.hth h).smq.set [] x l }

/-- Unit `x` is busy for thread `g`. -/
def Dev.cpBusy (d : Dev) (g x : Nat) : Bool := (d.unitOps (hearthOf g) x).any (fun o => o.g == g)

/-- An unfinished operation of thread `g` is still to write register `n` (R87, R337): one that is queued and has not started counts as running
(DESIGN CHOICE, notes/assumptions/42.md). -/
def Dev.cregPending (d : Dev) (g n : Nat) : Bool :=
  (n == 7 && ([0, 1, 2] : List Nat).any (d.cpBusy g)) || (n == 4 && ([1, 2] : List Nat).any (d.cpBusy g))

/-- `CPM.TO cN, pA`. -/
def execCpmTo (g : Thr) (n a : PairN) (s : State) : Host.Outcome State Fault Refusal :=
  s.onDev (·.issue g 0 true true (fun d =>
    let (h, l) := (d.thr g).pair a
    if h.isRef then .fault (operandFault 1 (2 * a) 0 h.v)
    else if l.isRef then .fault (operandFault 1 (2 * a + 1) 0 l.v)
    else if d.cregPending g n then .stall
    else .done (d.setCreg g n h l)))

/-- `CPM.FROM pA, cN`. -/
def execCpmFrom (g : Thr) (a n : PairN) (s : State) : Host.Outcome State Fault Refusal :=
  s.onDev (·.issue g 0 true true (fun d =>
    if d.cregPending g n then .stall
    else
      let (h, l) := d.creg g n
      .done (d.updThr g (fun t => t.setPair a h l))))

/-- Operation code `op` of unit `x` is defined (R334). -/
def cpDefined (x op : Nat) : Bool := decide (x < 3 ∧ op % 8 < smithyOps x)

/-- `CPGO CPx, op` (R335): the operation is queued with c0–c6 latched. -/
def execCpgo (g : Thr) (x : Fin 4) (op : Fin 16) (s : State) : Host.Outcome State Fault Refusal :=
  s.onDev (·.issue g 0 (cpDefined x op) (cpDefined x op) (fun d =>
    if !cpDefined x op then .emu else
    let h := hearthOf g
    let q := d.unitOps h x
    if d.cpBusy g x ∨ 16 ≤ q.length then .stall
    else
      let c := (List.range 7).flatMap (fun n => [(d.creg g n).1, (d.creg g n).2])
      .done (d.setUnitOps h x (q ++ [⟨g, op.val % 8, decide (8 ≤ op.val), c, (d.engn (engineOf g)).wbIn, none, none, SmBlock.fresh⟩]))))

/-- `CPTST CPx`: Z while busy, C when the last completed operation reported an error. -/
def execCptst (g : Thr) (x : Fin 4) (s : State) : Host.Outcome State Fault Refusal :=
  s.onDev (·.issue g 0 (x.val ≠ 3) (x.val ≠ 3) (fun d =>
    if x.val = 3 then .emu
    else .done (d.updThr g (fun t =>
      { t with fl := flagsZC (d.cpBusy g x) (d.eng.cerr.get false (g.val * 4 + x.val)) }))))

/-! ### Memory operands (R336) -/

/-- Offset `k` from a 36-bit address, within its 4 GiB. -/
def addrPlus (a k : Nat) : Nat := a / 2 ^ 32 * 2 ^ 32 + (a + k) % 2 ^ 32

/-- What the translation of a smithy's address comes to: a physical address, an end with a status and subcause, or a walk in flight. -/
inductive SmAt where
  | at_ (pa : Nat) (attr : Attr)
  | stop (status sub : Nat)
  | walk (w : SmWalk)

/-- The bus check of a translated address. The set-up space and the lock window take no access of a smithy (R48, R323). -/
def Dev.smCheck (d : Dev) (pa : Nat) (attr : Attr) : SmAt :=
  match d.busCheck pa attr with
  | some s => .stop 2 s
  | none =>
    match d.region pa with
    | .setup => .stop 2 7
    | .lockWin => .stop 2 7
    | _ => .at_ pa attr

/-- A walk for the smithy of hearth `h` goes on (R296): behind a walk of the page that was in flight before it, among the four that run at
once, and once no table it reads lies in a region being filled (R287). One that an invalidation passed is made again (R298). -/
def Dev.smWalk (d : Dev) (h : Nat) (w : SmWalk) : SmAt × Dev :=
  let page := w.va / 65536
  match w.failed with
  | some s => (.stop 1 s, d)
  | none =>
    if (d.walksOf h).any (fun x => x.2.2 && x.2.1 == page && decide (x.1 < w.seq)) || !d.walking h page || d.walkWaits (d.ctxOf h) w.va then
      (.walk w, d)
    else
      match (if w.stale then d.countMiss h w.va else d).hthWalk h w.va w.store with
      | (some s, d1) => (.stop 1 s, d1.walkFailed h w.va s)
      | (none, d1) =>
        match d1.hthTranslate h w.va w.store with
        | (.ok pa attr, d2) => (d2.smCheck pa attr, d2)
        | (.fault s, d2) => (.stop 1 s, d2)
        | (.miss, d2) => (.stop 1 6, d2)

/-- Translate an address of hearth `h`; `w` is the walk in flight for it. A miss starts a walk, or joins one in flight. -/
def Dev.smAddr (d : Dev) (h va : Nat) (store : Bool) (w : Option SmWalk) : SmAt × Dev :=
  match d.hthTranslate h va store with
  | (.ok pa attr, d1) => (d1.smCheck pa attr, d1)
  | (.fault s, d1) => (.stop 1 s, d1)
  | (.miss, d1) =>
    match w with
    | some w => d1.smWalk h w
    | none =>
      let d2 := d1.countMiss h va
      { d2 with eng := { d2.eng with seq := d2.eng.seq + 1 } }.smWalk h ⟨va, d2.eng.seq, store, false, none⟩

/-- How far the translation of a span has come: the pieces translated, then all of them, an end, or a walk. -/
inductive SmSpan where
  | ok (l : List (Nat × Attr × Nat)) (d : Dev)
  | stop (status sub : Nat) (d : Dev)
  | wait (l : List (Nat × Attr × Nat)) (w : SmWalk) (d : Dev)

/-- The physical pieces of `n` bytes from a virtual address on, each within one 8-byte unit, with `acc` translated before: what is translated
stays so (R298). `fuel` bounds the pieces. -/
def Dev.smSpan (d : Dev) (h : Nat) (store : Bool) (base n : Nat) (w : Option SmWalk) (acc : List (Nat × Attr × Nat)) : Nat → SmSpan
  | 0 => .ok acc d
  | fuel + 1 =>
    let k0 := acc.foldl (fun m p => m + p.2.2) 0
    if n ≤ k0 then .ok acc d
    else
      let va := addrPlus base k0
      match d.smAddr h va store w with
      | (.stop st sub, d1) => .stop st sub d1
      | (.walk w1, d1) => .wait acc w1 d1
      | (.at_ pa attr, d1) => d1.smSpan h store base n none (acc ++ [(pa, attr, min (8 - va % 8) (n - k0))]) fuel

/-- The runs of adjoining pieces that lie in host windows, from offset `o` on: offset, physical address and length. -/
def Dev.hostRuns (d : Dev) (o : Nat) : List (Nat × Attr × Nat) → List (Nat × Nat × Nat)
  | [] => []
  | (pa, _, k) :: r =>
    match d.region pa with
    | .host w =>
      match d.hostRuns (o + k) r with
      | (o', pa', n) :: l =>
        if o' = o + k ∧ pa' = pa + k ∧ d.region pa' = .host w then (o, pa, k + n) :: l else (o, pa, k) :: (o', pa', n) :: l
      | [] => [(o, pa, k)]
    | _ => d.hostRuns (o + k) r

/-- Reads of runs of host bytes for unit `x` of hearth `h`: their tags with their offsets, none when tags are short (R350). -/
def Dev.smAsk (d : Dev) (h x : Nat) : List (Nat × Nat × Nat) → Option (List (Nat × Nat) × Dev)
  | [] => some ([], d)
  | (o, pa, n) :: r =>
    let addr := match d.region pa with
      | .host w => d.hostAddr w pa
      | _ => 0
    match d.hostRead (.smithy h x) addr n with
    | none => none
    | some (t, d1) => (d1.smAsk h x r).map (fun y => ((t, o) :: y.1, y.2))

/-- The byte at an offset that the answered host reads brought. -/
def partByte (parts : List (Nat × List (W8 × Bool))) (k : Nat) : W8 × Bool :=
  (parts.findSome? (fun p => if p.1 ≤ k then p.2[k - p.1]? else none)).getD (0, false)

/-- The words of the 8-byte unit of an address; those of a program store are PLAIN (R46). -/
def Dev.smWords (d : Dev) (h pa : Nat) (attr : Attr) : List Word × Dev :=
  match d.region pa with
  | .window k => ((List.range 4).map (fun n => Word.plain ((d.progWord k ((pa / 8 * 4 + n) % 32768)).zeroExtend 16)), d)
  | _ => (d.hearthLoad h none (pa / 8 * 8) 4 attr).2

/-- Read the bytes of some pieces from offset `o` on, each with whether it is poisoned, and whether a word was HANDLE or TICKET. Those of
host windows are in `parts`. -/
def Dev.smRead (d : Dev) (h : Nat) (parts : List (Nat × List (W8 × Bool))) (o : Nat) :
    List (Nat × Attr × Nat) → List (W8 × Bool) × Bool × Dev
  | [] => ([], false, d)
  | (pa, attr, k) :: r =>
    match d.region pa with
    | .host _ =>
      let (rest, refd, d1) := d.smRead h parts (o + k) r
      ((List.range k).map (fun n => partByte parts (o + n)) ++ rest, refd, d1)
    | _ =>
      let (ws, d1) := d.smWords h pa attr
      let mine := (List.range 4).filter (fun j => decide (pa % 8 < 2 * j + 2 ∧ 2 * j < pa % 8 + k))
      let refd := mine.any (fun j => (ws.getD j Word.zero).isRef)
      let bs := (ws.map (fun (w : Word) =>
        [((w.v >>> (8 : Nat)).truncate 8, w.isPoison), (w.v.truncate 8, w.isPoison)])).flatten
      let (rest, refd2, d2) := d1.smRead h parts (o + k) r
      ((bs.drop (pa % 8)).take k ++ rest, refd || refd2, d2)

/-- Write bytes to some pieces, so that they reach the hearth's point of visibility. A program store takes no POISON word (R46; what the
operation does then is a DESIGN CHOICE, notes/assumptions/56.md). -/
def Dev.smWrite (d : Dev) (h : Nat) : List (Nat × Attr × Nat) → List (W8 × Bool) → Dev
  | [], _ => d
  | (pa, attr, k) :: r, bs =>
    let ws := unitWords pa (bs.take k)
    let d1 :=
      if d.cacheable pa attr then ((d.fetchDone h (pa / 64)).cacheStore h (pa / 8) ws).getD (d.storeUnit (pa / 8) ws)
      else match d.region pa with
        | .host w => (d.hostWriteBytes (d.hostAddr w pa) (bs.take k)).1
        | .window c => d.storeProg c (pa / 8) (ws.filter (fun x => !x.w.isPoison))
        | _ => d.storeUnit (pa / 8) ws
    d1.smWrite h r (bs.drop k)

/-! ### Operations (R337, R338) -/

/-- An operation with its operands read from the latched registers. -/
structure SmJob where
  h : Nat
  unit : Nat
  op : Nat
  src : Nat
  dst : Nat
  len : Nat
  aad : Nat
  limit : Nat
  init : Nat
  iv : List W8
  key : List W8

/-- The source bytes of a job: the expected tag of GCM_DEC follows the L bytes (R337). -/
def SmJob.total (j : SmJob) : Nat := if j.unit = 0 ∧ j.op = 1 then j.len + 16 else j.len

/-- The key of a slot as bytes. -/
def KeySlot.bytes (k : KeySlot) : List W8 := toBe (if k.big then 32 else 16) k.key

/-- The job that latched operands and a key spell. -/
def smJob (h x op : Nat) (c : List Word) (key : Option KeySlot) : SmJob :=
  let v := fun k => ((c.getD k Word.zero).v).toNat
  { h := h, unit := x, op := op,
    src := v 2 % 16 * 2 ^ 32 + v 0 * 65536 + v 1,
    dst := v 2 / 16 % 16 * 2 ^ 32 + v 4 * 65536 + v 5,
    len := v 3, aad := v 6, limit := v 7, init := v 6 * 65536 + v 7,
    iv := ([8, 9, 10, 11, 12, 13] : List Nat).flatMap (fun k => toBe 2 (v k)),
    key := match key with
      | some k => k.bytes
      | none => [] }

/-- The latched words that an operation uses (R337). -/
def usedWords (x op : Nat) : List Nat :=
  if x = 0 then (if op = 2 then List.range 8 else List.range 14)
  else if x = 1 then (if op = 2 then [0, 1, 2, 3] else [0, 1, 2, 3, 6, 7])
  else if op = 0 then List.range 8 else [0, 1, 2, 3]

/-- The check of the latched operands: none, or POISON_OPERAND (3) or BAD_ARG (7) (R338). -/
def badOperands (x op : Nat) (c : List Word) (key : Option KeySlot) : Option Nat :=
  let v := fun k => ((c.getD k Word.zero).v).toNat
  if (usedWords x op).any (fun k => (c.getD k Word.zero).isPoison) then some 3
  else if 256 ≤ v 2 then some 7
  else if x = 0 ∧ (32 ≤ v 7 ∨ v 3 < v 6 ∨ key = none) then some 7
  else if x = 1 ∧ op = 2 ∧ 36 < v 3 then some 7
  else none

/-- The valid patterns of a hearth's store: number and bytes. -/
def Dev.patterns (d : Dev) (h : Nat) : List (Nat × List W8) :=
  (d.hth h).pats.entries.filterMap (fun e => match e.2 with
    | some p => if p.cfg.getLsbD 31 then some (e.1, (p.data.flatMap (fun w => toBe 4 w.toNat)).take (bits p.cfg 5 0)) else none
    | none => none)

/-- The matches that end at offsets lo ≤ e < hi: by offset, then pattern number. -/
def matchesIn (pats : List (Nat × List W8)) (bs : List W8) (lo hi : Nat) : List (Nat × Nat) :=
  ((List.range (hi - lo)).map (· + lo)).flatMap (fun e =>
    pats.filterMap (fun p =>
      if p.2 ≠ [] ∧ p.2.length ≤ e + 1 ∧ (bs.drop (e + 1 - p.2.length)).take p.2.length = p.2 then some (e, p.1)
      else none))

/-- What GCM writes for the bytes so far: the AAD as it is, the rest through the keystream. -/
def gcmText (j : SmJob) (bs : List W8) : List W8 :=
  bs.take j.aad ++ gctr (roundKeys j.key) j.iv 2 (bs.drop j.aad)

/-- What a job has to have written once it has processed `bs`, from its destination on, each byte with whether it depends on the source byte
at `poison`, the first that was poisoned (R338). `found` are the matches of SCAN; `last` says that the source is complete. -/
def smText (j : SmJob) (src : List W8) (found : List (Nat × Nat)) (poison : Option Nat) (last : Bool) : List (W8 × Bool) :=
  let after := fun (k : Nat) => match poison with
    | some p => decide (p ≤ k)
    | none => false
  let bs := src.take j.len
  let mark := fun (l : List W8) => ((List.range l.length).zip l).map (fun kb => (kb.2, after kb.1))
  if j.unit = 0 then
    let text := gcmText j bs
    if j.op = 0 then mark text ++
      (if last then (gcmTag (roundKeys j.key) j.iv (text.take j.aad) (text.drop j.aad)).map (fun b => (b, poison.isSome)) else [])
    else if j.op = 1 then mark text
    else if last then (cmac j.key bs).map (fun b => (b, poison.isSome)) else []
  else if j.unit = 2 ∧ j.op = 0 then
    (found.take j.limit).flatMap (fun m => (toBe 2 m.2 ++ toBe 2 m.1).map (fun b => (b, after m.1)))
  else []

/-- Bytes from offset `o` of a destination on, as they are written: every byte of an 8-byte unit that holds one which depends on poisoned
bytes is poisoned. -/
def smMark (dst o : Nat) (bs : List (W8 × Bool)) : List (W8 × Bool) :=
  let unit := fun (k : Nat) => (dst + o + k) / 8
  let bad := ((List.range bs.length).filter (fun k => (bs.getD k (0, false)).2)).map unit
  ((List.range bs.length).zip bs).map (fun kb => (kb.2.1, bad.contains (unit kb.1)))

/-- Where the bytes to write begin when `old` bytes were written before: with the unit that they end in, when what follows poisons it. -/
def smFrom (dst old : Nat) (text : List (W8 × Bool)) : Nat :=
  let unit := (dst + old) / 8
  if (List.range (text.length - old)).any (fun k => (dst + old + k) / 8 == unit && (text.getD (old + k) (0, false)).2) then
    old - min old ((dst + old) % 8)
  else old

/-- The source bytes of a block: read, each with whether it is poisoned; or an end, or a wait. -/
inductive SmGot where
  | ok (bs : List (W8 × Bool)) (b : SmBlock) (d : Dev)
  | stop (status sub : Nat) (d : Dev)
  | wait (b : SmBlock) (d : Dev)

/-- Read the `n` source bytes of a block from offset `at0` on, as far as `b` has not come. A block with a part in a region being filled waits
(R287), and one with a part in a host window until the host has answered (R345, R350). -/
def Dev.smSource (d : Dev) (j : SmJob) (b : SmBlock) (at0 n : Nat) : SmGot :=
  match b.got with
  | some bs => .ok bs b d
  | none =>
    match d.smSpan j.h false (addrPlus j.src at0) n b.walk b.rd (n + 1) with
    | .stop st sub d1 => .stop st sub d1
    | .wait l w d1 => .wait { b with rd := l, walk := some w } d1
    | .ok ps d1 =>
      let b1 := { b with rd := ps, walk := none }
      let runs := d1.hostRuns 0 ps
      if ps.any (fun p => d1.filling p.1) then .wait b1 d1
      else if b1.tags ≠ [] then .wait b1 d1
      else if b1.lost then .stop 2 5 d1
      else if runs ≠ [] ∧ b1.parts = [] then
        if !d1.linkUp then .stop 2 5 d1
        else match d1.smAsk j.h j.unit runs with
          | none => .wait b1 d1
          | some (tags, d2) => .wait { b1 with tags := tags } d2
      else
        let (bs, refd, d2) := d1.smRead j.h b1.parts 0 ps
        if refd then .stop 5 0 d2 else .ok bs { b1 with got := some bs } d2

/-- How a block of an operation went: processed, ended with a status and subcause, or waiting for its source or destination. -/
inductive SmStep where
  | ok (kp : Kept) (d : Dev)
  | stop (kp : Kept) (status sub : Nat) (d : Dev)
  | wait (b : SmBlock) (d : Dev)

/-- Process the next `n` source bytes of the job of a unit, of whose block `b` has been done; `last` also does what completes the operation.
A destination in a region being filled waits (R287). -/
def Dev.smPiece (d : Dev) (j : SmJob) (kp : Kept) (b : SmBlock) (n : Nat) (last : Bool) : SmStep :=
  let at0 := kp.bytes.length
  match d.smSource j b at0 n with
  | .stop st sub d1 => .stop kp st sub d1
  | .wait b1 d1 => .wait b1 d1
  | .ok rd b1 d1 =>
    let new := kp.bytes ++ rd.map Prod.fst
    let first := ((List.range rd.length).find? (fun k => (rd.getD k (0, false)).2)).map (· + at0)
    let poison := match kp.poisonAt with
      | some p => some p
      | none => first
    let found := kp.found ++ (if j.unit = 2 then matchesIn kp.pats new at0 new.length else [])
    let kp1 := { kp with bytes := new, poisonAt := poison, found := found }
    let old := (smText j kp.bytes kp.found kp.poisonAt false).length
    let text := smText j new found poison last
    let from_ := smFrom j.dst old text
    let out := smMark j.dst from_ (text.drop from_)
    match d1.smSpan j.h true (addrPlus j.dst from_) out.length b1.walk b1.wr (out.length + 1) with
    | .stop st sub d2 => .stop kp st sub d2
    | .wait l w d2 => .wait { b1 with wr := l, walk := some w } d2
    | .ok qs d2 =>
      if qs.any (fun q => d2.filling q.1) then .wait { b1 with wr := qs, walk := none } d2
      else
        let d3 := d2.smWrite j.h qs out
        let text := new.take j.len
        if last ∧ j.unit = 0 ∧ j.op = 1 ∧ poison = none ∧
            new.drop j.len ≠ gcmTag (roundKeys j.key) j.iv (text.take j.aad) (text.drop j.aad) then .stop kp1 6 0 d3
        else .ok kp1 d3

/-- How a run of blocks went: to the end of the operation, to an error, or to a block that has to wait. -/
inductive SmEnd where
  | done (kp : Kept) (d : Dev)
  | fail (kp : Kept) (status sub : Nat) (d : Dev)
  | pause (kp : Kept) (b : SmBlock) (d : Dev)

/-- Process whole 64-byte blocks, then the rest, of at most `allow` of the L source bytes when it names a number. FIRST stops at a match. -/
def Dev.smLoop (d : Dev) (j : SmJob) (kp : Kept) (b : SmBlock) (allow : Option Nat) : Nat → SmEnd
  | 0 => .done kp d
  | fuel + 1 =>
    let n := min 64 (j.total - kp.bytes.length)
    let last := decide (j.total < kp.bytes.length + 64)
    if (match allow with | some a => decide (a < min (kp.bytes.length + n) j.len) | none => false) then .pause kp b d
    else match d.smPiece j kp b n last with
      | .stop kp1 st sub d1 => .fail kp1 st sub d1
      | .wait b1 d1 => .pause kp b1 d1
      | .ok kp1 d1 =>
        if last ∨ (j.unit = 2 ∧ j.op = 1 ∧ kp1.found ≠ []) then .done kp1 d1
        else d1.smLoop j kp1 SmBlock.fresh allow fuel

/-- The result in c4 (R337); `pats` holds the Toeplitz key as number 0. -/
def smResult (j : SmJob) (pats : List (Nat × List W8)) (bs : List W8) (found : List (Nat × Nat)) : Option (Nat × Nat) :=
  if j.unit = 1 then
    if j.op = 0 then let r := crc32Run j.init bs; some (r / 65536, r % 65536)
    else if j.op = 1 then let r := crc32cRun j.init bs; some (r / 65536, r % 65536)
    else if j.op = 2 then
      let r := toeplitz ((pats.headD (0, [])).2) bs
      some (r / 65536, r % 65536)
    else some (0, fold16 (j.init % 65536 + ((bytesToWords bs).map (fun w => w.v.toNat)).foldl (· + ·) 0))
  else if j.unit = 2 then
    if j.op = 0 then some (0, min found.length 0xFFFF)
    else match found with
      | [] => some (0, 0)
      | (e, p) :: _ => some (0x8000 + p, e)
  else none

/-- The progress of an operation that ends otherwise than OK: the whole 64-byte blocks of its source (R304, R339). Of 65,536 bytes, which
GCM_DEC may reach with its tag, the 16 bits show the block before (DESIGN CHOICE, notes/assumptions/56.md). -/
def smWhole (kp : Kept) : Nat := min (kp.bytes.length / 64 * 64) 0xFFC0

/-- c7 as a status, subcause and progress make it. -/
def smC7 (st sub prog : Nat) : Word × Word := (Word.plain (w16 (st * 4096 + sub * 256)), Word.plain (w16 prog))

/-- What the completion of an operation writes (R339): c7 with its progress, and the result where it has one. -/
def smEnd (j : SmJob) (kp : Kept) : Word × Word × Option (Word × Word) :=
  let tag : Tag := if kp.poisonAt.isSome then .poison else .plain
  let st := if kp.poisonAt.isSome then 4 else 0
  let r := smResult j kp.pats kp.bytes kp.found
  let full := match j.unit, j.op, r with
    | 2, 1, some (hi, e) => if hi = 0 then kp.bytes.length else e + 1
    | _, _, _ => kp.bytes.length
  let c7 := smC7 st 0 (if st = 0 then min full j.len else min (full / 64 * 64) (smWhole kp))
  (c7.1, c7.2, r.map (fun r => (⟨tag, w16 r.1⟩, ⟨tag, w16 r.2⟩)))

/-- The patterns that an operation sees, as they stand at its start (R340): those of SCAN and FIRST, or the Toeplitz key. -/
def Dev.smPats (d : Dev) (h x op : Nat) : List (Nat × List W8) :=
  if x = 2 then d.patterns h
  else if x = 1 ∧ op = 2 then [(0, (List.range 10).flatMap (fun n => toBe 4 (d.rd .hthTpzKey h n).toNat))]
  else []

/-- An operation starts: the partial state of its thread is its own latched operands with the key as it stands, or with RESUME what was
kept of the same operation; and the status with which it ends at once, if its operands are not good (R338, R339). -/
def Dev.smStart (d : Dev) (h x : Nat) (o : SmOp) : Option Nat × Dev :=
  let k := o.g * 4 + x
  let d1 := if o.resume then d else
    let key := if x = 0 then (d.hth h).keys.get none ((o.c.getD 7 Word.zero).v.toNat % 32) else none
    { d with eng := { d.eng with kept := d.eng.kept.set none k (some ⟨o.op, o.c, key, d.smPats h x o.op, [], none, []⟩) } }
  match d1.eng.kept.get none k with
  | none => (some 7, d1)
  | some kp => (if kp.op = o.op then badOperands x kp.op kp.c kp.key else some 7, d1)

/-- The operation at the head of a unit goes on, by at most `allow` source bytes in all when it names a number. -/
def Dev.smGoOn (d : Dev) (h x : Nat) (o : SmOp) (rest : List SmOp) (allow : Option Nat) : Dev :=
  let k := o.g * 4 + x
  match d.eng.kept.get none k with
  | none => d
  | some kp =>
    let j := smJob h x kp.op kp.c kp.key
    let keep := fun (d : Dev) (kp : Kept) (o : SmOp) =>
      ({ d with eng := { d.eng with kept := d.eng.kept.set none k (some kp) } }).setUnitOps h x (o :: rest)
    match d.smLoop j kp o.blk allow (j.total / 64 + 2) with
    | .pause kp1 b d1 => keep d1 kp1 { o with blk := b }
    | .fail kp1 st sub d1 =>
      let c7 := smC7 st sub (smWhole kp1)
      keep d1 kp1 { o with out := some (c7.1, c7.2, none), blk := SmBlock.fresh }
    | .done kp1 d1 => keep d1 kp1 { o with out := some (smEnd j kp1), blk := SmBlock.fresh }

/-- The operation at the head of unit `x` may run: it has not ended, and its engine has drained the stores accepted before its `CPGO`
(R336). -/
def Dev.smReady (d : Dev) (o : SmOp) : Bool := o.out.isNone && d.drained (engineOf o.g) o.upto

/-- The operation at the head of a unit starts; one whose operands are not good ends. -/
def Dev.smBegin (d : Dev) (h x : Nat) (o : SmOp) (rest : List SmOp) : SmOp × Dev :=
  if o.began.isSome then (o, d)
  else
    let (bad, d1) := d.smStart h x o
    let o1 := { o with began := some d.engclk, out := bad.map (fun st => ((smC7 st 0 0).1, (smC7 st 0 0).2, none)) }
    (o1, d1.setUnitOps h x (o1 :: rest))

/-- Operation `op` at the head of unit `x` runs: what is left of it is done at once, as far as no part of it has to wait. -/
def Dev.smithyRun (d : Dev) (h x op : Nat) : Dev :=
  match d.unitOps h x with
  | o :: rest =>
    if o.op = op ∧ d.smReady o then
      let (o1, d1) := d.smBegin h x o rest
      if o1.out.isSome then d1 else d1.smGoOn h x o1 rest none
    else d
  | [] => d

/-- Source bytes that a unit processes of an operation in the ENGCLK after its set-up, the latency of the own larder taken for its first
access (R334). -/
def smBudget (x op clk : Nat) : Option Nat :=
  let setup := if x = 0 then (if op = 2 then 16 else 20) else if x = 1 then 4 else 8
  let rate := if x = 0 then (if op = 2 then 4 else 8) else if x = 1 ∧ op ≠ 2 then 16 else 4
  if clk < setup + 3 then none else some ((clk - setup - 3) * rate)

/-- The units work while time passes: operations start, and go on at their rate, block by block (R334, R335). -/
def Dev.tickSmithy (d : Dev) : Dev :=
  (List.range 16).foldl (fun d h => (List.range 3).foldl (fun d x =>
    match d.unitOps h x with
    | o :: rest =>
      if !d.smReady o then d
      else match o.began with
        | none => (d.smBegin h x o rest).2
        | some t =>
          match smBudget x o.op (d.engclk - t) with
          | none => d
          | some n => d.smGoOn h x o rest (some n)
    | [] => d) d) d

/-- A host read of unit `x` of hearth `h` is answered under a tag, or failed. -/
def Dev.smArrive (d : Dev) (h x tag : Nat) (data : Option (List (W8 × Bool))) : Dev :=
  match d.unitOps h x with
  | o :: rest =>
    match o.blk.tags.find? (fun t => t.1 == tag) with
    | none => d
    | some (_, ofs) =>
      let left := o.blk.tags.filter (fun t => t.1 != tag)
      d.setUnitOps h x ({ o with blk := match data with
        | some bs => { o.blk with tags := left, parts := o.blk.parts ++ [(ofs, bs)] }
        | none => { o.blk with tags := left, lost := true } } :: rest)
  | [] => d

def execGcmEnc (h : Fin 16) (s : State) : Host.Outcome State Fault Refusal := s.onDev (·.smithyRun h 0 0)
def execGcmDec (h : Fin 16) (s : State) : Host.Outcome State Fault Refusal := s.onDev (·.smithyRun h 0 1)
def execCmac (h : Fin 16) (s : State) : Host.Outcome State Fault Refusal := s.onDev (·.smithyRun h 0 2)
def execCrc32 (h : Fin 16) (s : State) : Host.Outcome State Fault Refusal := s.onDev (·.smithyRun h 1 0)
def execCrc32c (h : Fin 16) (s : State) : Host.Outcome State Fault Refusal := s.onDev (·.smithyRun h 1 1)
def execToeplitzHash (h : Fin 16) (s : State) : Host.Outcome State Fault Refusal := s.onDev (·.smithyRun h 1 2)
def execOnesComplementSum (h : Fin 16) (s : State) : Host.Outcome State Fault Refusal := s.onDev (·.smithyRun h 1 3)
def execScan (h : Fin 16) (s : State) : Host.Outcome State Fault Refusal := s.onDev (·.smithyRun h 2 0)
def execFirst (h : Fin 16) (s : State) : Host.Outcome State Fault Refusal := s.onDev (·.smithyRun h 2 1)

/-- `SMITHY_COMPLETE` (R339): c7 and the result are written, the status is idle, and the counters count. -/
def execSmithyComplete (h : Fin 16) (x : Fin 3) (s : State) : Host.Outcome State Fault Refusal :=
  s.onDev (fun d =>
    match d.unitOps h x with
    | o :: rest =>
      match o.out with
      | some (c7h, c7l, c4) =>
        let d1 := (d.setUnitOps h x rest).setCreg o.g 7 c7h c7l
        let d2 := match c4 with
          | some (a, b) => d1.setCreg o.g 4 a b
          | none => d1
        let err := decide (4096 ≤ c7h.v.toNat)
        let d3 := { d2 with eng := { d2.eng with cerr := d2.eng.cerr.set false (o.g * 4 + x.val) err } }
        let d4 := d3.count .hthSmithyOps h x
        if err then d4.count .hthSmithyErr h else d4
      | none => d
    | [] => d)

/-! ### Key slots and patterns (R340) -/

/-- A write of `HTH.KEY_CMD`: COMMIT stores the staged key and clears it; ERASE makes the slot invalid. BUSY is then 1 for at most 32
ENGCLK: until the next TICKCLK (DESIGN CHOICE, notes/assumptions/46.md). -/
def Dev.keyCmd (d : Dev) (h : Nat) (v : W32) : Dev :=
  let slot := d.fld .hthKeySel h 0 4 0
  let big := d.bit .hthKeySel h 0 8
  let n := if big then 8 else 4
  let put := fun (d : Dev) (x : Option KeySlot) => d.setHth h { d.hth h with keys := (d.hth h).keys.set none slot x }
  let d1 := if v.getLsbD 0 then
      let key := (List.range n).foldl (fun a i => a * 2 ^ 32 + (d.rd .hthKey h i).toNat) 0
      (List.range 8).foldl (fun d i => d.wr .hthKey h i 0) (put d (some ⟨key, big⟩))
    else d
  let d2 := if v.getLsbD 1 then put d1 none else d1
  if bits v 1 0 = 0 then d2 else d2.setBit .hthKeyCmd h 0 8 true

/-- A write of `HTH.PAT_CMD`: COMMIT stores CFG and DATA into the selected pattern, READ loads them from it. -/
def Dev.patCmd (d : Dev) (h : Nat) (v : W32) : Dev :=
  let n := d.fld .hthPatSel h 0 9 0
  let d1 := if v.getLsbD 0 then
      let p : Pattern := ⟨d.rd .hthPatCfg h, (List.range 8).map (fun i => d.rd .hthPatData h i)⟩
      d.setHth h { d.hth h with pats := (d.hth h).pats.set none n (some p) }
    else d
  if v.getLsbD 1 then
    let p := ((d1.hth h).pats.get none n).getD ⟨0, []⟩
    (List.range 8).foldl (fun d i => d.wr .hthPatData h i (p.data.getD i 0)) (d1.wr .hthPatCfg h 0 p.cfg)
  else d1

/-- A hearth reset erases every key slot (R341). -/
def Dev.eraseKeys (d : Dev) (h : Nat) : Dev := d.setHth h { d.hth h with keys := Map.empty }

end Sys2Proof.Machine
end

