-- ==== Sys2Proof/Machine/Rings.lean ====
section
/-!
DEFINITION. The host rings (R359–R368): descriptors, doorbells, transfers, completions and stops; how the reads of every
agent are answered or fail; and the link's training, which the rings follow.
-/
namespace Sys2Proof.Machine

/-! ### Rings (R359–R362) -/

def Dev.ringSlots (d : Dev) (r : Nat) : Nat := 2 ^ d.fld .lnkRingCfg r 0 27 23
def Dev.ringProd (d : Dev) (r : Nat) : Nat := d.fld .lnkRingIdx r 0 31 16
def Dev.ringCons (d : Dev) (r : Nat) : Nat := d.fld .lnkRingIdx r 0 15 0
/-- The ring has stopped (R367). -/
def Dev.ringStopped (d : Dev) (r : Nat) : Bool := d.bit .lnkRingStat r 0 31
def Dev.ringDesc (d : Dev) (r slot : Nat) : W64 :=
  BitVec.ofNat 64 ((d.rd .lnkRingDescHi r).toNat * 2 ^ 32 + (d.rd .lnkRingDescLo r).toNat + slot * 32)
def Dev.ringCpl (d : Dev) (r slot : Nat) : W64 :=
  BitVec.ofNat 64 ((d.rd .lnkRingCplHi r).toNat * 2 ^ 32 + (d.rd .lnkRingCplLo r).toNat + slot * 16)
def Dev.ringVec (d : Dev) (r : Nat) : Nat := d.fld .lnkRingCfg r 0 15 8

/-- The ring is enabled, of a kind, and has not stopped; the link is ACTIVE. -/
def Dev.ringRuns (d : Dev) (r kind : Nat) : Bool :=
  d.linkUp && d.ringEn r && d.ringKind r == kind && !d.ringStopped r

def Dev.ringChan (d : Dev) (r : Nat) : Nat := d.fld .lnkRingCfg r 0 21 16
/-- The ring's channel may carry its next frame (R320, R359): LINK is 1, the bellows is enabled, and the channel is free. -/
def Dev.ringChannel (d : Dev) (r : Nat) : Bool :=
  d.bit .blwCfg (d.ringChan r) 0 3 && d.bit .blwCtrl 0 0 0 && d.blwTakes (d.ringChan r)

/-- The address in the host windows of a span of host addresses that lies wholly within an enabled one (R357, R362). -/
def Dev.windowAddr (d : Dev) (a : W64) (len : Nat) : Option Nat :=
  (List.range 16).findSome? (fun w =>
    let base := (d.rd .lnkHwinBaseHi w).toNat * 2 ^ 32 + (d.rd .lnkHwinBaseLo w).toNat
    if d.bit .lnkHwinCtrl w 0 31 ∧ base ≤ a.toNat ∧ a.toNat + len ≤ base + 0x70000000 then
      some (0x900000000 + w * 0x70000000 + (a.toNat - base))
    else none)
def Dev.inWindow (d : Dev) (a : W64) (len : Nat) : Bool := (d.windowAddr a len).isSome

/-- Field D`k` of a descriptor: 32 bits, least significant byte first (R361). -/
def leField (ws : List Word) (k : Nat) : W32 :=
  let v := fun j => (ws.getD j Word.zero).v
  let swap := fun (x : W16) => ((x.truncate 8 : W8).append ((x >>> (8 : Nat)).truncate 8 : W8) : W16)
  (swap (v (2 * k + 1))).append (swap (v (2 * k)))

/-- A 32-bit field as the two words that store it least significant byte first. -/
def leWords (x : W32) : List Word :=
  let swap := fun (y : W16) => ((y.truncate 8 : W8).append ((y >>> (8 : Nat)).truncate 8 : W8) : W16)
  [Word.plain (swap (x.truncate 16)), Word.plain (swap ((x >>> (16 : Nat)).truncate 16))]

/-- The ring's next fetch waits for a tag or for the link. -/
def Dev.ringLater (d : Dev) (r : Nat) : Dev :=
  if d.lnk.due.contains r then d else { d with lnk := { d.lnk with due := d.lnk.due ++ [r] } }

/-- Fetch descriptors ahead of CONS, up to eight and never beyond PROD (R359); what finds no link or no free tag waits (R345, R350).
`n` bounds them. -/
def Dev.ringFetch (d : Dev) (r : Nat) : Nat → Dev
  | 0 => d
  | n + 1 =>
    let x := d.ring r
    let ahead := (d.ringProd r + d.ringSlots r - d.ringCons r) % d.ringSlots r
    if d.ringEn r ∧ !d.ringStopped r ∧ d.ringKind r ≠ 4 ∧ x.fetched.length < min 8 ahead then
      let slot := (d.ringCons r + x.fetched.length) % d.ringSlots r
      match if d.linkUp then d.hostRead (.fetch r) (d.ringDesc r slot) 32 else none with
      | some (_, d1) => (d1.setRing r { x with fetched := x.fetched ++ [none] }).ringFetch r n
      | none => d.ringLater r
    else d

/-- The completion entry of a slot (R362). -/
def completion (phase : Bool) (status : Nat) (low : Nat) (c1 c2 c3 : W32) : List Word :=
  leWords (BitVec.ofNat 32 ((if phase then 2 ^ 31 else 0) + status * 65536 + low)) ++ leWords c1 ++ leWords c2 ++ leWords c3

/-- Write a completion at slot CONS and advance CONS, its lap's phase with it (R359, R362); the Bool says that it could be written. -/
def Dev.ringPut (d : Dev) (r status low : Nat) (c1 c2 c3 : W32) : Dev × Bool :=
  let x := d.ring r
  let cons := d.ringCons r
  let next := (cons + 1) % d.ringSlots r
  let (d1, ok) := d.hostWrite (d.ringCpl r cons) (completion x.phase status low c1 c2 c3)
  let d2 := (d1.setFld .lnkRingIdx r 0 15 0 next).setRing r
    { x with phase := if next = 0 then !x.phase else x.phase, fetched := x.fetched.drop 1 }
  (if status = 0 then d2 else d2.ringDrop r, ok)

/-- The completion of a stop (R362, R367); where the completion area cannot be written it waits for the link. -/
def Dev.ringStopPut (d : Dev) (r code : Nat) : Dev :=
  if d.linkUp then
    ((d.setRing r { d.ring r with stopDue := none }).ringPut r code (if d.ringKind r < 3 then 0 else 32) 0 0
      d.now32).1
  else d.setRing r { d.ring r with stopDue := some code }

/-- The completions of stops that waited for the link are written (R367). -/
def Dev.ringsStopDue (d : Dev) : Dev :=
  d.lnk.rings.entries.foldl (fun d e => match (d.ring e.1).stopDue, (d.ring e.1).xfer with
    | some code, none => d.ringStopPut e.1 code
    | _, _ => d) d

/-- A ring stops (R367): ERROR and ERRCODE, a completion at slot CONS once a transfer that has started is complete, its vector, a
host event entry and event 162. -/
def Dev.ringStop (d : Dev) (r code : Nat) : Dev :=
  if d.ringStopped r then d
  else
    let d1 := (d.setBit .lnkRingStat r 0 31 true).setFld .lnkRingStat r 0 23 16 code
    let d2 := if (d1.ring r).xfer.isSome then d1.setRing r { d1.ring r with stopDue := some code } else d1.ringStopPut r code
    ((d2.raiseVec (d2.ringVec r)).hostEvent [0x4000, w16 r, w16 code, 0, 0, 0, 0, 0]).raiseEvent 162 (w16 r)

/-- Complete slot CONS, raise the vector, and fetch on (R362, R368); after it comes the completion of a stop that waited for it. An error
status counts in DROPS. A completion that cannot be written stops the ring (R354). -/
def Dev.ringComplete (d : Dev) (r status low : Nat) (c1 c2 c3 : W32) (evt : Bool) : Dev :=
  let (d1, ok) := d.ringPut r status low c1 c2 c3
  let d2 := if d1.ringEn r ∧ (evt ∨ d1.bit .lnkRingCfg r 0 22) then d1.raiseVec (d1.ringVec r) else d1
  if !ok then d2.ringStop r 9
  else match (d2.ring r).stopDue with
    | some code => d2.ringStopPut r code
    | none => d2.ringFetch r 8

/-- While the link is ACTIVE, each TICKCLK tries the fetches that wait again and writes the completions of stops that waited. -/
def Dev.tickRings (d : Dev) : Dev :=
  if d.linkUp then (d.lnk.due.foldl (fun (d : Dev) r => d.ringFetch r 8) { d with lnk := { d.lnk with due := [] } }).ringsStopDue else d

/-- The outstanding reads of a ring's descriptor fetches are answered to nobody. -/
def Dev.ringOrphan (d : Dev) (r : Nat) : Dev :=
  { d with lnk := { d.lnk with reads := ⟨d.lnk.reads.entries.map (fun e =>
      match e.2 with
      | some x => if x.agent = .fetch r then (e.1, some { x with agent := .nobody }) else e
      | none => e)⟩ } }

/-- The channel that carries the transfer of ring `r` is free again. -/
def Dev.ringUnfeed (d : Dev) (r : Nat) : Dev :=
  (d.blw.chs.entries.map Prod.fst).foldl (fun d n => if (d.bch n).feed = some r then d.blwUnfeed n else d) d

/-- EN of a ring was written (R359, R367). 1 to 0: a started transfer goes on; the frames queued for an RX ring are freed and
counted. 0 to 1: PROD and CONS 0, phase 1, ERROR clear; a transfer that has not ended by then is given up. -/
def Dev.ringEnWritten (d : Dev) (r : Nat) (was now : Bool) : Dev :=
  let x := d.ring r
  if !was && now then
    let d1 := match x.xfer with
      | some t => (((d.ringOrphan r).ringUnfeed r).setRing r { x with xfer := none }).freeGen t.pool t.idx t.gen
      | none => d.ringOrphan r
    (((d1.wr .lnkRingIdx r 0 0).setBit .lnkRingStat r 0 31 false).setFld .lnkRingStat r 0 23 16 0).setRing r
      { Ring.init with dbLogged := x.dbLogged }
  else if was && !now then
    let kept := if x.xfer.isSome then 1 else 0
    let d1 := (x.rxq.drop kept).foldl (fun d f => (d.freeGen f.pool f.idx f.gen).ringDrop r) (d.ringOrphan r)
    d1.setRing r { x with rxq := x.rxq.take kept, fetched := x.fetched.take kept }
  else d

/-! ### Doorbells (R360, R354) -/

/-- A doorbell write of `v`. -/
def Dev.doorbell (d : Dev) (v : W32) : Dev :=
  let r := bits v 9 0
  let i := bits v 25 10
  let n := d.ringSlots r
  if bits v 31 26 ≠ 0 ∨ !d.ringEn r then
    let d1 := d.count .lnkDbErr
    if (d1.ring r).dbLogged then d1
    else (d1.setRing r { d1.ring r with dbLogged := true }).log4 0 15 0x0E r (w16 r) 0 0
  else if d.ringStopped r then d
  else if n ≤ i ∨ (i + n - d.ringCons r) % n < (d.ringProd r + n - d.ringCons r) % n then
    (d.count .lnkDbErr).ringStop r 0x0A
  else (d.setFld .lnkRingIdx r 0 31 16 i).ringFetch r 8

/-! ### TX rings (R361, R363) -/

/-- The checks of a TX or RX descriptor: the status of the first that fails. `op` is its OP; LEN or CAP is 14:0 of D0. -/
def Dev.descCheck (d : Dev) (op lo hi : Nat) (ws : List Word) : Option Nat :=
  let d0 := leField ws 0
  let len := bits d0 14 0
  let rsv := bits d0 26 15 ≠ 0 ∨ (if op = 1 then bits (leField ws 1) 31 16 ≠ 0 else leField ws 1 ≠ 0) ∨
    [4, 5, 6, 7].any (fun k => leField ws k ≠ 0)
  if ws.any Word.isPoison ∨ bits d0 31 28 ≠ op ∨ rsv then some 1
  else if !d.inWindow ((leField ws 3).append (leField ws 2)) len then some 2
  else if len < lo ∨ hi < len then some 3
  else none

/-- The transfer of ring `r` moves no more: it failed, or its channel has completed its descriptor or gave it up. -/
def Dev.xferOver (d : Dev) (r : Nat) (x : RingXfer) : Bool :=
  x.failed || x.done.isSome || (d.bch (d.ringChan r)).feed != some r

/-- How the transfer ended: the status of what went wrong in it, and `none` for all its bytes moved (R362). -/
def Dev.xferStatus (d : Dev) (r : Nat) (x : RingXfer) : Option Nat :=
  if x.failed then some 6
  else match x.done with
    | some 0 => none
    | some 6 => some 7
    | some _ => some 6
    | none => if (d.bch (d.ringChan r)).feed = some r then none else some 6

/-- The bellows descriptor of ring `r`'s transfer completes, if it has nothing more to move. -/
def Dev.xferSettle (d : Dev) (r : Nat) : Dev :=
  let n := d.ringChan r
  if (d.bch n).feed = some r ∧ d.blwState n = blwRunning ∧ (d.bch n).ready ∧ !d.filling (d.blwSlot n) then d.blwFinish n else d

/-- The channel is free of the transfer, which the ring has no more. -/
def Dev.xferEnd (d : Dev) (r : Nat) : Dev := (d.ringUnfeed r).setRing r { d.ring r with xfer := none }

/-- The first bytes of ring `r`'s frame in the buffer of its transfer. -/
def Dev.xferData (d : Dev) (x : RingXfer) : Nat := d.bufAddr x.pool x.idx + 16 + d.poolPad x.pool

/-- The virtual port of a TX ring. -/
def Dev.ringVport (d : Dev) (r : Nat) : Nat := d.fld .lnkRingAux r 0 21 16

/-- The ring whose frame enters the mill next from virtual port `v`: of those with a whole frame, in rotation after the one that was last
(R363). -/
def Dev.vportTurn (d : Dev) (v : Nat) : Option Nat :=
  let turn := d.lnk.turn.get 0 v
  (d.lnk.rings.entries.foldl (fun (best : Option Nat) e =>
    let whole := match e.2.xfer with
      | some x => d.ringKind e.1 == 1 && d.ringVport e.1 == v && d.xferOver e.1 x && (d.xferStatus e.1 x).isNone
      | none => false
    let far := fun (r : Nat) => (r + 1024 - turn) % 1024
    if !whole then best
    else match best with
      | some b => if far e.1 < far b then some e.1 else best
      | none => some e.1) none)

/-- A transfer that is over ends (R363): the frame goes to its mill, or its buffer is freed. It waits while no mill serves its
virtual port (R186), and for the turn of its ring. -/
def Dev.txFinish (d : Dev) (r : Nat) (x : RingXfer) (ws : List Word) : Dev :=
  let evt := (leField ws 0).getLsbD 27
  let v := d.ringVport r
  let drop := fun (d : Dev) (st : Nat) => ((d.xferEnd r).freeGen x.pool x.idx x.gen).ringComplete r st x.len 0 0 d.now32 evt
  match d.xferStatus r x with
  | some st => drop d st
  | none =>
    if d.bufWaits x.pool x.idx then d else
    let (bs, d1) := d.readBytes (d.xferData x) x.len
    if bs.any Prod.snd then drop d1 7
    else if !d.bit .lnkVport v 0 31 ∨ d.vportTurn v ≠ some r then d
    else
      let d2 := (d1.xferEnd r).writeHead x.pool x.idx x.gen x.len (64 + v) false d.now32
      let e : RxEntry := { bytes := bs, src := 64 + v, fifo := 0, since := d.time.tick, ts := d.time.ns, status := 0, meta3 := 0, meta4 := w16 r,
                           meta5 := lo16 (leField ws 1), buf := some (x.pool, x.idx, x.gen) }
      ({ d2 with lnk := { d2.lnk with turn := d2.lnk.turn.set 0 v ((r + 1) % 1024) } }.pushRx e).ringComplete r 0 x.len 0 0 d.now32 evt

/-- The transfer `x` of ring `r` starts on its channel: `len` bytes from `src` to `dst`. -/
def Dev.xferStart (d : Dev) (r src dst len : Nat) (x : RingXfer) : Dev :=
  (d.blwFeed (d.ringChan r) r src dst len).setRing r { d.ring r with xfer := some x }

/-- `TX_DESCRIPTOR` (R363): the descriptor at CONS is checked and its transfer started on the ring's channel; when that is over, its frame is
handed on and the descriptor completed. -/
def execTxDescriptor (n : Fin 1024) (s : State) : Host.Outcome State Fault Refusal :=
  s.onDev (fun d0 =>
    let d := d0.xferSettle n
    let x := d.ring n
    match x.xfer with
    | some t => if d.linkUp ∧ d.ringKind n = 1 ∧ d.xferOver n t then d.txFinish n t (((x.fetched.head?).bind id).getD []) else d
    | none =>
      if !d.ringRuns n 1 then d
      else match x.fetched with
        | some ws :: _ =>
          let len := bits (leField ws 0) 14 0
          let evt := (leField ws 0).getLsbD 27
          match d.descCheck 1 14 16368 ws, d.windowAddr ((leField ws 3).append (leField ws 2)) len with
          | none, some src =>
            if !(List.range 8).any (fun p => d.poolFits p len) then d.ringComplete n 3 len 0 0 d.now32 evt
            else if !d.ringChannel n then d
            else match d.allocLen len true none with
              | (⟨some (p, i, g), _⟩, d1) =>
                d1.xferStart n src (d1.bufAddr p i + 16 + d1.poolPad p) len ⟨p, i, g, len, false, none⟩
              | (⟨none, _⟩, d1) => d1.ringComplete n 4 len 0 0 d1.now32 evt
          | st, _ => d.ringComplete n (st.getD 2) len 0 0 d.now32 evt
        | _ => d)

/-! ### RX, POST and EVENT rings (R364–R366) -/

/-- A transfer that is over ends (R364): the descriptor is completed and the frame's buffer freed. -/
def Dev.rxFinish (d : Dev) (r : Nat) (x : RingXfer) (ws : List Word) : Dev :=
  let cap := bits (leField ws 0) 14 0
  let d0 := d.xferEnd r
  let (hd, d1) := d0.head x.pool x.idx
  let (rest, d2) := match hd with
    | some (_, dofs) => if cap < x.len then d1.readBytes (d1.bufAddr x.pool x.idx + dofs + cap) (x.len - cap) else ([], d1)
    | none => ([], d1)
  let (hs, d3) := d2.readWords (d2.bufAddr x.pool x.idx) 8
  let h := fun k => (hs.getD k Word.zero).v
  let st := match d.xferStatus r x with
    | some st => st
    | none => if rest.any Prod.snd then 7 else if cap < x.len then 8 else 0
  ((d3.setRing r { d3.ring r with rxq := (d3.ring r).rxq.drop 1 }).ringComplete r st x.len (BitVec.ofNat 32 ((h 2).toNat % 256))
    (join16 (h 6) (h 7)) (join16 (h 4) (h 5)) ((leField ws 0).getLsbD 27)).freeGen x.pool x.idx x.gen

/-- `RX_RING_DELIVER` (R364): the transfer of the oldest queued frame into slot CONS's buffer is started on the ring's channel; when it is over,
the descriptor is completed and the frame's buffer freed. -/
def execRxRingDeliver (n : Fin 1024) (s : State) : Host.Outcome State Fault Refusal :=
  s.onDev (fun d0 =>
    let d := d0.xferSettle n
    let x := d.ring n
    match x.xfer with
    | some t => if d.linkUp ∧ d.ringKind n = 2 ∧ d.xferOver n t ∧ !d.bufWaits t.pool t.idx then d.rxFinish n t (((x.fetched.head?).bind id).getD []) else d
    | none =>
      match x.fetched, x.rxq with
      | some ws :: _, f :: q =>
        if !d.ringRuns n 2 then d
        else
          let cap := bits (leField ws 0) 14 0
          match d.descCheck 2 64 16384 ws, d.windowAddr ((leField ws 3).append (leField ws 2)) cap with
          | none, some dst =>
            if !d.ringChannel n ∨ d.bufWaits f.pool f.idx then d
            else match d.head f.pool f.idx with
              | (some (len, dofs), d1) =>
                d1.xferStart n (d1.bufAddr f.pool f.idx + dofs) dst (min len cap) ⟨f.pool, f.idx, f.gen, len, false, none⟩
              | (none, d1) => (((d1.count .bpmBadHead).setRing n { x with rxq := q }).ringDrop n).freeGen f.pool f.idx f.gen
          | st, _ => d.ringComplete n (st.getD 2) 0 0 0 0 ((leField ws 0).getLsbD 27)
      | _, _ => d)

/-- `POST_DESCRIPTOR` (R365): the record at CONS goes to the dispatcher. -/
def execPostDescriptor (n : Fin 1024) (s : State) : Host.Outcome State Fault Refusal :=
  s.onDev (fun d =>
    match (d.ring n).fetched with
    | some ws :: _ =>
      if !d.ringRuns n 3 then d
      else match d.postTask ws none 1 with
        | (.inl slot, d1) =>
          d1.ringComplete n 0 32 (BitVec.ofNat 32 slot) (BitVec.ofNat 32 (d1.slotGen slot % 4096)) d1.now32 false
        | (.inr reason, d1) => d1.ringComplete n 5 32 (BitVec.ofNat 32 reason) 0 d1.now32 false
    | _ => d)

/-- `HOST_EVENT_ENTRY` (R366): the LOST entry, or the oldest that waits, is written to slot CONS of the host event ring. -/
def execHostEventEntry (s : State) : Host.Outcome State Fault Refusal :=
  s.onDev (fun d =>
    let r := d.fld .lnkCtrl 0 0 25 16
    if !d.bit .lnkCtrl 0 0 15 ∨ !d.ringRuns r 4 ∨ d.ringCons r = d.ringProd r then d
    else
      let t := d.time.ns.toNat
      let lost := d.lnk.evtLost
      let put := fun (ws : List W16) (d : Dev) =>
        let (d1, _) := d.hostWrite (d.ringDesc r (d.ringCons r)) (ws.map Word.plain)
        d1.ringComplete r 0 32 (BitVec.ofNat 32 ((ws.getD 0 0).toNat / 4096)) 0 d1.now32 true
      if lost ≠ 0 then
        put [0xF000, w16 (lost / 65536), w16 lost, 0, 0, 0, 0, 0, w16 (t / 2 ^ 48), w16 (t / 2 ^ 32), w16 (t / 65536), w16 t,
             0, 0, 0, 0] { d with lnk := { d.lnk with evtLost := 0 } }
      else match d.lnk.evtq with
        | ws :: q => put ws { d with lnk := { d.lnk with evtq := q } }
        | [] => d)

/-! ### Answers to reads (R354) -/

/-- The virtual address of a load of a thread. -/
def loadVa (t : Thread) : Instr → Nat
  | .ld _ exi _ p _ => t.va p ((memDisp exi 2).getD 0)
  | .ldp _ exi _ p _ => t.va p ((memDisp exi 4).getD 0)
  | .ldb _ exi _ p _ => t.va p ((memDisp exi 1).getD 0)
  | _ => 0

/-- A descriptor of ring `r` arrives: the slot its address names holds it. -/
def Dev.ringArrive (d : Dev) (r : Nat) (addr : W64) (ws : List Word) : Dev :=
  let x := d.ring r
  let slot := (addr.toNat - (d.ringDesc r 0).toNat) / 32
  let k := (slot + d.ringSlots r - d.ringCons r) % d.ringSlots r
  d.setRing r { x with fetched := x.fetched.set k (some ws) }

/-- The aligned words of a load from a host window: those that arrived, a lone byte in its place, under what the write buffer held
when the load was issued (R75). -/
def hostLoaded (x : RdOut) (pa : Nat) (buf : List WbEntry) (ws : List Word) : List Word :=
  let placed := if x.len = 1 ∧ pa % 2 = 1 then ws.map (fun (w : Word) => { w with v := w.v >>> (8 : Nat) }) else ws
  ((List.range placed.length).zip placed).map (fun kw => overlayWord buf (pa / 2 * 2 + 2 * kw.1) kw.2)

/-- A link read of the boot sequencer ends: its bytes, or none when it failed or the host's data is poisoned (R391, R396). -/
def Dev.bootGot (d : Dev) (bs : List W8) : Dev :=
  { d with top := { d.top with boot := { d.top.boot with reading := false, got := some bs } } }

/-- A read is answered with words; the poison of the host's data is counted. -/
def Dev.readAnswered (d : Dev) (tag : Nat) (x : RdOut) (ws : List Word) : Dev :=
  let d0 := { d with lnk := { d.lnk with reads := d.lnk.reads.set none tag none } }
  let d1 := if ws.any Word.isPoison then d0.count .lnkPoisonRx else d0
  let bs := ((ws.map (fun (w : Word) =>
    [(((w.v >>> (8 : Nat)).truncate 8 : W8), w.isPoison), (w.v.truncate 8, w.isPoison)])).flatten).take x.len
  match x.agent with
  | .thread g =>
    match (d1.thr g).wait with
    | .host i t pa buf => if t = tag then d1.respond g (loadPend (d1.thr g) i (hostLoaded x pa buf ws)) else d1
    | _ => d1
  | .bellows n => d1.blwArrive n tag (some bs)
  | .smithy h x' => d1.smArrive h x' tag (some bs)
  | .fetch r => d1.ringArrive r x.addr ws
  | .boot => d1.bootGot (if ws.any Word.isPoison then [] else bs.map Prod.fst)
  | .nobody => d1

/-- A read fails (R354); `down` when the link went down (R345). -/
def Dev.readFails (d : Dev) (tag : Nat) (x : RdOut) (down : Bool) : Dev :=
  let d1 := { d with lnk := { d.lnk with reads := d.lnk.reads.set none tag none } }
  match x.agent with
  | .thread g =>
    let t := d1.thr g
    match t.wait with
    | .host i u _ _ =>
      if u = tag then d1.respond g ⟨[], none, some (addrFault 6 5 false (d1.ctxOf (hearthOf g)) (loadVa t i))⟩ else d1
    | _ => d1
  | .bellows n => d1.blwArrive n tag none
  | .smithy h x' => d1.smArrive h x' tag none
  | .fetch r =>
    if down then (d1.setRing r { d1.ring r with fetched := (d1.ring r).fetched.takeWhile Option.isSome }).ringLater r
    else d1.ringStop r 9
  | .boot => d1.bootGot []
  | .nobody => d1

/-- A read under a tag that is outstanding. -/
def Dev.readOut (d : Dev) (tag : Nat) : Option RdOut := d.lnk.reads.get none tag

/-- `CPL_TIMEOUT` (R354). -/
def execCplTimeout (tag : W8) (s : State) : Host.Outcome State Fault Refusal :=
  s.onDev (fun d => match d.readOut tag.toNat with
    | some x =>
      if d.domOn domLink ∧ x.since + usTicks (d.fld .lnkTimers 0 0 15 0) ≤ d.time.tick then
        (d.count .lnkCplTmo).readFails tag.toNat x false
      else d
    | none => d)

/-! ### Training (R343–R345) -/

/-- The transfers of host rings in progress fail (R345). -/
def Dev.ringsFail (d : Dev) : Dev :=
  { d with lnk := { d.lnk with rings := ⟨d.lnk.rings.entries.map (fun e =>
      (e.1, { e.2 with xfer := e.2.xfer.map (fun x => { x with failed := true }) }))⟩ } }

/-- The rings whose completion writes are among the writes that the card has not acknowledged: an address in a ring's completion area tells
(R345, R354). -/
def Dev.cplPending (d : Dev) : List Nat :=
  let addrs := ((d.lnk.replay.map TxFlit.body) ++ d.lnk.waiting.map Prod.fst).filterMap (fun b => match b with
    | .mwr addr len => if len = 16 then some addr.toNat else none
    | _ => none)
  (d.lnk.rings.entries.map Prod.fst).filter (fun r => d.ringEn r && addrs.any (fun a =>
    decide ((d.ringCpl r 0).toNat ≤ a ∧ a < (d.ringCpl r 0).toNat + d.ringSlots r * 16)))

/-- The link goes down and enters a state: writes are lost, every outstanding read and transfer fails, a ring whose completion is lost stops, and
firmware and host are told. -/
def Dev.linkDown (d : Dev) (st : Nat) : Dev :=
  let d1 := (d.lnkTo st).lnkFlush
  let d2 := (d1.lnk.reads.entries.foldl (fun d e => match e.2 with
    | some x => d.readFails e.1 x true
    | none => d) d1).ringsFail
  (d.cplPending.foldl (fun d r => d.ringStop r 9) d2).lnkTell

/-- STATE reaches DOWN: a high-severity record besides (R344). -/
def Dev.linkToDown (d : Dev) : Dev :=
  let d1 := d.linkDown 0
  d1.log4 2 15 0x0C 0 d1.lnkWord 0 0

/-- Full training fails: DETECT again, or DOWN after the third in a row (R344). -/
def Dev.trainingFails (d : Dev) : Dev :=
  let n := d.lnk.fails + 1
  let d1 := { d with lnk := { d.lnk with fails := n } }
  if 3 ≤ n then d1.linkToDown else (d1.lnkTo 1).lnkFlush

/-- `TRAINING_STATE_DONE` (R343, R344): `lanes` names the lanes that lock. The CREDIT state sends the device's CREDIT_INIT
flits; at ACTIVE the rings go on. A state past its limit has failed, and nothing completes it. -/
def execTrainingStateDone (lanes : BitVec 4) (s : State) : Host.Outcome State Fault Refusal :=
  s.onDev (fun d =>
    let st := d.lnkStateNo
    let locked := d.setFld .lnkStatus 0 0 19 16 lanes.toNat
    if !d.domOn domLink ∨ d.lnk.since + lnkLimit st < d.time.tick then d
    else match st with
      | 1 => d.lnkTo 2
      | 2 => if (lnkWidth lanes (d.fld .lnkCtrl 0 0 29 28)).isSome then locked.lnkTo 3 else locked.trainingFails
      | 3 =>
        match lnkWidth lanes (d.fld .lnkCtrl 0 0 29 28) with
        | some w => (locked.setFld .lnkStatus 0 0 29 28 w).lnkTo 4
        | none => locked.trainingFails
      | 4 =>
        (d.lnkTo 5).sendFront [(.lctl 1 0 (rxCredits 0), 3), (.lctl 1 1 (rxCredits 1), 3), (.lctl 1 2 (rxCredits 2), 3)]
      | 5 => ({ d with lnk := { d.lnk with fails := 0 } }.lnkTo 6).tickRings
      | 7 =>
        match lnkWidth lanes (d.fld .lnkCtrl 0 0 29 28) with
        | some w => ((locked.setFld .lnkStatus 0 0 29 28 w).lnkTo 6).tickRings
        | none => locked.linkDown 1
      | _ => d)

/-- `TRAINING_TIMEOUT` (R343, R344): a state past its limit. A fast retrain that fails leads to full training. -/
def execTrainingTimeout (s : State) : Host.Outcome State Fault Refusal :=
  s.onDev (fun d =>
    let st := d.lnkStateNo
    if st = 0 ∨ st = 6 ∨ !d.domOn domLink ∨ d.time.tick < d.lnk.since + lnkLimit st then d
    else if st = 7 then d.linkDown 1
    else d.trainingFails)

/-- EN of LNK.CTRL was written (R343, R344). -/
def Dev.lnkEnWritten (d : Dev) (was now : Bool) : Dev :=
  if !was && now then { d with lnk := { d.lnk with fails := 0 } }.lnkTo 1
  else if was && !now && d.lnkStateNo ≠ 0 then d.linkToDown
  else d

/-- RETRAIN of LNK.CTRL was written 1 (R344): a fast retrain from ACTIVE, full training from DOWN. -/
def Dev.lnkRetrain (d : Dev) : Dev :=
  if d.lnkStateNo = 6 then d.fastRetrain
  else if d.lnkStateNo = 0 ∧ d.bit .lnkCtrl 0 0 31 then { d with lnk := { d.lnk with fails := 0 } }.lnkTo 1
  else d

end Sys2Proof.Machine
end

