-- ==== Sys2Proof/Machine/Power.lean ====
section
/-!
DEFINITION. Resets (R281, R386–R389, R415, R416) and the power controller (R398–R400).
-/
namespace Sys2Proof.Machine

/-! ### Hearth resets (R281, R387, R389) -/

/-- The threads of hearth `h` go OFF, as by kills, but that a message of a long flue to which one was bound stays; its local flues, report
queue, keys and TLB are emptied, and the reports on it withdrawn (R123, R124, R341, R387). A reset of H0 sends the records and reports of
other hearths that wait there to the host, with `HTH.STILL.HOST` of a hearth whose stillness report goes there (R128). -/
def Dev.clearHearth (d : Dev) (h : Nat) : Dev :=
  let d1 := (hearthThreads h).foldl (fun d g => if (d.thr g).st = .off then d else d.turnThreadOff g Dev.unbind) d
  let d2 := { d1 with eng := { d1.eng with
    flues := d1.eng.flues.filter (fun k _ => !(decide (k < 4096) && k / 256 == h)) } }
  let x := d2.hth 0
  let mine := fun (r : Report) => r.src == 2048 + h || (decide (r.src < 2048) && hearthOf r.src == h)
  let d3 := d2.setHth 0 { x with repq := x.repq.filter (fun r => !mine r) }
  let left := if h = 0 then (d3.hth 0).repq else []
  let y := d3.hth h
  left.foldl (fun d r => (if r.src < 2048 then d else d.setBit .hthStill (r.src - 2048) 0 10 true).reportHost r.words) (d3.setHth h { y with repq := [], tlb := [], keys := Map.empty })

/-- The commands and the status of hearth `h` are cleared (R387); those of its range engine when the reset stops it (R281). -/
def Dev.clearHthCmds (d : Dev) (h : Nat) : Dev :=
  (((d.wr .hthThrCmd h 0 0).wr .hthKeyCmd h 0 0).wr .hthPatCmd h 0 0).wr .hthStill h 0 (d.rd .hthStill h 0 &&& 1)

/-- SOFT or HARD: the hearth enters reset (R389, R400: of both, the hard reset). A hard reset discards what the write buffers
and the cache hold, counted and logged; a soft one keeps both until its end, which drains and cleans them (R281). -/
def Dev.hearthReset (d : Dev) (h : Nat) (hard : Bool) : Dev :=
  let was := (d.hth h).reset
  if was = 2 then d
  else
    let d1 := (d.clearHearth h).clearHthCmds h
    let d2 := d1.setHth h { d1.hth h with reset := if hard then 2 else 1, still := 0, stillRep := false }
    if hard then
      let (n, d3) := (d2.clearNear h).loseCache h
      let d4 := if n = 0 then d3 else d3.count .hthCacheDiscard h 0 n
      (d4.log4 1 18 0x09 h (w16 n) 0 0).rangeAbort h
    else d2

/-- A hearth leaves reset, and its warden starts at WARDEN_PC (R110, R389). -/
def Dev.leaveReset (d : Dev) (h : Nat) : Dev :=
  let d1 := d.setHth h { d.hth h with reset := 0 }
  d1.startThread (h * 128) (BitVec.ofNat 15 (d1.fld .hthWardenPc h 0 14 0))

/-- A write of `HTH.RESET` (R389). HOLD written 0 lets a held hearth leave reset, once the device has started. -/
def Dev.hthResetWritten (d : Dev) (r : Req) (h : Nat) (v : W32) : Dev :=
  if v.getLsbD 1 then d.hearthReset h true
  else if v.getLsbD 0 then d.hearthReset h false
  else if (d.hth h).reset = 3 ∧ !v.getLsbD 8 ∧ r ≠ .boot ∧ d.top.boot.phase = .done then d.leaveReset h
  else d

/-! ### What a domain loses (R398, R399) -/

/-- The registers and counters at set-up offsets lo to hi hold their reset values. -/
def Dev.resetRegs (d : Dev) (lo hi : Nat) : Dev :=
  { d with regs := d.regs.filter (fun k _ => !(decide (lo ≤ k) && decide (k < hi))),
           ctrs := d.ctrs.filter (fun k _ => !(decide (lo ≤ k) && decide (k < hi))) }

/-- A hearth loses everything that it holds; it wakes in reset. -/
def Dev.loseHearth (d : Dev) (h : Nat) : Dev :=
  let base := (0x4000000 + h * 0x80000) / 2
  let m := d.mem.fill base (base + 0x40000) false
  let e := d.eng
  let d1 := { d with
    mem := { m with prog := m.prog.filter (fun k _ => k / 32768 != h) },
    eng := { e with threads := e.threads.filter (fun k _ => k / 128 != h),
                    engines := e.engines.filter (fun k _ => k / 16 != h),
                    cregs := e.cregs.filter (fun k _ => k / 2048 != h),
                    kept := e.kept.filter (fun k _ => k / 512 != h),
                    cerr := e.cerr.filter (fun k _ => k / 512 != h) } }
  (d1.setHth h Hearth.init).resetRegs (0x800000 + h * 0x80000) (0x880000 + h * 0x80000)

/-- A port loses its received frames, its SecY and its registers. -/
def Dev.losePort (d : Dev) (p : Nat) : Dev :=
  let d1 := d.dropLink p
  let d2 := (d1.prt.rxq.get [] p).foldl (fun d e => match e.buf with
    | some (n, i, g) => d.freeGen n i g
    | none => d) d1
  let d3 := { d2 with prt := { d2.prt with
    rxq := d2.prt.rxq.set [] p [],
    left := d2.prt.left.set [] p [],
    scs := d2.prt.scs.filter (fun k _ => k / 64 != p),
    sas := d2.prt.sas.filter (fun k _ => k / 256 != p) } }
  (d3.resetRegs (0x80000 + p * 0x1000) (0x81000 + p * 0x1000)).discardDown p

/-- A memory channel enters self-refresh and keeps its contents. -/
def Dev.restChannel (d : Dev) (c : Nat) : Dev :=
  if d.bit .memMcStatus c 0 31 then
    { d.setBit .memMcStatus c 0 31 false with top := { d.top with
      kept := d.top.kept.set none c (some (d.rd .memMcCfg c)), saved := d.top.saved.set false c true } }
  else d

/-- The link goes down and loses the rings, their frames and its registers. -/
def Dev.loseLink (d : Dev) : Dev :=
  let d1 := if d.lnkStateNo = 0 then d else d.linkToDown
  let d2 := d1.lnk.rings.entries.foldl (fun d e =>
    let d1 := e.2.rxq.foldl (fun d f => d.freeGen f.pool f.idx f.gen) d
    match e.2.xfer with
    | some t =>
      let d2 := d1.ringUnfeed e.1
      if e.2.rxq.any (fun f => f.pool == t.pool && f.idx == t.idx && f.gen == t.gen) then d2 else d2.freeGen t.pool t.idx t.gen
    | none => d1) d1
  { d2 with lnk := LnkSt.init }.resetRegs 0x480000 0x500000

/-- The domain turns OFF. -/
def Dev.turnOff (d : Dev) (dom : Nat) : Dev :=
  let d1 :=
    if dom < 18 then d.loseHearth (dom - 2)
    else if dom < 26 then { d with mem := d.mem.fill ((dom - 18) * 0x200000) ((dom - 17) * 0x200000) false }
    else if dom < 34 then (List.range 4).foldl (fun d k => d.losePort ((dom - 26) * 4 + k)) d
    else if dom < 38 then d.restChannel (dom - 34)
    else if dom = 38 then d.loseLink
    else d.canPowerOff.resetRegs 0x500000 0x503000
  d1.setFld .pwrDom dom 0 31 30 0

/-! ### Requests (R398, R399) -/

/-- A request for a domain ends with a RESULT: 1 OK, 2 BUSY, 3 REFUSED, 4 ABORTED, 5 FORCED; and event 168. -/
def Dev.pwrResult (d : Dev) (dom res : Nat) : Dev := (d.setFld .pwrDom dom 0 26 24 res).raiseEvent 168 0

def Dev.domState (d : Dev) (dom : Nat) : Nat := d.fld .pwrDom dom 0 31 30
def Dev.setDom (d : Dev) (dom st : Nat) : Dev := d.setFld .pwrDom dom 0 31 30 st

/-- Part of pool `n` lies in channel `c`, as both are configured. Of the span that they share, the first four pages and the last show it, since four in a row meet every interleaved channel. -/
def Dev.poolInMc (d : Dev) (n c : Nat) : Bool :=
  let b := d.poolBase n
  let e := b + d.poolCount n * poolSize n - 1
  let f := mcFill c (d.rd .memMcCfg c) false
  let x := max b (f.lo * 2)
  let y := min e (f.hi * 2 - 1)
  d.poolEn n && d.bit .memMcCfg c 0 31 && decide (0x100000000 ≤ b) && decide (x ≤ y) &&
    [x, y, min y (x + 4096), min y (x + 8192), min y (x + 12288)].any (fun a => f.has (a / 2))

/-- The rules of R399 that refuse a power-down. -/
def Dev.pwrRefused (d : Dev) (dom : Nat) (force : Bool) : Bool :=
  if dom < 18 then !force && (d.hth (dom - 2)).reset == 0
  else if dom < 26 then
    d.fld .dspWinBase 0 0 24 22 == dom - 18 ||
      (d.fld .bpmStateBase 0 0 24 21 / 2 == dom - 18 && (List.range 8).any (fun n => d.poolEn n))
  else if 34 ≤ dom ∧ dom < 38 then (List.range 8).any (fun n => d.poolInMc n (dom - 34))
  else false

/-- The access of thread state `t` in flight to domain `dom`: with the fault that ends it as a target error. -/
def Dev.flyingTo (d : Dev) (dom : Nat) (t : Thread) : Option FaultInfo :=
  match t.wait with
  | .far _ pa f => if d.domOf pa = some dom then some f else none
  | .line la _ _ f => if d.domOf (la * 64) = some dom then some f else none
  | _ => none

/-- The loads in flight to domain `dom` end as target errors, and so do the line fetches (R399). -/
def Dev.failFlying (d : Dev) (dom : Nat) : Dev :=
  let d1 := { d with eng := { d.eng with threads := ⟨d.eng.threads.entries.map (fun e =>
    match d.flyingTo dom e.2 with
    | some f => (e.1, { e.2 with wait := .resp ⟨[], none, some f⟩ })
    | none => e)⟩ } }
  (List.range 16).foldl (fun d1 h =>
    if (d.hth h).fetches.any (fun f => d.domOf (f.line * 64) == some dom) then
      d1.updHth h (fun x => { x with fetches := x.fetches.filter (fun f => d.domOf (f.line * 64) != some dom) })
    else d1) d1

/-- A power-off request is taken: it is refused, it is forced, or the domain drains. -/
def Dev.takeOff (d : Dev) (q : PwrReq) : Dev :=
  if d.domState q.dom = 0 then d.pwrResult q.dom 1
  else if d.pwrRefused q.dom q.force then d.pwrResult q.dom 3
  else if q.force then
    let d1 := if q.dom < 18 ∧ (d.hth (q.dom - 2)).reset = 0 then d.hearthReset (q.dom - 2) true else d
    (((d1.blwForce q.dom).failFlying q.dom).turnOff q.dom).pwrResult q.dom 5
  else
    let d0 := if q.dom = domCan then d.canLeave else d
    let d1 := (d0.blwPowerPause q.dom).setDom q.dom 3
    { d1 with top := { d1.top with drain := d1.top.drain.set 0 q.dom (d1.time.tick + 1) } }

/-- A drain ends with the domain ON: its channels go on (R321). -/
def Dev.undrain (d : Dev) (dom res : Nat) : Dev :=
  let d1 := d.setDom dom 2
  (({ d1 with top := { d1.top with drain := d1.top.drain.set 0 dom 0 } }).blwPowerResume).pwrResult dom res

/-- A power-on request is taken for a domain that needs no wake: one that is ON, or that drains, whose power-off is aborted
(R400). -/
def Dev.takeOn (d : Dev) (q : PwrReq) : Dev :=
  let d1 := if d.domState q.dom = 3 then d.undrain q.dom 4 else d
  d1.pwrResult q.dom 1

/-- A forced power-down of a hearth in a soft reset waits until the reset is complete (R400). -/
def Dev.pwrWaits (d : Dev) (q : PwrReq) : Bool :=
  !q.on && q.force && decide (2 ≤ q.dom ∧ q.dom < 18) && (d.hth (q.dom - 2)).reset == 1

/-- The requests at the head of the queue that need no paced wake are taken, in write order. `n` bounds them. -/
def Dev.pwrAdvance (d : Dev) : Nat → Dev
  | 0 => d
  | n + 1 =>
    match d.top.pwrq with
    | [] => d
    | q :: r =>
      let st := d.domState q.dom
      let d1 := { d with top := { d.top with pwrq := r } }
      if st = 1 ∨ (q.on ∧ st = 0) ∨ (!q.on ∧ st = 3) ∨ d.pwrWaits q then d
      else (if q.on then d1.takeOn q else d1.takeOff q).pwrAdvance n

/-- Queue a power request. -/
def Dev.pwrQueue (d : Dev) (q : PwrReq) : Dev :=
  let d1 := { d with top := { d.top with pwrq := d.top.pwrq ++ [q] } }
  d1.pwrAdvance d1.top.pwrq.length

/-- `DOMAIN_WAKE` (R398): the power-on request at the head of the queue, under its pace. -/
def execDomainWake (s : State) : Host.Outcome State Fault Refusal :=
  s.onDev (fun d =>
    match d.top.pwrq with
    | [] => d
    | q :: r =>
      let port := decide (26 ≤ q.dom ∧ q.dom < 34)
      let due := if port then d.top.lastPort else d.top.lastWake
      if !q.on ∨ d.domState q.dom ≠ 0 ∨ d.time.tick < due then d
      else
        let d1 := d.setDom q.dom 1
        let d2 := { d1 with top := { d1.top with
          pwrq := r, fill := d1.top.fill.set false q.dom q.clear, woke := d1.top.woke.set 0 q.dom d1.time.tick,
          lastWake := if port then d1.top.lastWake else d1.time.tick + usTicks 2,
          lastPort := if port then d1.time.tick + usTicks 1 else d1.top.lastPort } }
        d2.pwrAdvance d2.top.pwrq.length)

/-- An access to domain `dom` is in flight (R399): a load of a thread; a read that waits for the card, or a message for it; a transfer of the xSPI master; a line
that a cache fetches or writes back; the writes of a hearth's soft reset. -/
def Dev.inFlight (d : Dev) (dom : Nat) : Bool :=
  (dom == domLink && (d.lnk.reads.entries.any (fun e => e.2.isSome) || !d.lnk.waiting.isEmpty)) ||
  (match d.loc.xspi with
    | some (_, a, _) => d.domOf a == some dom
    | none => false) ||
  d.listed.any (fun e => (d.flyingTo dom e.2).isSome) ||
  (List.range 16).any (fun h =>
    (dom == domHearth h && (d.hth h).reset == 1) ||
    (d.hth h).fetches.any (fun f => d.domOf (f.line * 64) == some dom) ||
    (d.hth h).victim.any (fun l => l.issued && d.domOf (l.addr * 64) == some dom))

/-- The time for the drain of a domain is over. -/
def Dev.drainLate (d : Dev) (dom : Nat) : Bool :=
  let t := d.top.drain.get 0 dom
  decide (0 < t ∧ t - 1 + usTicks (d.fld .pwrDrainTimeout 0 0 15 0) < d.time.tick)

/-- `DRAIN_COMPLETE` (R399): the channels have paused and no access is in flight, within the time for the drain, and the domain turns OFF. -/
def execDrainComplete (dom : Fin 40) (s : State) : Host.Outcome State Fault Refusal :=
  s.onDev (fun d =>
    if d.domState dom ≠ 3 ∨ !d.blwDrained dom ∨ d.inFlight dom ∨ d.drainLate dom ∨ (dom.val = domCan ∧ !d.canIdle) then d
    else
      let d1 := { d with top := { d.top with drain := d.top.drain.set 0 dom 0 } }
      let d2 := (d1.turnOff dom).pwrResult dom 1
      d2.pwrAdvance d2.top.pwrq.length)

/-- `DRAIN_TIMEOUT` (R399): the request ends BUSY and the domain stays ON. -/
def execDrainTimeout (dom : Fin 40) (s : State) : Host.Outcome State Fault Refusal :=
  s.onDev (fun d =>
    let t := d.top.drain.get 0 dom
    if d.domState dom ≠ 3 ∨ t = 0 ∨ d.time.tick < t - 1 + usTicks (d.fld .pwrDrainTimeout 0 0 15 0) then d
    else
      let d1 := d.undrain dom 2
      d1.pwrAdvance d1.top.pwrq.length)

/-! ### Memory channels that have trained (R288, R388) -/

/-- `MEM_TRAINING_DONE` (R288, R388): training succeeds, from saved results when `restored` says so and the mode tries them,
or fails. A kept channel that RESTORE brings back under the same CFG keeps its contents.
The bellows channels that waited for the channel resume (R321). -/
def execMemTrainingDone (c : Fin 4) (ok restored : Bool) (s : State) : Host.Outcome State Fault Refusal :=
  s.onDev (fun d =>
    if !d.mcTraining c then d
    else if !ok then ((d.setBit .memMcStatus c 0 30 true).log4 2 14 0x0A c 0 0 0).blwPowerResume
    else
      let cfg := d.rd .memMcCfg c
      let kept := d.top.kept.get none c
      let r := restored && d.top.saved.get false c && (kept.isSome || d.fld .memCtrl 0 0 1 0 == 1)
      let same : Bool := match kept with
        | some v => mcFill c v true == mcFill c cfg true
        | none => false
      let d1 := if r ∧ same then d else d.loseChannel c cfg
      let d2 := (d1.setBit .memMcStatus c 0 31 true).setBit .memMcStatus c 0 29 r
      { d2 with top := { d2.top with kept := d2.top.kept.set none c none, saved := d2.top.saved.set false c true } }.blwPowerResume)

/-! ### Resets of the device (R386–R388, R415, R416) -/

/-- LPDDR6 after a device reset: the channels kept hold what they held; the others' contents are lost. -/
def Dev.resetMem (d : Dev) (kept : Map (Option W32)) : MemSt :=
  let m := d.mem
  let m1 : MemSt :=
    { cells := m.cells.filter (fun k _ => decide (0x80000000 ≤ k)),
      fills := m.fills.filter (fun f => decide (0x80000000 < f.hi)),
      ecc := m.ecc.filter (fun k _ => decide (0x20000000 ≤ k ∧ k < 0x100000000000)),
      init := Map.empty, held := [], prog := Map.empty }
  (List.range 4).foldl (fun m c =>
    if (kept.get none c).isSome then m else m.fillAs (mcFill c (d.rd .memMcCfg c) true)) m1

/-- A device reset: everything but the retained state of R387 takes its reset value; `cause` is the bit of RESET_CAUSE, and
`mayKeep` says that KEEP_MEM applies (R388). -/
def Dev.deviceReset (d : Dev) (cause : Nat) (mayKeep : Bool) : Dev :=
  let keep := mayKeep && d.bit .topResetCtrl 0 0 0
  let kept : Map (Option W32) := (List.range 4).foldl (fun m c =>
    if keep ∧ d.bit .memMcStatus c 0 31 then m.set none c (some (d.rd .memMcCfg c)) else m) Map.empty
  let n := Dev.init
  let d1 := { n with
    time := { n.time with tick := d.time.tick, free := d.time.free },
    mem := d.resetMem kept,
    top := { n.top with kept := kept, saved := d.top.saved, fuseSeen := d.top.fuseSeen } }
  (d1.wr .topResetCause 0 0 (BitVec.ofNat 32 ((d.rd .topResetCause).toNat ||| 2 ^ cause))).wr .topResetCtrl 0 0
    (d.rd .topResetCtrl)

/-- A power-on reset: nothing but the fuses is kept, and TOP.FUSE shows them (R387, R412). -/
def Dev.powerOnReset (d : Dev) (f : Map W32) : Dev :=
  let n := Dev.init
  ({ n with time := { n.time with tick := d.time.tick, free := d.time.free },
            top := { n.top with porHold := true, fuseSeen := fuseReg f } }).wr .topResetCause 0 0 1

/-- `POWER_ON_RESET`. -/
def execPowerOnReset (s : State) : Host.Outcome State Fault Refusal := s.onDev (·.powerOnReset s.fuses)
/-- `SUPPLY_DROP`. -/
def execSupplyDrop (s : State) : Host.Outcome State Fault Refusal := s.onDev (·.powerOnReset s.fuses)
/-- `POWER_ON_RESET_END`: RESET_RELEASE may follow. -/
def execPowerOnResetEnd (s : State) : Host.Outcome State Fault Refusal :=
  s.onDev (fun d => { d with top := { d.top with porHold := false } })
/-- `RESET_N_LOW`. -/
def execResetNLow (s : State) : Host.Outcome State Fault Refusal :=
  s.onDev (fun d => if d.top.porHold then d else d.deviceReset 1 true)
/-- `PLL_LOCK_LOSS`: only a locked PLL loses its lock. -/
def execPllLockLoss (s : State) : Host.Outcome State Fault Refusal :=
  s.onDev (fun d => if d.bit .clkStatus 0 0 0 then d.deviceReset 3 false else d)
/-- `REFERENCE_LOSS`. -/
def execReferenceLoss (s : State) : Host.Outcome State Fault Refusal :=
  s.onDev (fun d => if d.top.porHold then d else d.deviceReset 4 false)

/-- A write of `TOP.RESET_CMD` with the right KEY and DEVICE (R386). -/
def Dev.resetCmd (d : Dev) (v : W32) : Dev := if v.getLsbD 0 then d.deviceReset 2 true else d

end Sys2Proof.Machine
end

