-- ==== Sys2Proof/Machine/BootLoad.lean ====
section
/-!
DEFINITION. The boot sequencer up to the check of the image (R390–R396): sources, the image header and sections as they arrive,
failures; and domains that turn on.
-/
namespace Sys2Proof.Machine

/-! ### Sources (R390, R396) -/

def Dev.updBoot (d : Dev) (f : BootSt → BootSt) : Dev := { d with top := { d.top with boot := f d.top.boot } }
/-- BOOT_STATUS.STATE: 1 HEADER, 2 LOAD, 3 VERIFY, 4 SETUP, 5 STARTED, 6 WAIT, 7 FAILED. -/
def Dev.bootState (d : Dev) (st : Nat) : Dev := d.setFld .topBootStatus 0 0 31 28 st
def Dev.bootStateNo (d : Dev) : Nat := d.fld .topBootStatus 0 0 31 28

/-- The boot's link for the host as a source: LNK.CTRL at its reset values with EN = 1 (R390). -/
def Dev.bootLink (d : Dev) : Dev :=
  let was := d.bit .lnkCtrl 0 0 31
  let d1 := d.wr .lnkCtrl 0 0 0x80000010
  if was then d1 else d1.lnkEnWritten false true

/-- A link read of the image that is still out is answered to nobody. -/
def Dev.bootOrphan (d : Dev) : Dev :=
  { d with lnk := { d.lnk with reads := ⟨d.lnk.reads.entries.map (fun e =>
      match e.2 with
      | some x => if x.agent = .boot then (e.1, some { x with agent := .nobody }) else e
      | none => e)⟩ } }

/-- The sequencer turns to source `src` (0 flash, 1 host, 2 stream). The flash is read from its header on; for the host the link
is brought up, and BOOT_CMD awaited; a stream is awaited word by word, in WAIT. -/
def Dev.bootSource (d : Dev) (src : Nat) (fallback : Bool) : Dev :=
  let ph : BootPhase := if src = 1 then .wait else .header
  let d1 := (d.setFld .topBootStatus 0 0 25 24 src).setBit .topBootStatus 0 0 20 fallback
  let d2 := d1.bootOrphan.updBoot (fun b => { b with
    phase := ph, src := src, fallback := fallback, bytes := [], pos := 0, setups := [], start := none, ended := false,
    since := d.time.tick, reading := false, got := none })
  if src = 0 then d2.bootState 1
  else if src = 1 then
    let d3 := d2.bootState 6
    if d3.domOn domLink then d3.bootLink
    else if d3.top.pwrq.any (fun q => q.dom == domLink && q.on) ∨ d3.domState domLink = 1 then d3
    else d3.pwrQueue ⟨domLink, true, false, false⟩
  else d2.bootState 6

/-- A boot fails with a code (R396): the fallback image, the next source, or FAILED with FAULT_N. -/
def Dev.bootFail (d : Dev) (code : Nat) : Dev :=
  let d1 := d.setFld .topBootStatus 0 0 3 0 code
  let b := d1.top.boot
  if b.src = 0 ∧ !b.fallback then d1.bootSource 0 true
  else match b.left with
    | s :: r => (d1.updBoot (fun b => { b with left := r })).bootSource s false
    | [] => ((d1.updBoot (fun b => { b with phase := .failed })).bootState 7).setBit .errFault 0 0 2 true

/-! ### The image (R392, R394) -/

/-- The 32-bit field at an offset of the image, least significant byte first. -/
def le32 (bs : List W8) (o : Nat) : Nat := Crypto.leNat ((bs.drop o).take 4)

def allZero (bs : List W8) : Bool := bs.all (fun b => b == 0)

/-- The failure code of an image header, 0 when it is good: 1 MAGIC, 2 anything else. The flash field counts for the flash only. -/
def headerCheck (h : List W8) (flash : Bool) : Nat :=
  let w1 := le32 h 4
  let len := le32 h 8
  let fl := le32 h 12
  if le32 h 0 ≠ 0x4F580256 then 1
  else if w1 % 65536 ≠ 1 ∨ w1 / 131072 ≠ 0 ∨ len % 8 ≠ 0 ∨ len < 0x120 ∨ 0x800000 < len ∨
      (flash ∧ (fl % 256 < 5 ∨ 250 < fl % 256 ∨ fl / 256 % 4 = 3 ∨ fl / 1024 % 64 ≠ 0 ∨ fl / 2097152 % 8 ≠ 0)) ∨
      !allZero ((h.drop 0x10).take 0x30) ∨ !allZero ((h.drop 0xA0).take 0x60) then 2
  else 0

/-- What a section's first bytes say: its kind, payload length, and the bytes that it takes with its padding. -/
structure Section where
  kind : Nat
  len : Nat
  size : Nat
  addr : Nat
  mask : Nat

/-- The section whose header stands at an offset, if its fields keep R394. -/
def sectionAt (bs : List W8) (o : Nat) : Option Section :=
  let w := fun k => le32 bs (o + 4 * k)
  let kind := w 0 / 2 ^ 28
  let len := w 0 % 2 ^ 24
  let s : Section := ⟨kind, len, 16 + (len + 7) / 8 * 8, w 2 % 16 * 2 ^ 32 + w 1, w 3 % 65536⟩
  let rsv := w 0 / 2 ^ 24 % 16 = 0
  let ok : Bool := match kind with
    | 1 => decide (rsv ∧ len % 8 = 0 ∧ w 1 % 8 = 0 ∧ w 2 / 16 = 0 ∧ w 3 = 0)
    | 2 => decide (rsv ∧ len % 8 = 0 ∧ w 1 = 0 ∧ w 2 = 0 ∧ w 3 = 0)
    | 3 => decide (rsv ∧ len = 0 ∧ w 1 = 0 ∧ w 2 = 0 ∧ w 3 / 65536 = 0)
    | 15 => decide (rsv ∧ len = 4 ∧ w 1 = 0 ∧ w 2 = 0 ∧ w 3 = 0)
    | _ => false
  if ok then some s else none

/-- The class of a store that DATA may name: 1 granary, 2 larders, 3 packet store, 4 program-store load windows. -/
def Dev.dataClass (d : Dev) (pa : Nat) : Nat :=
  match d.region pa with
  | .granary _ => 1
  | .larder _ => 2
  | .packet => 3
  | .window _ => 4
  | _ => 0

/-- Every bank, larder or hearth that a span of a class lies in is ON. -/
def Dev.dataOn (d : Dev) (a len : Nat) : Bool :=
  let grain := match d.dataClass a with
    | 1 => 0x400000
    | 2 => 0x80000
    | 4 => 0x10000
    | _ => 0x1000000
  let first := a / grain
  (List.range ((a + len - 1) / grain + 1 - first)).all (fun k =>
    match d.region ((first + k) * grain) with
    | .granary b => d.domOn (domGran b)
    | .larder h => d.domOn (domHearth h)
    | .window h => d.domOn (domHearth h)
    | _ => true)

/-- A DATA payload is written to its target (R46, R394). -/
def Dev.dataWrite (d : Dev) (a : Nat) (bs : List W8) : Dev :=
  if d.dataClass a = 4 then
    let ws := bytesToWords bs
    { d with mem := { d.mem with prog := ((List.range ws.length).zip ws).foldl (fun m kw =>
        m.set 0 ((a - 0xC000000) / 2 + kw.1) (kw.2.v.truncate 14)) d.mem.prog } }
  else d.storeWords a (bytesToWords bs)

/-- The entries of a SETUP payload, `n` of them: set-up offset and value. -/
def setupEntries (bs : List W8) (n : Nat) : List (Nat × W32) :=
  (List.range n).map (fun k => (le32 bs (8 * k), BitVec.ofNat 32 (le32 bs (8 * k + 4))))

/-- What has arrived of the image is taken section by section; `n` bounds them. A DATA section for a domain that still wakes
waits. -/
def Dev.bootFeed (d : Dev) : Nat → Dev
  | 0 => d
  | n + 1 =>
    let b := d.top.boot
    let show_ := fun (st : Nat) (d : Dev) => if b.src = 2 then d else d.bootState st
    match b.phase with
    | .header =>
      if b.bytes.length < 256 then d
      else match headerCheck (b.bytes.take 256) (b.src == 0) with
        | 0 => (show_ 2 (d.updBoot (fun b => { b with phase := .load, pos := 256 }))).bootFeed n
        | c => d.bootFail c
    | .load =>
      let len := le32 b.bytes 8
      if b.bytes.length < b.pos + 16 then (if len < b.pos + 16 then d.bootFail 3 else d)
      else match sectionAt b.bytes b.pos with
        | none => d.bootFail 3
        | some s =>
          let body := (b.bytes.drop (b.pos + 16)).take s.len
          let next := b.pos + s.size
          if len < next ∨ (s.kind = 15 ∧ next ≠ len) then d.bootFail 3
          else if b.bytes.length < next then d
          else if !allZero ((b.bytes.drop (b.pos + 16 + s.len)).take (s.size - 16 - s.len)) then d.bootFail 3
          else
            let step := fun (f : BootSt → BootSt) (d : Dev) => d.updBoot (fun b => f { b with pos := next })
            match s.kind with
            | 1 =>
              if s.len = 0 then (step id d).bootFeed n
              else if d.dataClass s.addr = 0 ∨ d.dataClass s.addr ≠ d.dataClass (s.addr + s.len - 1) then d.bootFail 3
              else if !d.dataOn s.addr s.len then d
              else (step id (d.dataWrite s.addr body)).bootFeed n
            | 2 => (step (fun b => { b with setups := b.setups ++ setupEntries body (s.len / 8) }) d).bootFeed n
            | 3 => if b.start.isSome then d.bootFail 3 else (step (fun b => { b with start := some s.mask }) d).bootFeed n
            | _ => (step (fun b => { b with ended := true, phase := .verify }) d).bootState 3
    | _ => d

/-- Sections that may lie in what has arrived. -/
def Dev.bootRun (d : Dev) : Dev := d.bootFeed (d.top.boot.bytes.length / 16 + 2)

/-- A boot from the host asks for the next bytes of the image: one link read at a time, of the header and then of up to 512 bytes, from
the host address `TOP.BOOT_SRC` on (R391). -/
def Dev.bootRead (d : Dev) : Dev :=
  let b := d.top.boot
  let n := b.bytes.length
  let len := min 512 ((if b.phase = .header then 256 else le32 b.bytes 8) - n)
  if b.src ≠ 1 ∨ ¬ (b.phase = .header ∨ b.phase = .load) ∨ b.reading ∨ b.got.isSome ∨ len = 0 then d
  else if !d.linkUp then d.bootGot []
  else match d.hostRead .boot ((d.rd .topBootSrcHi).append (d.rd .topBootSrcLo) + BitVec.ofNat 64 n) len with
    | some (_, d1) => d1.updBoot (fun b => { b with reading := true })
    | none => d

/-- Bytes of the image arrive; none, the source reports an error. -/
def Dev.bootBytes (d : Dev) (data : List W8) : Dev :=
  if data = [] then d.bootFail 7 else (d.updBoot (fun b => { b with bytes := b.bytes ++ data })).bootRun

/-- `BOOT_SECTION` (R394): bytes arrive, from the flash `data`, from the host those of the link read that has ended, and the next read is
made. -/
def execBootSection (data : Bytes) (s : State) : Host.Outcome State Fault Refusal :=
  s.onDev (fun d =>
    let b := d.top.boot
    if b.src = 2 ∨ ¬ (b.phase = .header ∨ b.phase = .load) then d
    else if b.src = 0 then d.bootBytes data
    else match b.got with
      | some bs => ((d.updBoot (fun b => { b with got := none })).bootBytes bs).bootRead
      | none => d.bootRead)

/-- A write of BOOT_DATA (R391, R396): four bytes of a streamed image, bits [7:0] first; the Bool says that it is not refused. -/
def Dev.bootData (d : Dev) (v : W32) : Dev × Bool :=
  let b := d.top.boot
  if b.src = 2 ∧ (b.phase = .header ∨ b.phase = .load) then
    ((d.updBoot (fun b => { b with bytes := b.bytes ++ (Crypto.toBe 4 v.toNat).reverse, since := d.time.tick })).bootRun, true)
  else (d, d.bootStateNo = 6 ∨ d.bootStateNo = 7)

/-- A write of BOOT_CMD with GO in WAIT or FAILED (R396): the boot starts again from SRC. In WAIT for the host with the link
ACTIVE, SRC 0b01 starts the reading (R390). -/
def Dev.bootCmd (d : Dev) (src : Nat) : Dev :=
  let b := d.top.boot
  let d1 := d.updBoot (fun b => { b with left := [] })
  if src = 1 ∧ b.phase = .wait ∧ d.linkUp then
    ((d1.updBoot (fun b => { b with phase := .header, bytes := [], pos := 0 })).bootState 1).bootRead
  else d1.bootSource src false

/-- `BOOT_TIMEOUT` (R396): ten seconds of waiting. -/
def execBootTimeout (s : State) : Host.Outcome State Fault Refusal :=
  s.onDev (fun d => if d.bootStateNo = 6 ∧ d.top.boot.since + usTicks 10000000 ≤ d.time.tick then d.bootFail 8 else d)

/-! ### The start of a boot (R389–R391) -/

/-- `RESET_RELEASE` (R389, R391): BOOT_SEL is sampled, the fuses are read, and the sequencer waits for the root PLL. -/
def execResetRelease (bootSel : BitVec 2) (s : State) : Host.Outcome State Fault Refusal :=
  s.onDev (fun d =>
    if !d.top.inReset ∨ d.top.porHold then d
    else
      let d1 := d.setBit .clkStatus 0 0 1 true
      { d1 with top := { d1.top with
          inReset := false,
          boot := { BootSt.init with phase := .pll, strap := bootSel.toNat, released := d.time.tick, fuses := s.fuses,
                                     left := if bootSel = 3 then [1] else [] } } })

/-- `ROOT_PLL_LOCK` (R391 steps 2 to 4): power-on with CLEAR is requested for G0–G7 and H0–H15, and the first source taken. -/
def execRootPllLock (s : State) : Host.Outcome State Fault Refusal :=
  s.onDev (fun d =>
    if d.top.inReset then d
    else
      let d1 := d.setBit .clkStatus 0 0 0 true
      if d1.top.boot.phase ≠ .pll then d1
      else
        let gran := (List.range 8).map domGran
        let hths := (List.range 16).map domHearth
        let d2 := (gran ++ hths).foldl (fun d k => d.pwrQueue ⟨k, true, false, true⟩) d1
        let sel := d2.top.boot.strap
        d2.bootSource (if sel = 1 then 1 else if sel = 2 then 2 else 0) false)

/-! ### Domains that turn on (R398) -/

/-- A larder or a granary bank is filled with PLAIN zero. -/
def Dev.clearDomain (d : Dev) (dom : Nat) : Dev :=
  let span : Nat × Nat := if dom < 18 then ((0x4000000 + (dom - 2) * 0x80000) / 2, 0x40000) else ((dom - 18) * 0x200000, 0x200000)
  if 2 ≤ dom ∧ dom < 26 then { d with mem := d.mem.fill span.1 (span.1 + span.2) true } else d

/-- The boot waits for the host's commands over the link (R390). -/
def Dev.bootWaitsHost (d : Dev) : Bool := d.top.boot.phase == .wait && d.top.boot.src == 1

/-- The channel of a domain that turns ON trains again, failed or not (R285). -/
def Dev.mcWake (d : Dev) (dom : Nat) : Dev :=
  if 34 ≤ dom ∧ dom < 38 then d.setBit .memMcStatus (dom - 34) 0 30 false else d

/-- A domain that wakes turns ON, filled if CLEAR asked for it; the boot enables the link that it waits for (R390), and
writes the section that waited for the domain. -/
def Dev.turnOn (d : Dev) (dom : Nat) : Dev :=
  let d0 := if d.top.fill.get false dom then d.clearDomain dom else d
  let d1 := { d0 with top := { d0.top with fill := d0.top.fill.set false dom false } }
  let d2 := (((d1.setDom dom 2).mcWake dom)).blwPowerResume
  let d3 := if dom == domLink && d2.bootWaitsHost then d2.bootLink else d2
  ((d3.pwrResult dom 1).pwrAdvance d3.top.pwrq.length).bootRun

/-- The fill that a wake with CLEAR makes takes, in TICKCLK (R398). -/
def fillTicks (dom : Nat) : Nat := if dom < 18 then 550 else if dom < 26 then 6550 else 0

/-- `DOMAIN_ON` (R398): not before its store is filled. -/
def execDomainOn (dom : Fin 40) (s : State) : Host.Outcome State Fault Refusal :=
  s.onDev (fun d =>
    if d.domState dom ≠ 1 ∨ (d.top.fill.get false dom ∧ d.time.tick < d.top.woke.get 0 dom + fillTicks dom) then d else d.turnOn dom)

end Sys2Proof.Machine
end

