-- ==== Sys2Proof/Machine/Mills.lean ====
section
/-!
DEFINITION. The mills: keys, tables and actions of the stones (R187–R197), the update port (R198–R201, R217–R220), Qci
(R202–R204), FRER recovery (R205), and learning (R207–R223).
-/
namespace Sys2Proof.Machine

open Sys2Proof.Crypto

/-! ### Stones (R189–R192) -/

def Dev.stoneEn (d : Dev) (m s : Nat) : Bool := d.bit .milStoneCfg m s 31
/-- 0 exact, 1 ternary, 2 prefix. -/
def Dev.stoneKind (d : Dev) (m s : Nat) : Nat := d.fld .milStoneCfg m s 29 28
def Dev.keyLen (d : Dev) (m s : Nat) : Nat := d.fld .milStoneCfg m s 20 16
/-- Address words and bits of a prefix stone. -/
def Dev.addrWords (d : Dev) (m s : Nat) : Nat := if d.bit .milStoneCfg m s 27 then 8 else 2
/-- Mask of key word `i` of a stone. -/
def Dev.stoneMask (d : Dev) (m s i : Nat) : W16 :=
  let v := d.rd .milStoneMask m (s * 10 + i / 2)
  if i % 2 = 0 then hi16 v else lo16 v
/-- Selector of key word `i` of a stone. -/
def Dev.stoneSel (d : Dev) (m s i : Nat) : Nat :=
  let n := i % 4
  d.fld .milStoneSel m (s * 5 + i / 4) (8 * n + 7) (8 * n)

/-- The source word of a selector (R189). -/
def Parse.source (p : Parse) (metas : List W16) (sel : Nat) : W16 :=
  if sel < 0x30 then p.fv.getD sel 0
  else if sel < 0x34 then metas.getD (sel - 0x30) 0
  else if sel = 0x34 then hi16 p.pm
  else if sel = 0x35 then lo16 p.pm
  else p.hdrs.getD (sel - 0x36) 0

/-- The masked key of a stone for a frame. -/
def Dev.stoneKey (d : Dev) (m s : Nat) (p : Parse) (metas : List W16) : List W16 :=
  (List.range (d.keyLen m s)).map (fun i => p.source metas (d.stoneSel m s i) &&& d.stoneMask m s i)

/-! ### Hash memory (R190, R209, R210) -/

def Dev.hashWord (d : Dev) (m a : Nat) : W16 := (d.mill m).hash.get 0 a
def Dev.hashWords (d : Dev) (m a n : Nat) : List W16 := (List.range n).map (fun k => d.hashWord m (a + k))
def Dev.setHash (d : Dev) (m a : Nat) (ws : List W16) : Dev :=
  let x := d.mill m
  d.setMill m { x with hash := ((List.range ws.length).zip ws).foldl (fun h kw => h.set 0 (a + kw.1) kw.2) x.hash }

/-- Where a stone's bank lies: base line, number of buckets, key words stored in an entry, and lines of an entry. -/
structure Table where
  base : Nat
  buckets : Nat
  words : Nat
  lines : Nat
deriving DecidableEq, Repr

def Dev.table (d : Dev) (m s : Nat) (b : Bool) : Table :=
  let r := d.rd .milStoneRegion m (s * 2 + (if b then 1 else 0))
  let words := d.keyLen m s + (if d.stoneKind m s = 2 then 1 else 0)
  { base := bits r 27 16 * 64, buckets := 2 ^ bits r 4 0, words := words, lines := (words + 7) / 8 + 2 }

/-- The word address of place `j` of bucket `b`, and of its action block. -/
def Table.place (t : Table) (b j : Nat) : Nat := (t.base + (b * 4 + j) * t.lines) * 8
def Table.block (t : Table) (b j : Nat) : Nat := t.place b j + (t.lines - 2) * 8

/-- The two buckets of a key (R209). -/
def Dev.bucketsOf (d : Dev) (m : Nat) (t : Table) (key : List W16) : Nat × Nat :=
  let bs := key.flatMap (fun (w : W16) => [((w >>> (8 : Nat)).truncate 8 : W8), w.truncate 8])
  let b1 := crc32cRun 0xFFFFFFFF bs % 65536 % t.buckets
  let b2 := crc32cRun (d.rd .milHashSeed m).toNat bs / 65536 % t.buckets
  (b1, if b2 = b1 then b1 ^^^ 1 else b2)

/-- A place holds a valid entry. -/
def Dev.placeValid (d : Dev) (m : Nat) (t : Table) (b j : Nat) : Bool := (d.hashWord m (t.block b j)).getLsbD 15
/-- The stored key of a place. -/
def Dev.placeKey (d : Dev) (m : Nat) (t : Table) (b j : Nat) : List W16 := d.hashWords m (t.place b j) t.words
/-- The place of a bucket that holds a key. -/
def Dev.inBucket (d : Dev) (m : Nat) (t : Table) (key : List W16) (b : Nat) : Option (Nat × Nat) :=
  ((List.range 4).find? (fun j => d.placeValid m t b j && d.placeKey m t b j == key)).map (fun j => (b, j))
/-- The place that holds a key (R210). -/
def Dev.findKey (d : Dev) (m : Nat) (t : Table) (key : List W16) : Option (Nat × Nat) :=
  let (b1, b2) := d.bucketsOf m t key
  match d.inBucket m t key b1 with
  | some x => some x
  | none => d.inBucket m t key b2

/-- A key whose last `aw` words keep their first `len` bits, with the length as one more word (R192, R209). -/
def prefixKey (aw len : Nat) (key : List W16) : List W16 :=
  let n := key.length - aw
  let addr := ((List.range aw).zip (key.drop n)).map (fun kw =>
    let keep := min 16 (len - 16 * kw.1)
    kw.2 &&& w16 (65536 - 2 ^ (16 - keep)))
  key.take n ++ addr ++ [w16 len]

/-- The longest prefix that matches, from length `len` down. -/
def Dev.findPrefix (d : Dev) (m : Nat) (t : Table) (aw : Nat) (key : List W16) : Nat → Option (Nat × Nat)
  | 0 => d.findKey m t (prefixKey aw 0 key)
  | len + 1 =>
    match d.findKey m t (prefixKey aw (len + 1) key) with
    | some x => some x
    | none => d.findPrefix m t aw key len

/-! ### Lookup -/

/-- A block's word address in hash memory, whether it is a hit, and the entry index of log records. -/
structure Hit where
  addr : Nat
  hit : Bool
  index : Nat
deriving DecidableEq, Repr

def tcamBlock (i : Nat) : Nat := (0x38000 + i * 2) * 8
def missBlock (s : Nat) (b : Bool) : Nat := (0x3C400 + (s * 2 + (if b then 1 else 0)) * 2) * 8

/-- A TCAM entry matches a key extended with zeros (R191). -/
def Tcam.hits (t : Tcam) (key : List W16) : Bool :=
  t.valid && (List.range 20).all (fun i => (key.getD i 0 ^^^ t.value.getD i 0) &&& t.mask.getD i 0 == 0)

/-- The result of a stone's lookup. -/
def Dev.lookup (d : Dev) (m s : Nat) (b : Bool) (key : List W16) : Hit :=
  let t := d.table m s b
  let miss : Hit := ⟨missBlock s b, false, 0⟩
  let of := fun (x : Option (Nat × Nat)) => match x with
    | some (bk, j) => (⟨t.block bk j, true, bk * 4 + j⟩ : Hit)
    | none => miss
  match d.stoneKind m s with
  | 0 => of (d.findKey m t key)
  | 1 =>
    let r := d.rd .milStoneRegion m (s * 2 + (if b then 1 else 0))
    let lo := bits r 29 16
    let n := bits r 13 0
    match (d.mill m).tcam.entries.find? (fun e => decide (lo ≤ e.1 ∧ e.1 < lo + n) &&
        (match e.2 with | some x => x.hits key && (d.hashWord m (tcamBlock e.1)).getLsbD 15 | none => false)) with
    | some e => ⟨tcamBlock e.1, true, e.1⟩
    | none => miss
  | _ =>
    let aw := d.addrWords m s
    of (d.findPrefix m t aw key (16 * aw))

/-! ### Actions (R193, R194) -/

/-- Bits of word `n` of an action block. -/
def ab (a : List W16) (n hi lo : Nat) : Nat := (a.getD n 0).toNat / 2 ^ lo % 2 ^ (hi + 1 - lo)
def abit (a : List W16) (n b : Nat) : Bool := (a.getD n 0).getLsbD b

/-- The stream filter, recovery instance and stream budget that a block names are enabled. -/
def Dev.filterOf (d : Dev) (m f : Nat) : W32 × W32 := (d.mill m).filters.get (0, 0) f
def Recov.init : Recov := ⟨0, 0, true, 0, [], 0, List.replicate 7 0⟩
def Dev.recov (d : Dev) (i : Nat) : Recov := d.mil.recov.get Recov.init i
def Dev.setRecov (d : Dev) (i : Nat) (x : Recov) : Dev :=
  { d with mil := { d.mil with recov := d.mil.recov.set Recov.init i x } }
def Dev.budget (d : Dev) (m i : Nat) : Nat := (d.mill m).streams.get 0 i

/-- A block that stone `s` read is reserved (R194). -/
def Dev.blockRsv (d : Dev) (m s : Nat) (a : List W16) : Bool :=
  let next := ab a 0 11 8
  decide (5 ≤ ab a 0 14 12) || decide (9 ≤ next) || decide (0 < next ∧ next < 8 ∧ next ≤ s)
  || ab a 1 14 12 != 0 || (!abit a 1 15 && ab a 1 11 5 != 0) || ab a 2 15 14 != 0 || ab a 3 15 10 != 0
  || (ab a 0 14 12 == 4 && ab a 3 9 5 != 0) || ab a 4 15 3 != 0 || ab a 6 15 9 != 0 || ab a 8 15 12 != 0
  || ab a 9 15 9 != 0 || ab a 10 15 4 != 0 || ab a 15 13 9 != 0
  || (abit a 0 1 && d.budget m (ab a 9 8 0) == 0)
  || (abit a 0 0 && !(d.filterOf m (ab a 6 8 0)).1.getLsbD 31)
  || (abit a 15 14 && !(d.recov (ab a 15 8 0)).d0.getLsbD 31)

/-- Stone counter `i` takes one frame of a length. -/
def Dev.stoneCount (d : Dev) (m i len : Nat) : Dev :=
  let a := (0x30000 + i) * 8
  let rd := fun (k : Nat) => (d.hashWords m (a + k) 4).foldl (fun n (w : W16) => n * 65536 + w.toNat) 0
  let put := fun (n : Nat) => [w16 (n / 2 ^ 48), w16 (n / 2 ^ 32), w16 (n / 65536), w16 n]
  d.setHash m a (put (rd 0 + 1) ++ put (rd 4 + len))

/-! ### Qci (R203, R204) -/

def Gate.init : Gate := ⟨Map.empty, 0, 0, 0, false, none, 0, none, none⟩
def Meter.init : Meter := ⟨[], 0, 0, 0, false⟩
def Dev.gate (d : Dev) (m g : Nat) : Gate := (d.mill m).gates.get Gate.init g
def Dev.setGate (d : Dev) (m g : Nat) (x : Gate) : Dev :=
  d.setMill m { d.mill m with gates := (d.mill m).gates.set Gate.init g x }

/-- The entry of a gate list that holds `pos` ns into its cycle; the last one holds to the end. -/
def gateEntry (pos : Nat) : List (Nat × Bool × Option Nat) → Bool × Option Nat
  | [] => (true, none)
  | [(_, s)] => s
  | (n, s) :: r => if pos < n then s else gateEntry (pos - n) r

/-- The state of a list at a time. -/
def GateList.at_ (l : GateList) (ts : Nat) : Bool × Option Nat :=
  gateEntry (if l.cycle = 0 then 0 else (ts - l.base) % l.cycle) l.entries

/-- The state of a gate at an arrival timestamp: the list then operational, or the initial state. -/
def Gate.state (g : Gate) (ts : Nat) : Bool × Option Nat :=
  let initial := (g.hdr.getLsbD 28, if g.hdr.getLsbD 27 then some (bits g.hdr 26 24) else none)
  let l := if g.operAt ≤ ts then g.oper else g.prev
  if !g.hdr.getLsbD 30 then (true, none)
  else if g.closed then (false, none)
  else match l with
    | some x => x.at_ ts
    | none => initial

/-- The colours of a meter. -/
inductive Colour where
  | green | yellow | red
deriving DecidableEq, Repr

/-- A meter runs on a frame of `len` bytes at a time (R203); the buckets are in 2^-10 bytes. -/
def Meter.run (x : Meter) (len : Nat) (ts : W64) : Colour × Meter :=
  let w := fun (k : Nat) => x.cfg.getD k 0
  let l := (len + 4) * 1024
  let dt := ts.toNat - x.last.toNat
  let last := if x.last.toNat ≤ ts.toNat then ts else x.last
  let add := bits (w 0) 21 0 * dt * 1024 / 1000000
  let cbs := bits (w 2) 23 0 * 1024
  let o := x.c + add - cbs
  let c := min cbs (x.c + add)
  let e := min (bits (w 3) 23 0 * 1024) (x.e + bits (w 1) 21 0 * dt * 1024 / 1000000 + (if (w 4).getLsbD 30 then o else 0))
  let y := { x with c := c, e := e, last := last }
  if x.red then (.red, y)
  else if l ≤ c then (.green, { y with c := c - l })
  else if l ≤ e then (.yellow, { y with e := e - l })
  else (.red, { y with red := (w 4).getLsbD 28 })

/-- Stream filter counter `k` of filter `f` counts. -/
def Dev.filterCount (d : Dev) (m f k : Nat) : Dev :=
  d.setMill m { d.mill m with fcounts := (d.mill m).fcounts.upd 0 (f * 8 + k) (· + 1) }

/-- The verdict being composed (R195): class (none undecided), and what the stones have set. -/
structure Verdict where
  cls : Option Nat
  ports : W32
  queue : W16
  aux : Nat
  tclass : Nat
  flow : Option W16
  dom : Option Nat
  strm : Option Nat
  sf : Option Nat
  rcv : Option Nat
  metas : List W16
deriving DecidableEq, Repr

/-- A filter's step 4 on a frame that its gate let pass. -/
def Dev.meterStep (d : Dev) (m f : Nat) (v : Verdict) (len : Nat) (ts : W64) : Bool × Verdict × Dev :=
  let (d0, d1r) := d.filterOf m f
  let k := bits d1r 9 0
  let x := (d.mill m).meters.get Meter.init k
  let c4 := x.cfg.getD 4 0
  if !d0.getLsbD 25 ∨ !c4.getLsbD 31 then (false, v, d.filterCount m f 1)
  else
    let (col, y) := x.run len ts
    let d1 := d.setMill m { d.mill m with meters := (d.mill m).meters.set Meter.init k y }
    match col with
    | .green => (false, v, d1.filterCount m f 1)
    | .yellow =>
      if c4.getLsbD 29 then (true, v, d1.filterCount m f 4)
      else
        let mark := d1.bit .milQciCtrl m 0 8
        (false, if mark then { v with metas := v.metas.set 3 (v.metas.getD 3 0 ||| 0x8000) } else v, d1.filterCount m f 1)
    | .red => (true, v, d1.filterCount m f 4)

/-- A stream filter acts on a frame (R203): whether it drops it, with the verdict and device after. -/
def Dev.qci (d : Dev) (m f : Nat) (p : Parse) (v : Verdict) (len : Nat) (ts : W64) : Bool × Verdict × Dev :=
  let (d0, d1r) := d.filterOf m f
  let prio := (p.fv.getD (d.fld .milQciCtrl m 0 5 0) 0).toNat / 8192
  if !d0.getLsbD 30 ∧ bits d0 29 27 ≠ prio then (false, v, d)
  else
    let d1 := d.filterCount m f 0
    let sdu := bits d0 13 0
    let big := decide (sdu ≠ 0 ∧ sdu < len)
    if d1r.getLsbD 31 ∨ big then
      let d2 := if big ∧ d0.getLsbD 26 then
          d1.setMill m { d1.mill m with filters := (d1.mill m).filters.set (0, 0) f (d0, d1r ||| 0x80000000) }
        else d1
      (true, v, d2.filterCount m f 3)
    else if d0.getLsbD 24 then
      let g := bits d0 23 17
      let x := d1.gate m g
      match x.state ts.toNat with
      | (false, _) =>
        let d2 := if x.hdr.getLsbD 31 then d1.setGate m g { x with closed := true } else d1
        (true, v, d2.filterCount m f 2)
      | (true, ipv) =>
        let v1 := match ipv with
          | some i =>
            { v with tclass := i, queue := if d1.bit .milQciCtrl m 0 9 then (v.queue &&& 0xFFF8) ||| w16 i else v.queue }
          | none => v
        d1.meterStep m f v1 len ts
    else d1.meterStep m f v len ts

/-- `QCI_GATE_CHANGE` (R204): at its change instant the committed list becomes operational. -/
def execQciGateChange (m : Fin 4) (gate : Fin 128) (s : State) : Host.Outcome State Fault Refusal :=
  s.onDev (fun d =>
    let x := d.gate m gate
    match x.next with
    | some (t, l) =>
      if t ≤ d.time.ns.toNat then d.setGate m gate { x with prev := x.oper, oper := some l, operAt := t, next := none }
      else d
    | none => d)

/-! ### FRER recovery (R205; the algorithm is the vector recovery of IEEE 802.1CB, PRESUMED) -/

def Recov.bump (x : Recov) (k n : Nat) : Recov :=
  { x with counts := x.counts.set k (x.counts.getD k 0 + BitVec.ofNat 64 n) }
def Recov.histLen (x : Recov) : Nat := bits x.d0 29 23
/-- The history moves by one: a number that leaves it unseen is lost. -/
def Recov.shift (x : Recov) (b : Bool) : Recov :=
  let lost := if x.hist.getD (x.histLen - 1) false then 0 else 1
  { x.bump 4 lost with hist := (b :: x.hist).take x.histLen }
def Recov.shiftMany (x : Recov) : Nat → Recov
  | 0 => x
  | 1 => x.shift true
  | n + 2 => (x.shift false).shiftMany (n + 1)

/-- A frame with a sequence number: whether it passes. -/
def Recov.take (x : Recov) (q tick : Nat) : Bool × Recov :=
  let n := x.histLen
  let fwd := (q + 65536 - x.seqNo) % 65536
  let back := (x.seqNo + 65536 - q) % 65536
  let pass := fun (y : Recov) => (true, { y.bump 0 1 with since := tick })
  if x.takeAny then pass { x with takeAny := false, seqNo := q, hist := true :: List.replicate (n - 1) false }
  else if fwd < 32768 ∧ 0 < fwd then
    if n ≤ fwd then (false, (x.bump 3 1).bump 1 1)
    else pass { (if fwd = 1 then x else x.bump 2 1).shiftMany fwd with seqNo := q }
  else if n ≤ back then (false, (x.bump 3 1).bump 1 1)
  else if x.hist.getD back false then (false, x.bump 1 1)
  else pass ({ x with hist := x.hist.set back true }.bump 2 1)

/-- Recovery instance `i` takes a frame: whether it discards it. -/
def Dev.recover (d : Dev) (i : Nat) (p : Parse) : Bool × Dev :=
  let x := d.recov i
  if p.pm.getLsbD (bits x.d1 4 0) then
    let (ok, y) := x.take (p.fv.getD (bits x.d1 13 8) 0).toNat d.time.tick
    (!ok, d.setRecov i y)
  else
    let y := x.bump 5 1
    if x.d0.getLsbD 30 then (false, d.setRecov i { y.bump 0 1 with since := d.time.tick })
    else (true, d.setRecov i (y.bump 1 1))

/-- `RCV_TIMEOUT`: no frame has passed for TIMEOUT ms. -/
def execRcvTimeout (i : Fin 512) (s : State) : Host.Outcome State Fault Refusal :=
  s.onDev (fun d =>
    let x := d.recov i
    if x.d0.getLsbD 31 ∧ !x.takeAny ∧ x.since + bits x.d0 15 0 * 100000 ≤ d.time.tick then
      d.setRecov i ({ x with takeAny := true, hist := [] }.bump 6 1)
    else d)

/-! ### Learning (R207–R215, R221–R223) -/

/-- The learning stone of mill `m` (R207). -/
def Dev.learnStone (d : Dev) (m : Nat) : Option Nat :=
  let s := d.fld .milLearn m 0 30 28
  if d.stoneKind m s = 0 ∧ d.keyLen m s ≤ 4 then some s else none

/-- The granary bit of place `n` in an activity bitmap is set (R222). -/
def Dev.setActivity (d : Dev) (m : Nat) (sel : Bool) (n : Nat) : Dev :=
  if !d.bit .milLearn m 0 25 then d else
  let pa := d.fld .milActBase m (if sel then 1 else 0) 24 6 * 64 + n / 16 * 2
  if d.memOk pa then
    let old := d.peekWord pa
    if old.isRef then d
    else { d with mem := d.mem.put (pa / 2) { old with v := old.v ||| BitVec.ofNat 16 (2 ^ (n % 16)) } }
  else d

/-- Gossip records that the ring of mill `m` has room for, those waiting counted. -/
def Dev.gossipRoom (d : Dev) (m : Nat) : Bool :=
  let n := 2 ^ d.fld .milGossipCfg m 0 8 4
  let free := (d.fld .milGossipCons m 0 15 0 + 2 * 65536 * n - d.fld .milGossipProd m 0 15 0 - 1) % n
  let x := d.mill m
  d.bit .milGossipCfg m 0 0 && decide (x.gossip.length + (if 0 < x.gossipLost then 1 else 0) < free)

/-- The ring of mill `m` takes a record now: it is on and not full (R214, R215). -/
def Dev.gossipTakes (d : Dev) (m : Nat) : Bool :=
  let n := 2 ^ d.fld .milGossipCfg m 0 8 4
  d.bit .milGossipCfg m 0 0 && (d.fld .milGossipProd m 0 15 0 + 1) % n != d.fld .milGossipCons m 0 15 0 % n

/-- Word 0 of a gossip record: its kind, the mill, and the bank and number of a stone (R214). -/
def gossipHead (kind m : Nat) (b : Bool) (stone : Nat) : W16 :=
  w16 (kind * 4096 + m * 1024 + (if b then 512 else 0) + stone * 64)

/-- The record of lost gossip. Its stone is MIL.LEARN.STONE with that stone's bank as it is at the write, and its words 1, 6 and 7 are zero
(DESIGN CHOICE, notes/assumptions/48.md: the layout gives them for a record of one sighting). -/
def Dev.lostGossip (d : Dev) (m n : Nat) : List W16 :=
  let s := d.fld .milLearn m 0 30 28
  [gossipHead 15 m (d.bit .milBank m 0 s) s, 0, w16 (n / 65536), w16 n, 0, 0, 0, 0]

/-- A sighting posts a record and changes the filter, unless it is throttled or finds no room (R211, R215). -/
def Dev.postGossip (d : Dev) (m kind : Nat) (old : Option Nat) (s : Nat) (b : Bool) (stone : Nat) (key : List W16)
    (ts : W32) (ctr : CtrKind) : Dev :=
  let x := d.mill m
  let win := d.millclk / 1024
  let inWin := if x.window = win then x.inWindow else 0
  let limit := d.fld .milLearn m 0 23 16
  if limit ≠ 0 ∧ limit ≤ inWin then d.count .milGossipThrottled m
  else if !d.gossipRoom m then
    (d.setMill m { x with gossipLost := min (x.gossipLost + 1) 0xFFFFFFFF }).count .milGossipLost m
  else
    let rec8 := [gossipHead kind m b stone,
      w16 ((match old with | some o => 0x8000 + o * 256 | none => 0) + s),
      key.getD 0 0, key.getD 1 0, key.getD 2 0, key.getD 3 0, hi16 ts, lo16 ts]
    let lost := if 0 < x.gossipLost then [Gossip.lost x.gossipLost] else []
    let e : Sighted := ⟨key, s, d.time.tick⟩
    let rest := x.seen.filter (fun y => y.key != key)
    let seen := (if 256 ≤ rest.length then rest.drop 1 else rest) ++ [e]
    let out := x.seen.filter (fun y => !seen.contains y)
    (d.setMill m { x with gossip := x.gossip ++ lost ++ [.sighting rec8 e out], gossipLost := 0, window := win,
                          inWindow := inWin + 1, seen := seen }).count ctr m

/-- The source lookup of a frame in the learning stone (R208, R211, R222). -/
def Dev.sourceLookup (d : Dev) (m stone : Nat) (x : MillFrame) (p : Parse) (metas : List W16) : Dev :=
  let src := x.rx.src
  let n := d.keyLen m stone
  let sel := fun (i : Nat) => d.fld .milLearnSel m 0 (8 * i + 7) (8 * i)
  let key := (List.range n).map (fun i => p.source metas (sel i) &&& d.stoneMask m stone i)
  if !d.bit .milLearn m 0 31 ∨ 32 ≤ src ∨ !d.bit .milLearnPorts m 0 src then d
  else if (key.getD 0 0).getLsbD 8 then d.count .milLearnGroup m
  else
    let b := x.bank.getLsbD stone
    let t := d.table m stone b
    let ts : W32 := x.rx.ts.truncate 32
    let place := d.findKey m t key
    let d1 := match place with
      | some (bk, j) => d.setActivity m x.actSel (bk * 4 + j)
      | none => d
    let a1 := place.map (fun bj => d.hashWord m (t.block bj.1 bj.2 + 1))
    let seen := ((d.mill m).seen.find? (fun e => e.key == key)).map Sighted.port
    match a1, seen with
    | some a, none =>
      if a.getLsbD 15 ∨ a.toNat % 32 = src then d1
      else d1.postGossip m 2 (some (a.toNat % 32)) src b stone key ts .milGossipMoved
    | none, none => d1.postGossip m 1 none src b stone key ts .milGossipNew
    | some a, some q =>
      if a.getLsbD 15 ∨ a.toNat % 32 = src then d1
      else if q = src then d1.count .milGossipFiltered m
      else d1.postGossip m 3 (some q) src b stone key ts .milGossipMove
    | none, some q =>
      if q = src then d1.count .milGossipFiltered m
      else d1.postGossip m 3 (some q) src b stone key ts .milGossipMove

/-- A valid entry of the failed list holds a key. -/
def Dev.failedAt (d : Dev) (m : Nat) (key : List W16) : Option Nat :=
  (List.range 16).find? (fun i => d.bit .milFailqValid m i 31 &&
    decide (d.rd .milFailqKey01 m i = join16 (key.getD 0 0) (key.getD 1 0) ∧
            d.rd .milFailqKey23 m i = join16 (key.getD 2 0) (key.getD 3 0)))

/-- A destination miss in the learning stone (R221). -/
def Dev.floodCount (d : Dev) (m : Nat) (key : List W16) : Dev :=
  if (key.getD 0 0).getLsbD 8 then d else
  let d1 := d.count .milFloodUcast m
  match d1.failedAt m key with
  | some i =>
    (d1.wr .milFailqCount m i (BitVec.ofNat 32 (min ((d1.rd .milFailqCount m i).toNat + 1) 0xFFFFFFFF))).count .milFloodFailed m
  | none => d1

/-- The ring's next record is written, PROD advances, and the mill's event is raised (R214). -/
def Dev.gossipPut (d : Dev) (m : Nat) (ws : List W16) : Dev :=
  let prod := d.fld .milGossipProd m 0 15 0 % 2 ^ d.fld .milGossipCfg m 0 8 4
  let base := d.fld .milGossipBaseHi m 0 3 0 * 2 ^ 32 + (d.rd .milGossipBaseLo m).toNat / 16 * 16
  let next := (prod + 1) % 2 ^ d.fld .milGossipCfg m 0 8 4
  let d1 := (d.agentStore (base + prod * 16) (ws.map Word.plain)).1.setFld .milGossipProd m 0 15 0 next
  d1.raiseEvent (64 + m) (w16 next)

/-- A filter entry comes back at its place by age. -/
def seenAgain (l : List Sighted) (e : Sighted) : List Sighted :=
  l.filter (fun y => decide (y.at_ ≤ e.at_)) ++ e :: l.filter (fun y => !decide (y.at_ ≤ e.at_))

/-- The entries that a record's sighting took from the filter, changed. -/
def Gossip.mapOut (f : List Sighted → List Sighted) : Gossip → Gossip
  | .sighting ws put out => .sighting ws put (f out)
  | .lost n => .lost n

/-- The sighting of the record has taken an entry from the filter. -/
def Gossip.took (e : Sighted) : Gossip → Bool
  | .sighting _ _ out => out.contains e
  | .lost _ => false

/-- A sighting whose record is lost after all has changed no filter entry (R215): the filter, and the records that wait behind it, as they
are without it. What it took comes back, or passes to the later sighting that took what it wrote; an entry of its own key that an INSERT or
DELETE has removed since stays away. -/
def unsee (seen : List Sighted) (put : Sighted) (out : List Sighted) (r : List Gossip) : List Sighted × List Gossip :=
  let back := fun (l : List Sighted) (es : List Sighted) =>
    let l1 := es.foldl seenAgain l
    l1.drop (l1.length - 256)
  if seen.contains put then (back (seen.filter (· != put)) out, r)
  else if r.any (Gossip.took put) then
    (seen, r.map (fun g => if g.took put then g.mapOut (fun o => o.filter (· != put) ++ out) else g))
  else (back seen (out.filter (fun e => e.key != put.key)), r)

/-- The oldest record that waits finds the ring full or off (R215): it is lost, and the LOST record that will tell of it takes its place.
A LOST record that finds the ring so waits, and takes up the record behind it. -/
def Dev.gossipLose (d : Dev) (m : Nat) : Dev :=
  let x := d.mill m
  let more := fun (k n : Nat) => min (k + n) 0xFFFFFFFF
  let lose := fun (k : Nat) (put : Sighted) (out : List Sighted) (r : List Gossip) =>
    let (seen, r1) := unsee x.seen put out r
    (d.setMill m { x with gossip := .lost (more k 1) :: r1, seen := seen }).count .milGossipLost m
  match x.gossip with
  | [] => d
  | .sighting _ put out :: r => lose 0 put out r
  | .lost k :: .sighting _ put out :: r => lose k put out r
  | .lost k :: .lost n :: r => d.setMill m { x with gossip := .lost (more k n) :: r }
  | [.lost _] => d

/-- The oldest record that waits is written, if the ring takes it. -/
def Dev.gossipNext (d : Dev) (m : Nat) : Dev :=
  let x := d.mill m
  match x.gossip with
  | [] => d
  | w :: r =>
    if !d.gossipTakes m then d.gossipLose m
    else (d.setMill m { x with gossip := r }).gossipPut m (match w with
      | .sighting ws _ _ => ws
      | .lost n => d.lostGossip m n)

/-- `GOSSIP_RECORD`: the oldest record that waits is written; one that finds the ring full or off is lost. -/
def execGossipRecord (m : Fin 4) (s : State) : Host.Outcome State Fault Refusal := s.onDev (·.gossipNext m)

/-- `GOSSIP_LOST_RECORD`: the LOST record, once the ring has room. One that waits in the place of a record is written by this too. -/
def execGossipLostRecord (m : Fin 4) (s : State) : Host.Outcome State Fault Refusal :=
  s.onDev (fun d =>
    let x := d.mill m
    match x.gossip with
    | [] =>
      if 0 < x.gossipLost ∧ d.gossipTakes m then
        (d.setMill m { x with gossipLost := 0 }).gossipPut m (d.lostGossip m x.gossipLost)
      else d
    | .lost _ :: _ => d.gossipNext m
    | .sighting _ _ _ :: _ => d)

/-- `FILTER_AGE_OUT` (R212): the oldest filter entry, once older than FILT_AGE. -/
def execFilterAgeOut (m : Fin 4) (s : State) : Host.Outcome State Fault Refusal :=
  s.onDev (fun d =>
    let x := d.mill m
    let age := d.fld .milLearn m 0 15 8 * 1600
    let young := fun (l : List Sighted) => l.filter (fun e => decide (d.time.tick - e.at_ ≤ age))
    d.setMill m { x with seen := young x.seen, gossip := x.gossip.map (Gossip.mapOut young) })

/-! ### The pass through the stones (R187, R188, R195) -/

/-- The pass of one frame: the verdict, the stone that runs next, the stage at which it was dropped, and the device. -/
structure Pass where
  v : Verdict
  next : Option Nat
  dropAt : Option Nat
  d : Dev

/-- The first enabled stone from `k` on. -/
def Dev.enabledFrom (d : Dev) (m k : Nat) : Option Nat := ((List.range 8).filter (fun s => k ≤ s)).find? (fun s => d.stoneEn m s)

/-- The set bits of A0 apply their components (R195). -/
def Dev.applyBlock (d : Dev) (m : Nat) (a : List W16) (v : Verdict) : Verdict :=
  let ports := if abit a 1 15 then
      let w := 0x3C000 * 8 + ab a 1 11 0 * 2
      join16 (d.hashWord m w) (d.hashWord m (w + 1))
    else BitVec.ofNat 32 (2 ^ ab a 1 4 0)
  { v with
    ports := if abit a 0 7 then ports else v.ports,
    queue := if abit a 0 6 then w16 (ab a 2 13 0) else v.queue,
    aux := if abit a 0 5 then ab a 3 9 0 else v.aux,
    tclass := if abit a 0 4 then ab a 4 2 0 else v.tclass,
    flow := if abit a 0 3 then some (a.getD 7 0) else v.flow,
    dom := if abit a 0 2 then some (ab a 8 11 0) else v.dom,
    strm := if abit a 0 1 then some (ab a 9 8 0) else v.strm,
    metas := (List.range 4).map (fun i => if abit a 10 i then a.getD (11 + i) 0 else v.metas.getD i 0) }

/-- Stone `s` runs on a frame. -/
def Pass.run (y : Pass) (m s : Nat) (x : MillFrame) (p : Parse) : Pass :=
  let len := x.rx.bytes.length
  let b := x.bank.getLsbD s
  let key := y.d.stoneKey m s p y.v.metas
  let hit := y.d.lookup m s b key
  let d0 := y.d.count (if hit.hit then .milStoneHits else .milStoneMisses) m s
  let d1 := if !hit.hit ∧ d0.learnStone m = some s then d0.floodCount m key else d0
  let a := d1.hashWords m hit.addr 16
  let d2 := if abit a 5 15 then d1.stoneCount m (ab a 5 14 0) len else d1
  let drop := fun (d : Dev) (v : Verdict) => ({ v := { v with cls := some 0 }, next := none, dropAt := some s, d := d } : Pass)
  if d1.blockRsv m s a then
    let d3 := d2.count .milRsvAction m
    let d4 := if abit a 15 15 then d3 else
      (d3.setHash m (hit.addr + 15) [a.getD 15 0 ||| 0x8000]).log4 0 6 0x06 m
        (w16 (s * 256 + (if b then 16 else 0))) (w16 hit.index) 0
    drop d4 y.v
  else
    let vop := ab a 0 14 12
    let v0 := if vop = 0 then y.v else { y.v with cls := some (vop - 1) }
    if vop = 1 then drop d2 v0
    else
      let v1 := d2.applyBlock m a v0
      let nxt := fun (d : Dev) =>
        let n := ab a 0 11 8
        if n = 8 then none else d.enabledFrom m (if n = 0 then s + 1 else n)
      let (bad, v2, d3) := if abit a 0 0 ∧ v1.sf = none then
          let f := ab a 6 8 0
          let (bad, v2, d3) := d2.qci m f p { v1 with sf := some f } len x.rx.ts
          (bad, v2, if bad then d3.count .milQciDrop m else d3)
        else (false, v1, d2)
      if bad then drop d3 v2
      else
        let (gone, v3, d4) := if abit a 15 14 ∧ v2.rcv = none then
            let i := ab a 15 8 0
            let (gone, d4) := d3.recover i p
            (gone, { v2 with rcv := some i }, if gone then d4.count .milRcvDrop m else d4)
          else (false, v2, d3)
        if gone then drop d4 v3 else { v := v3, next := nxt d4, dropAt := none, d := d4 }

/-- The stage of stone `s`: the source lookup when it is the learning stone, and the stone if it runs. -/
def Pass.stage (y : Pass) (m s : Nat) (x : MillFrame) (p : Parse) : Pass :=
  let y1 := if y.d.learnStone m = some s ∧ y.dropAt = none then
      { y with d := y.d.sourceLookup m s x p y.v.metas }
    else y
  if y1.next = some s then y1.run m s x p else y1

/-! ### The banked verdict (R196, R197) -/

/-- The verdict before the first stone. -/
def Verdict.start (tclass : Nat) : Verdict :=
  { cls := none, ports := 0, queue := 0, aux := 0, tclass := tclass, flow := none, dom := none, strm := none, sf := none,
    rcv := none, metas := [0, 0, 0, 0] }

/-- The verdict of a frame whose parse failed (R197). -/
def Dev.malfVerdict (d : Dev) (m : Nat) : Verdict :=
  let v := Verdict.start (d.fld .milMalf m 0 6 4)
  match d.fld .milMalf m 0 1 0 with
  | 1 => { v with cls := some 2, aux := d.fld .milMalf m 0 25 16 }
  | 2 => { v with cls := some 1, ports := BitVec.ofNat 32 (2 ^ d.fld .milMalf m 0 12 8), queue := w16 (d.fld .milMalfQ m 0 13 0) }
  | _ => { v with cls := some 0 }

/-- Classification has ended (R196): an undecided class, source pruning, and an empty port set. -/
def Dev.finishVerdict (d : Dev) (m src : Nat) (v : Verdict) : Verdict × Dev :=
  let (v1, d1) := if v.cls = none then
      (if d.fld .milCtrl m 0 9 8 = 1 then { v with cls := some 2, aux := d.fld .milCtrl m 0 25 16, ports := 0 }
        else { v with cls := some 0 }, d.count .milUndecided m)
    else (v, d)
  let v2 := if d1.bit .milCtrl m 0 1 ∧ src < 32 then { v1 with ports := v1.ports &&& ~~~(BitVec.ofNat 32 (2 ^ src)) } else v1
  if v2.cls = some 1 ∧ v2.ports = 0 then ({ v2 with cls := some 0 }, d1.count .milEmptyDrop m) else (v2, d1)

/-- The packet task record of a frame (R133, R196). -/
def Dev.packetRecord (d : Dev) (m : Nat) (x : MillFrame) (p : Parse) (v : Verdict) (buf : Nat × Nat × Nat) : List Word :=
  let bit := fun (b : Bool) (n : Nat) => if b then n else 0
  let bad := p.code != 0
  let cls := v.cls.getD 0
  let (hh, hl) := mkHandle buf.1 buf.2.2 buf.2.1
  let dl : W32 := match v.strm with
    | some i => x.rx.ts.truncate 32 + BitVec.ofNat 32 (d.budget m i * 1000)
    | none => 0
  let pl := Word.plain
  [pl (w16 (4096 + v.tclass * 512 + bit v.dom.isSome 256 + bit v.strm.isSome 128 + bit bad 32 + bit v.flow.isSome 16)),
   pl (w16 (p.code * 1024 + m * 256 + x.rx.src)), hh, hl, Word.zero, pl (w16 (v.dom.getD 0)), pl (v.flow.getD 0),
   pl (w16 (cls * 8192 + (if cls = 2 then v.aux else if cls = 3 then v.aux % 32 else 0))), pl v.queue,
   pl (hi16 v.ports), pl (lo16 v.ports), pl (hi16 dl), pl (lo16 dl), pl (v.metas.getD 2 0), pl (v.metas.getD 3 0),
   pl (w16 x.rx.bytes.length)]

/-- The counter of a verdict class. -/
def classCtr : Nat → CtrKind
  | 0 => .milDrop
  | 1 => .milForward
  | 2 => .milHost
  | _ => .milMirror

/-- `VERDICT_COMPLETE`: 96 MILLCLK after hand-over the mill's oldest frame has its verdict; it is admitted and waits for its
task, or its buffer returns (R11). A frame whose parse failed has the class MALFORMED and no other (R10): it counts in MALFORMED alone,
whatever its MALF setting makes of it (DEDUCED, notes/assumptions/42.md). -/
def execVerdictComplete (m : Fin 4) (s : State) : Host.Outcome State Fault Refusal :=
  s.onDev (fun d =>
    match (d.mill m).frames with
    | [] => d
    | x :: rest =>
      match x.handed, x.parse with
      | some t, some p =>
        if d.time.tick < t + 8 ∨ d.rxWaits x.rx then d else
        let d0 := (d.setMill m { d.mill m with frames := rest }).count .milFrames m
        let (v, d1) :=
          if p.code ≠ 0 then (d0.malfVerdict m, d0.count .milMalformed m)
          else
            let y0 : Pass := { v := Verdict.start (d0.fld .milCtrl m 0 6 4), next := d0.enabledFrom m 0, dropAt := none, d := d0 }
            let y := (List.range 8).foldl (fun y k => Pass.stage y m k x p) y0
            y.d.finishVerdict m x.rx.src y.v
        let d2 := if p.code ≠ 0 then d1 else d1.count (classCtr (v.cls.getD 0)) m
        match x.rx.buf with
        | none => d2
        | some (n, i, g) =>
          if v.cls = some 0 then d2.freeBuf n i
          else
            let (bs, d3) := d2.rxWindow x.rx
            let b : Banked := { words := d3.packetRecord m x p v (n, i, g), dom := v.dom, deadline := v.strm.isSome,
                                window := bs.take 256 }
            d3.setMill m { d3.mill m with banked := (d3.mill m).banked ++ [b] }
      | _, _ => d)

end Sys2Proof.Machine
end

