-- ==== Sys2Proof/Machine/Updates.lean ====
section
/-!
DEFINITION. The update port of a mill (R198–R201), the insertion engine (R217–R219), and what a completed command does to the
recent-gossip filter and the failed list (R212, R220).
-/
namespace Sys2Proof.Machine

/-! ### Staging -/

/-- The staged key, mask or block of mill `m`, as 16-bit words. -/
def Dev.staged16 (d : Dev) (k : RegKind) (m n : Nat) : List W16 :=
  (List.range n).map (fun i => if i % 2 = 0 then hi16 (d.rd k m (i / 2)) else lo16 (d.rd k m (i / 2)))

/-- The DATA registers take a block. -/
def Dev.setData (d : Dev) (m : Nat) (ws : List W16) : Dev :=
  (List.range 8).foldl (fun d i => d.wr .milUpdData m i (join16 (ws.getD (2 * i) 0) (ws.getD (2 * i + 1) 0))) d

/-- The DATA registers 0–3 take a count of frames and of bytes, high half first. -/
def Dev.setCounts (d : Dev) (m frames bytes : Nat) : Dev :=
  (((d.wr .milUpdData m 0 (BitVec.ofNat 32 (frames / 2 ^ 32))).wr .milUpdData m 1 (BitVec.ofNat 32 frames)).wr
    .milUpdData m 2 (BitVec.ofNat 32 (bytes / 2 ^ 32))).wr .milUpdData m 3 (BitVec.ofNat 32 bytes)

/-- The key of a command on stone `s`: masked by the stone, and for a prefix stone by the prefix length, which it carries. -/
def Dev.updKey (d : Dev) (m s : Nat) : List W16 :=
  let key := ((List.range (d.keyLen m s)).zip (d.staged16 .milUpdKey m 20)).map (fun iw => iw.2 &&& d.stoneMask m s iw.1)
  if d.stoneKind m s = 2 then prefixKey (d.addrWords m s) (d.fld .milUpdIdx m 0 31 24) key else key

/-! ### Insertion (R217–R219) -/

/-- A place of a bucket that holds no valid entry, the lowest first. -/
def Dev.freePlace (d : Dev) (m : Nat) (t : Table) (b : Nat) : Option Nat :=
  (List.range 4).find? (fun j => !d.placeValid m t b j)

/-- An entry is written into a place: its key lines, then its block. -/
def Dev.writePlace (d : Dev) (m : Nat) (t : Table) (b j : Nat) (key block : List W16) : Dev :=
  (d.setHash m (t.place b j) key).setHash m (t.block b j) block

/-- A place is made invalid. -/
def Dev.clearPlace (d : Dev) (m : Nat) (t : Table) (b j : Nat) : Dev :=
  d.setHash m (t.block b j) [d.hashWord m (t.block b j) &&& 0x7FFF]

/-- One move of a path: the entry at (b, p) goes to (a, q), with its activity (R218, R222). -/
def Dev.movePlace (d : Dev) (m : Nat) (t : Table) (b p a q : Nat) (act : Bool) : Dev :=
  let d1 := (d.writePlace m t a q (d.placeKey m t b p) (d.hashWords m (t.block b p) 16)).clearPlace m t b p
  if act then d1.setActivity m (d1.bit .milLearn m 0 26) (a * 4 + q) else d1

/-- The path's moves from the last to the first; each fills the place that the one after it has freed. -/
def Dev.movePath (d : Dev) (m : Nat) (t : Table) (act : Bool) : List (Nat × Nat) → Nat → Nat → Dev
  | [], _, _ => d
  | (b, p) :: r, a, q => (d.movePlace m t b p a q act).movePath m t act r b p

/-- The search of R217: the path found, last move first, with the free place it ends in. -/
def Dev.findPath (d : Dev) (m : Nat) (t : Table) (path : List (Nat × Nat)) (b p : Nat) : Nat → Option (List (Nat × Nat) × Nat × Nat)
  | 0 => none
  | n + 1 =>
    let key := d.placeKey m t b p
    let (x1, x2) := d.bucketsOf m t key
    let a := if x1 = b then x2 else x1
    let path1 := (b, p) :: path
    match d.freePlace m t a with
    | some q => some (path1, a, q)
    | none =>
      match ((List.range 4).map (fun k => (p + 1 + k) % 4)).find? (fun q => !path1.contains (a, q)) with
      | some q => d.findPath m t path1 a q n
      | none => none

/-- INSERT of a key with a block into a region: status and moves. -/
def Dev.insertKey (d : Dev) (m : Nat) (t : Table) (act : Bool) (key block : List W16) : Nat × Nat × Dev :=
  let (b1, b2) := d.bucketsOf m t key
  if (d.findKey m t key).isSome then (1, 0, d)
  else match d.freePlace m t b1, d.freePlace m t b2 with
    | some j, _ => (0, 0, d.writePlace m t b1 j key block)
    | none, some j => (0, 0, d.writePlace m t b2 j key block)
    | none, none =>
      let p := (d.mill m).rot
      let d1 := d.setMill m { d.mill m with rot := (p + 1) % 4 }
      match d1.findPath m t [] b1 p 16 with
      | some (path, a, q) => (0, path.length, (d1.movePath m t act path a q).writePlace m t b1 p key block)
      | none => (3, 16, d1)

/-- The distinct prefix lengths in a region (R192). -/
def Dev.lengthsIn (d : Dev) (m : Nat) (t : Table) : List Nat :=
  ((List.range (t.buckets * 4)).filterMap (fun n =>
    if d.placeValid m t (n / 4) (n % 4) then some ((d.placeKey m t (n / 4) (n % 4)).getLastD 0).toNat else none)).eraseDups

/-! ### The commands (R198, R204, R205) -/

/-- Commands on keys, 1 INSERT, 2 DELETE, 3 MODIFY, 4 LOOKUP: status, moves, device. -/
def Dev.keyCommand (d : Dev) (m op s : Nat) (b : Bool) : Nat × Nat × Dev :=
  let kind := d.stoneKind m s
  let plen := d.fld .milUpdIdx m 0 31 24
  if kind = 1 ∨ kind = 3 ∨ (kind = 2 ∧ 16 * d.addrWords m s < plen) then (5, 0, d)
  else
    let t := d.table m s b
    let key := d.updKey m s
    let block := d.staged16 .milUpdData m 16
    if op = 1 then
      let ls := if kind = 2 then d.lengthsIn m t else []
      if kind = 2 ∧ !ls.contains plen ∧ 16 ≤ ls.length then (4, 0, d)
      else d.insertKey m t (decide (d.learnStone m = some s)) key block
    else match d.findKey m t key with
      | none => (2, 0, d)
      | some (bk, j) =>
        if op = 2 then (0, 0, d.clearPlace m t bk j)
        else if op = 3 then (0, 0, d.setHash m (t.block bk j) block)
        else (0, 0, d.setData m (d.hashWords m (t.block bk j) 16))

/-- A stream-gate write: an entry, or the header, which with COMMIT fixes the change instant (R204). -/
def Dev.gateCommand (d : Dev) (m g sub : Nat) : Nat × Dev :=
  let w := fun (k : Nat) => d.rd .milUpdData m k
  let x := d.gate m g
  if 127 < g then (5, d)
  else if sub < 32 then
    if w 0 = 0 then (5, d) else (0, d.setGate m g { x with admin := x.admin.set (0, 0) sub (w 0, w 1) })
  else if sub = 0x3F then
    let h := w 3
    let n := bits h 5 0
    let cycle := (w 0).toNat
    if n = 0 ∨ 32 < n ∨ (h.getLsbD 29 ∧ cycle = 0) then (5, d)
    else
      let base : W64 := (w 2).append (w 1)
      let y := { x with hdr := h, cycle := w 0, base := base, closed := false }
      if h.getLsbD 29 then
        let entry := fun (k : Nat) =>
          let e := x.admin.get (0, 0) k
          (e.1.toNat, e.2.getLsbD 31, if e.2.getLsbD 30 then some (bits e.2 29 27) else none)
        let soon := d.time.ns.toNat + 1000
        let at_ := base.toNat + (soon - base.toNat + cycle - 1) / cycle * cycle
        (0, d.setGate m g { y with next := some (at_, ⟨(List.range n).map entry, cycle, base.toNat⟩) })
      else (0, d.setGate m g y)
  else (5, d)

/-- A recovery instance write (R205): it starts afresh. -/
def Dev.recovCommand (d : Dev) (m i : Nat) : Nat × Dev :=
  let a := d.rd .milUpdData m 0
  let b := d.rd .milUpdData m 1
  let h := bits a 29 23
  if m ≠ 0 ∨ 511 < i ∨ h < 2 ∨ 64 < h ∨ bits a 15 0 = 0 ∨ 47 < bits b 13 8 then (5, d)
  else (0, d.setRecov i { d.recov i with d0 := a, d1 := b, takeAny := true, seqNo := 0, hist := [], since := d.time.tick })

/-- CNT_READ (R201, R206). -/
def Dev.cntCommand (d : Dev) (m i sub : Nat) (clr : Bool) : Nat × Dev :=
  match d.fld .milUpdIdx m 0 23 22 with
  | 0 =>
    if 32767 < i then (5, d) else
    let a := (0x30000 + i) * 8
    let rd := fun (k : Nat) => (d.hashWords m (a + k) 4).foldl (fun n (w : W16) => n * 65536 + w.toNat) 0
    let d1 := d.setCounts m (rd 0) (rd 4)
    (0, if clr then d1.setHash m a (List.replicate 8 0) else d1)
  | 1 =>
    if 511 < i ∨ 4 < sub then (5, d) else
    let d1 := d.setCounts m ((d.mill m).fcounts.get 0 (i * 8 + sub)).toNat 0
    (0, if clr then d1.setMill m { d1.mill m with fcounts := (d1.mill m).fcounts.set 0 (i * 8 + sub) 0 } else d1)
  | 2 =>
    if m ≠ 0 ∨ 511 < i ∨ 6 < sub then (5, d) else
    let x := d.recov i
    let d1 := d.setCounts m (x.counts.getD sub 0).toNat 0
    (0, if clr then d1.setRecov i { x with counts := x.counts.set sub 0 } else d1)
  | _ => (5, d)

/-- TCAM entry `i` is made invalid. -/
def Dev.tcamOff (d : Dev) (m i : Nat) : Dev :=
  let x := d.mill m
  d.setMill m { x with tcam := x.tcam.set none i ((x.tcam.get none i).map (fun t => { t with valid := false })) }

/-- Carry out a command: status, moves, device. The spec names no LOOKUP that selects a stream filter, so no command reads a filter's
BLOCKED bit (DESIGN CHOICE, notes/assumptions/49.md). -/
def Dev.updRun (d : Dev) (m op s : Nat) (b clr : Bool) : Nat × Nat × Dev :=
  let i := d.fld .milUpdIdx m 0 15 0
  let sub := d.fld .milUpdIdx m 0 21 16
  let w := fun (k : Nat) => d.rd .milUpdData m k
  let x := d.mill m
  let flat := fun (r : Nat × Dev) => (r.1, 0, r.2)
  let raw := d.staged16 .milUpdData m 16
  match op with
  | 5 =>
    if 8191 < i then (5, 0, d) else
    let t : Tcam := ⟨true, d.staged16 .milUpdKey m 20, d.staged16 .milUpdMask m 20⟩
    (0, 0, (d.setMill m { x with tcam := x.tcam.set none i (some t) }).setHash m (tcamBlock i) raw)
  | 6 => if 8191 < i then (5, 0, d) else (0, 0, d.tcamOff m i)
  | 7 => (0, 0, d.setHash m (missBlock s b) raw)
  | 8 => if 4095 < i then (5, 0, d) else (0, 0, d.setHash m (0x3C000 * 8 + i * 2) [hi16 (w 0), lo16 (w 0)])
  | 9 =>
    let us := bits (w 0) 9 0
    if 511 < i ∨ us = 1 ∨ 1000 < us then (5, 0, d) else (0, 0, d.setMill m { x with streams := x.streams.set 0 i us })
  | 10 =>
    if 511 < i then (5, 0, d) else
    (0, 0, d.setMill m { x with filters := x.filters.set (0, 0) i (w 0, (w 1) &&& 0x3FF) })
  | 11 => flat (d.gateCommand m i sub)
  | 12 =>
    if 1023 < i then (5, 0, d) else
    let y : Meter := ⟨[w 0, w 1, w 2, w 3, w 4], bits (w 2) 23 0 * 1024, bits (w 3) 23 0 * 1024, d.time.ns, false⟩
    (0, 0, d.setMill m { x with meters := x.meters.set Meter.init i y })
  | 13 => flat (d.recovCommand m i)
  | 14 => flat (d.cntCommand m i sub clr)
  | _ => d.keyCommand m op s b

/-- A write of `MIL.UPD_CMD` starts its command: BUSY until the status is final, and for TCAM_WRITE the entry invalid until then (R199,
R200). The tables change when the command completes. -/
def Dev.updCmd (d : Dev) (m : Nat) (v : W32) : Dev :=
  let op := bits v 3 0
  let i := d.fld .milUpdIdx m 0 15 0
  let d1 := if op = 5 ∧ i < 8192 then d.tcamOff m i else d
  (d1.setMill m { d1.mill m with upd := some ⟨op, bits v 10 8, v.getLsbD 4, v.getLsbD 7⟩ }).setBit .milUpdStat m 0 31 true

/-- The key of an INSERT that ended FULL enters the failed list (R220). -/
def Dev.failKey (d : Dev) (m : Nat) (key : List W16) : Dev :=
  let d1 := d.count .milInsertFull m
  if (d1.failedAt m key).isSome then d1 else
  let x := d1.mill m
  let slot := ((List.range 16).find? (fun i => !d1.bit .milFailqValid m i 31)).getD (x.failOrder.headD 0)
  let d2 := ((d1.wr .milFailqKey01 m slot (join16 (key.getD 0 0) (key.getD 1 0))).wr .milFailqKey23 m slot
    (join16 (key.getD 2 0) (key.getD 3 0))).wr .milFailqCount m slot 0
  (d2.setBit .milFailqValid m slot 31 true).setMill m { x with failOrder := x.failOrder.filter (· ≠ slot) ++ [slot] }

/-- `UPDATE_DONE` (R199, R212, R213, R220): the command takes its effect, its status is final, and one on the learning stone has its effects
in the filter and the failed list. -/
def execUpdateDone (m : Fin 4) (s : State) : Host.Outcome State Fault Refusal :=
  s.onDev (fun d =>
    match (d.mill m).upd with
    | none => d
    | some u =>
      let key := d.updKey m u.stone
      let (status, moves, d0) := d.updRun m u.op u.stone u.bank u.clr
      let d1 := (d0.setMill m { d0.mill m with upd := none }).wr .milUpdStat m 0 (BitVec.ofNat 32 (moves * 256 + status))
      if d1.learnStone m ≠ some u.stone ∨ ¬ (u.op = 1 ∨ u.op = 2) then d1
      else
        let others := fun (l : List Sighted) => l.filter (fun e => e.key != key)
        let x := d1.mill m
        let d2 := d1.setMill m { x with seen := others x.seen, gossip := x.gossip.map (Gossip.mapOut others) }
        if u.op = 2 then d2
        else if status = 3 then d2.failKey m key
        else if status = 0 then
          match d2.failedAt m key with
          | some i => d2.setBit .milFailqValid m i 31 false
          | none => d2
        else d2)

end Sys2Proof.Machine
end

