-- ==== Sys2Proof/Machine/Fields.lean ====
section
/-!
DEFINITION. What a set-up write meets in each field (R3–R5, R50, R428): values that are reserved, fields that are protected,
and writes that are ignored as a whole.
-/
namespace Sys2Proof.Machine

/-! ### Reserved values (R5) -/

/-- A ring size that is neither 6–16 nor 0, not set. -/
def sizeBad (x : Nat) : Bool := x != 0 && !decide (6 ≤ x ∧ x ≤ 16)

/-- Neither SIZE (bits 8:4) nor EN (bit 0) of a record ring's CFG may be written so: SIZE has an allowed value, and EN is not
written 1 while SIZE is 0. `cur` is the register before the write and `lock` says that SIZE is locked. -/
def ringCfgBad (v cur : W32) (lock : Bool) (lo x : Nat) : Bool :=
  let s := bits v 8 4
  let size := if lock || sizeBad s then bits cur 8 4 else s
  if lo = 4 then sizeBad x else lo == 0 && x == 1 && size == 0

/-- The set-up lock covers the block of an offset (R50). -/
def Dev.locked (d : Dev) (off : Nat) : Bool := d.bit .topSetupLock 0 0 (blockOf off)

/-- An interface mode that port `p` does not have (R157). -/
def ifBad (p x : Nat) : Bool := !(x == 0 || (decide (p < 24) && decide (x ≤ 3)) || (decide (24 ≤ p) && (x == 4 || x == 5)))

/-- IF of port `p` as a write leaves it. -/
def Dev.ifAfter (d : Dev) (p : Nat) (v : W32) : Nat :=
  if ifBad p (bits v 2 0) || d.locked (RegKind.off .prtMode p 0) then d.fld .prtMode p 0 2 0 else bits v 2 0

/-- Reserved values of TOP, PWR, ERR, DBG, PRT and MSEC; `x` is what the field `f` is written with. -/
def Dev.rsvFirst (d : Dev) (k : RegKind) (i : Nat) (v cur : W32) (f : Field) (x : Nat) : Bool :=
  match k with
  | .topBootCmd => f.lo == 0 && (x == 0 || x == 3)
  | .topTempAlarm =>
    let t := (BitVec.ofNat 11 x).toInt
    f.lo == 0 && (decide (t < -160) || decide (600 < t))
  | .pwrCmd => f.lo == 0 && v.getLsbD 31 && (decide (x < 2) || decide (39 < x))
  | .pwrDrainTimeout => x == 0
  | .errLogCfg => ringCfgBad v cur (d.locked (RegKind.off .errLogCfg 0 0)) f.lo x
  | .dbgThrCmd => f.lo == 8 && !decide (1 ≤ x ∧ x ≤ 3)
  | .prtMode =>
    if f.lo = 0 then ifBad i x else if f.lo = 4 then decide (3 < x)
    else f.lo == 8 && (x == 3 || (x == 2 && d.ifAfter i v != 5) || (x == 1 && decide (1 ≤ d.ifAfter i v ∧ d.ifAfter i v ≤ 3)))
  | .prtRxctrl => if f.lo = 0 then !decide (64 ≤ x ∧ x ≤ 16000)
                  else (f.lo == 16 || f.lo == 17) && v.getLsbD 16 && v.getLsbD 17
  | .msecPortCtrl => f.lo == 0 && x == 3
  | .msecReplayWin => decide (2 ^ 30 < x) && d.rxXpn i
  | .msecSel => (f.lo == 7 || f.lo == 2) && v.getLsbD 7 && decide (7 < bits v 6 2)
  | .msecScCtrl => f.lo == 5 && x == 3
  | _ => false

/-- Prefix stones of mill `m` other than `s` (R192). -/
def Dev.prefixStones (d : Dev) (m s : Nat) : Nat :=
  ((List.range 8).filter (fun t => t != s && d.stoneKind m t == 2)).length

/-- Reserved values of a stone's CFG (R189–R192). -/
def Dev.stoneCfgBad (d : Dev) (m s : Nat) (v : W32) (lo x : Nat) : Bool :=
  let kindBad := fun (n : Nat) => n == 3 || (n == 2 && decide (2 ≤ d.prefixStones m s))
  let kind := if kindBad (bits v 29 28) then d.stoneKind m s else bits v 29 28
  let empty := fun (b : Nat) => d.fld .milStoneRegion m (s * 2 + b) 13 0 == 0
  if lo = 28 then kindBad x
  else if lo = 16 then x == 0 || decide (20 < x) || (kind == 2 && decide (x < (if v.getLsbD 27 then 8 else 2)))
  else lo == 31 && x == 1 && kind == 1 && (empty 0 || empty 1)

/-- Reserved values of a region of stone `s` (R190, R191): its field BASE, or its field BKT_LOG2 or COUNT at bit 0. A size that no region has
is reserved by itself; a BASE and a size whose region runs past the end are both reserved. -/
def Dev.regionBad (d : Dev) (m s : Nat) (v cur : W32) (lo : Nat) : Bool :=
  let tern := d.stoneKind m s == 1
  let sizeBad := if tern then (bits v 13 0 == 0 && d.stoneEn m s) || decide (8192 < bits v 13 0)
    else !decide (4 ≤ bits v 4 0 ∧ bits v 4 0 ≤ 16)
  let size := if sizeBad then cur else v
  let e := ((if d.stoneKind m s = 2 then d.keyLen m s + 1 else d.keyLen m s) + 7) / 8 + 2
  let beyond := if tern then decide (8192 < bits v 29 16 + bits size 13 0)
    else decide (0x30000 < bits v 27 16 * 64 + 4 * e * 2 ^ bits size 4 0)
  beyond || (lo == 0 && sizeBad)

/-- Reserved values of KND and MIL. -/
def Dev.rsvMill (d : Dev) (k : RegKind) (i j : Nat) (v cur : W32) (f : Field) (x : Nat) : Bool :=
  match k with
  | .kndCtrl => !decide (8 ≤ x ∧ x ≤ 96)
  | .milCtrl => f.lo == 8 && decide (1 < x)
  | .milMalf => f.lo == 0 && x == 3
  | .milQciCtrl => f.lo == 0 && decide (47 < x)
  | .milStoneCfg => d.stoneCfgBad i j v f.lo x
  | .milStoneSel => decide (0x41 < x)
  | .milStoneRegion => d.regionBad i (j / 2) v cur f.lo
  | .milUpdIdx => (f.lo == 24 && decide (128 < x)) || (f.lo == 22 && x == 3)
  | .milLearn => (f.lo == 28 && (d.stoneKind i x != 0 || decide (4 < d.keyLen i x))) || (f.lo == 8 && x == 0)
  | .milLearnSel => decide (0x41 < x)
  | .milGossipCfg => ringCfgBad v cur (d.locked (RegKind.off .milGossipCfg i 0)) f.lo x
  | _ => false

/-- Reserved values of DSP, CHM and BPM. -/
def Dev.rsvMiddle (d : Dev) (k : RegKind) (i : Nat) (v cur : W32) (f : Field) (x : Nat) : Bool :=
  match k with
  | .dspCtrl => f.lo == 16 && x == 0
  | .dspLimits => (f.lo == 16 && x == 0) || (f.lo == 0 && decide (8192 < x))
  | .dspHset => x == 0
  | .dspTallyCfg => ringCfgBad v cur (d.locked (RegKind.off .dspTallyCfg 0 0)) f.lo x
  | .dspDlist => !decide (10 ≤ x ∧ x ≤ 100000)
  | .dspEvt => f.lo == 0 && x == 0
  | .chmGateCtrl => f.lo == 0 && !decide (1 ≤ x ∧ x ≤ 1024)
  | .chmAdminCycle => x == 0
  | .chmPreempt => f.lo == 8 && !decide (1 ≤ x ∧ x ≤ 128)
  | .chmCbs => f.lo == 0 && decide (d.portRate i * 125 < x)
  | .chmQmap => f.lo == 18 && x == 3
  | .chmQburst => f.lo == 24 && x == 0
  | .bpmStateBase => decide (13 < x)
  | .bpmPoolCfg => if f.lo = 0 then x % 2 == 1 else x == 1 && !cur.getLsbD 31 && !d.poolLegal i
  | .bpmLlThresh => decide (bits v 31 16 < bits v 15 0)
  | _ => false

/-- Reserved values of BLW, MMU, MEM and LNK. -/
def Dev.rsvMemory (d : Dev) (k : RegKind) (i : Nat) (v cur : W32) (f : Field) (x : Nat) : Bool :=
  match k with
  | .blwCfg => (f.lo == 8 && !decide (1 ≤ x ∧ x ≤ 32)) || (f.lo == 0 && x == 1 && !cur.getLsbD 0 && !d.blwLegal i v)
  | .mmuTlbiCmd => f.lo == 0 && x == 0
  | .mmuCtxCfg => decide (1 < x)
  | .memCtrl => decide (1 < x)
  | .memMcCfg => (f.lo == 0 && !decide (x ∈ [1, 2, 4, 8])) || (f.lo == 8 && x == 3) ||
                 (f.lo == 31 && x == 1 && !cur.getLsbD 31 && !d.mcLegal i v)
  | .memRegCtrl => f.lo == 31 && x == 1 && !cur.getLsbD 31 && !d.regLegal i (v.getLsbD 30)
  | .lnkCtrl => (f.lo == 28 && x == 3) || (f.lo == 0 && x == 0)
  | .lnkTimers => x == 0
  | .lnkVec => f.lo == 0 && x == 0
  | .lnkRingCfg => (f.lo == 28 && !decide (1 ≤ x ∧ x ≤ 4)) || (f.lo == 23 && !decide (6 ≤ x ∧ x ≤ 16))
  | .lnkRingAux => f.lo == 0 && x == 0
  | _ => false

/-- The number of bits that are 1. -/
def ones (x : Nat) : Nat := ((List.range 32).filter (fun b => x.testBit b)).length

/-- Reserved values of CAN, the local interfaces, TIME and HTH. -/
def Dev.rsvLast (d : Dev) (k : RegKind) (i j : Nat) (v : W32) (f : Field) (x : Nat) : Bool :=
  match k with
  | .canCtrl => (f.lo == 28 || f.lo == 27) && v.getLsbD 28 && v.getLsbD 27
  | .canBt => !btLegal j v
  | .mdioDiv => x == 0
  | .uartCtrl => f.lo == 4 && x == 0
  | .xspiCfg => (f.lo == 8 && x == 3) || (f.lo == 0 && !decide (5 ≤ x ∧ x ≤ 250))
  | .timeRate => decide (0x2800000 < v.toInt) || decide (v.toInt < -0x2800000)
  | .tsioCtrl => f.lo == 0 && decide (4 < x)
  | .tsioPeriod => x != 0 && decide (x ≤ (d.rd .tsioWidth i).toNat)
  | .tsioWidth => (d.rd .tsioPeriod i).toNat != 0 && decide ((d.rd .tsioPeriod i).toNat ≤ x)
  | .hthThrCmd => f.lo == 8 && decide (4 < x)
  | .hthSwift => decide (2 < ones x)
  | .hthCacheCfg => f.lo == 0 && x == 0
  | .hthCacheLock => decide (6 < ones x)
  | .hthRngLen => x == 0 && !d.bit .hthRngCmd i 0 8
  | .hthRngCmd => (f.lo == 0 && !decide (1 ≤ x ∧ x ≤ 4)) ||
                  ((f.lo == 0 || f.lo == 8) && bits v 2 0 == 4 && v.getLsbD 8)
  | .hthPatCfg => v.getLsbD 31 && !decide (1 ≤ bits v 5 0 ∧ bits v 5 0 ≤ 32)
  | _ => false

/-- The value that field `f` of a register is written with is reserved. -/
def Dev.reserved (d : Dev) (k : RegKind) (i j : Nat) (v cur : W32) (f : Field) : Bool :=
  let x := bits v f.hi f.lo
  d.rsvFirst k i v cur f x || d.rsvMill k i j v cur f x || d.rsvMiddle k i v cur f x || d.rsvMemory k i v cur f x ||
    d.rsvLast k i j v f x

/-! ### Protected fields (R428) -/

/-- A condition other than the set-up lock protects field `f`: a pending gate change, frames on the queue, an enabled pool,
channel, memory channel, region, window or ring. -/
def Dev.shielded (d : Dev) (k : RegKind) (i : Nat) (cur : W32) (f : Field) : Bool :=
  match k with
  | .chmGateCtrl => f.lo == 0 && cur.getLsbD 28
  | .chmAdminCycle => d.bit .chmGateCtrl i 0 28
  | .chmAdminBaseHi => d.bit .chmGateCtrl i 0 28
  | .chmAdminBaseLo => d.bit .chmGateCtrl i 0 28
  | .chmAdminCte => d.bit .chmGateCtrl i 0 28
  | .chmQmap => (f.lo == 24 || f.lo == 20) && (d.chmq i).frames != []
  | .bpmPoolCfg => cur.getLsbD 31
  | .bpmPoolBaseHi => d.poolEn i
  | .bpmPoolBaseLo => d.poolEn i
  | .bpmPoolCount => d.poolEn i
  | .blwCfg => (f.lo == 28 || f.lo == 3) && cur.getLsbD 0
  | .blwRingHi => d.bit .blwCfg i 0 0
  | .blwRingLo => d.bit .blwCfg i 0 0
  | .blwHead => d.bit .blwCfg i 0 0
  | .memMcCfg => cur.getLsbD 31
  | .memRegCtrl => (f.lo == 31 || f.lo == 30) && cur.getLsbD 31
  | .memRegBase => d.bit .memRegCtrl i 0 31
  | .memRegSize => d.bit .memRegCtrl i 0 31
  | .memRegShadow => d.bit .memRegCtrl i 0 31
  | .lnkHwinBaseHi => d.bit .lnkHwinCtrl i 0 31
  | .lnkHwinBaseLo => d.bit .lnkHwinCtrl i 0 31
  | .lnkRingCfg => f.lo != 31 && cur.getLsbD 31
  | .lnkRingAux => d.bit .lnkRingCfg i 0 31
  | .lnkRingDescLo => d.bit .lnkRingCfg i 0 31
  | .lnkRingDescHi => d.bit .lnkRingCfg i 0 31
  | .lnkRingCplLo => d.bit .lnkRingCfg i 0 31
  | .lnkRingCplHi => d.bit .lnkRingCfg i 0 31
  | _ => false

/-- Field `f` is protected: by the set-up lock of its block when it is LCK, or by a condition of its own. -/
def Dev.protectedField (d : Dev) (k : RegKind) (i j : Nat) (cur : W32) (f : Field) : Bool :=
  (f.acc == .lck && d.locked (k.off i j)) || d.shielded k i cur f

/-! ### Writes that are ignored as a whole -/

/-- A write is ignored and logged as a whole: the wrong key or state, a command or a staging register while BUSY, a source
served elsewhere (R185), a reserved command, a TAIL that the link feeds (R320). -/
def Dev.refusedWrite (d : Dev) (k : RegKind) (i : Nat) (v : W32) : Bool :=
  match k with
  | .topResetCmd => bits v 31 16 != 0x0A55
  | .topBootCmd => d.bootStateNo != 6 && d.bootStateNo != 7
  | .msecSel => d.bit .msecCmd 0 0 8
  | .msecSciHi => d.bit .msecCmd 0 0 8
  | .msecSciLo => d.bit .msecCmd 0 0 8
  | .msecScCtrl => d.bit .msecCmd 0 0 8
  | .msecSaCtrl => d.bit .msecCmd 0 0 8
  | .msecSaKey => d.bit .msecCmd 0 0 8
  | .msecSaSalt => d.bit .msecCmd 0 0 8
  | .msecSaSsci => d.bit .msecCmd 0 0 8
  | .msecSaPnHi => d.bit .msecCmd 0 0 8
  | .msecSaPnLo => d.bit .msecCmd 0 0 8
  | .milSrc0 => (List.range 4).any (fun m => m != i && d.rd .milSrc0 m &&& v != 0)
  | .milSrc1 => (List.range 4).any (fun m => m != i && d.rd .milSrc1 m &&& v != 0)
  | .milUpdCmd => d.bit .milUpdStat i 0 31 || bits v 3 0 == 0 || bits v 3 0 == 15
  | .milUpdIdx => d.bit .milUpdStat i 0 31
  | .milUpdKey => d.bit .milUpdStat i 0 31
  | .milUpdMask => d.bit .milUpdStat i 0 31
  | .milUpdData => d.bit .milUpdStat i 0 31
  | .blwTail => d.bit .blwCfg i 0 3
  | .mmuTlbiCmd => d.bit .mmuTlbiStat 0 0 31
  | .mmuTlbiTgt => d.bit .mmuTlbiStat 0 0 31
  | .mmuTlbiVaHi => d.bit .mmuTlbiStat 0 0 31
  | .mmuTlbiVaLo => d.bit .mmuTlbiStat 0 0 31
  | .mdioCmd => d.bit .mdioCmd i 0 31
  | .xspiCmd => d.loc.xspi.isSome
  | .hthKeySel => d.bit .hthKeyCmd i 0 8
  | .hthKey => d.bit .hthKeyCmd i 0 8
  | .hthKeyCmd => d.bit .hthKeyCmd i 0 8
  | .hthRngBaseHi => d.bit .hthRngStat i 0 31
  | .hthRngBaseLo => d.bit .hthRngStat i 0 31
  | .hthRngLen => d.bit .hthRngStat i 0 31
  | .hthRngCmd => d.bit .hthRngStat i 0 31 || (v.getLsbD 31 && !v.getLsbD 8 && (d.rd .hthRngLen i).toNat == 0)
  | _ => false

/-! ### The stored value -/

/-- The bits of a written value that count: a stone's region has rsv bits by the stone's kind, and an index at or above SIZE is
ignored. -/
def Dev.significant (d : Dev) (k : RegKind) (i j : Nat) : W32 :=
  match k with
  | .milStoneRegion => if d.stoneKind i (j / 2) = 1 then 0x3FFF3FFF else 0x0FFF001F
  | .errLogCons => BitVec.ofNat 32 (2 ^ d.fld .errLogCfg 0 0 8 4 - 1)
  | .milGossipCons => BitVec.ofNat 32 (2 ^ d.fld .milGossipCfg i 0 8 4 - 1)
  | .dspTallyCons => BitVec.ofNat 32 (2 ^ d.fld .dspTallyCfg 0 0 8 4 - 1)
  | _ => 0xFFFFFFFF

/-- What one field holds after a write of `v`, and whether the write to it is logged (R3–R5, R428). `seen` is the register as it reads. -/
def Dev.fieldAfter (d : Dev) (k : RegKind) (i j : Nat) (v cur seen : W32) (f : Field) : Nat × Bool :=
  let x := bits v f.hi f.lo
  let c := bits cur f.hi f.lo
  match f.acc with
  | .ro => (c, false)
  | .rcl => (c, false)
  | .w1p => (0, false)
  | .w1c => (c &&& (x ^^^ (2 ^ (f.hi + 1 - f.lo) - 1)), false)
  | .w1s => (c ||| x, false)
  | _ =>
    if d.protectedField k i j cur f then (c, x != bits seen f.hi f.lo)
    else if d.reserved k i j v cur f then (c, true)
    else (x, false)

/-- The register's value after a write of `v`, field by field, and whether the write is logged. -/
def Dev.merge (d : Dev) (k : RegKind) (i j : Nat) (v cur seen : W32) : W32 × Bool :=
  (k.fields i j).foldl (fun a f =>
    let r := d.fieldAfter k i j v cur seen f
    (setBits a.1 f.hi f.lo r.1, a.2 || r.2)) (0, false)

end Sys2Proof.Machine
end

