-- ==== Sys2Proof/Machine/Setup.lean ====
section
/-!
DEFINITION. Set-up accesses by any requester: reads with the registers whose value is derived (R3, R48, R49, R249, R408), and
writes with what they start (R3–R5, R428).
-/
namespace Sys2Proof.Machine

/-! ### Who may access what (R47, R390, R398, R409) -/

/-- The switchable domain that a set-up offset lies in (R398). -/
def setupDomain (off : Nat) : Option Nat :=
  if 0x800000 ≤ off then some (domHearth ((off - 0x800000) / 0x80000))
  else if 0x80000 ≤ off ∧ off < 0xA0000 then some (domPortq ((off - 0x80000) / 0x4000))
  else if 0x480000 ≤ off ∧ off < 0x500000 then some domLink
  else if off = 0x500000 ∨ (0x501000 ≤ off ∧ off < 0x503000) then some domCan
  else none

/-- The domain of a set-up offset is ON. -/
def Dev.setupOn (d : Dev) (off : Nat) : Bool :=
  match setupDomain off with
  | some n => d.domOn n
  | none => true

/-- The boot sequencer has performed START (R395). -/
def Dev.started (d : Dev) : Bool := d.top.boot.phase == .done

/-- A requester's access reaches the set-up space: none does while the device is held in reset; the sequencer makes none after
START, threads none before; the host's come over the link, and JTAG's need JTAG_EN. -/
def Dev.reaches (d : Dev) (r : Req) : Bool :=
  !d.top.inReset && match r with
  | .boot => !d.started
  | .host => d.linkUp
  | .spi => true
  | .jtag => d.bit .dbgCtrl 0 0 31
  | .thread _ => d.started

/-- Before START only the sequencer touches the set-up space, but for TOP.BOOT_* by the host and the SPI slave (R390). -/
def Dev.mayTouch (d : Dev) (r : Req) (off : Nat) : Bool :=
  d.started || r == .boot || ((r == .host || r == .spi) && decide (0x30 ≤ off ∧ off < 0x48))

/-! ### Reads -/

/-- Clock domain `n` has work that the state shows (R397): an engine has a READY thread; a hearth a reset, a range operation, lines on their
way or smithy operations; a mill frames, an update, records for the dispatcher or gossip; a bank, a channel, a larder or the link accesses in
flight; the release unit frames or heads that may retire; a block what it has begun. -/
def Dev.hasWork (d : Dev) (n : Nat) : Bool :=
  if n < 256 then (List.range 8).any (fun t => (d.thr (n * 8 + t)).st == .ready)
  else if n < 272 then
    let x := d.hth (n - 256)
    x.reset == 1 || x.reset == 2 || !x.fetches.isEmpty || !x.victim.isEmpty || d.bit .hthRngStat (n - 256) 0 31 ||
      (List.range 3).any (fun u => !(d.unitOps (n - 256) u).isEmpty) || d.inFlight (domHearth (n - 256))
  else if n < 280 then
    let x := d.mill (n % 4)
    !x.frames.isEmpty || (decide (n < 276) && (x.upd.isSome || !x.banked.isEmpty || !x.gossip.isEmpty || x.gossipLost != 0))
  else if n < 288 then d.inFlight (domGran (n - 280))
  else if n < 292 then d.inFlight (domMc (n - 288)) || d.mcTraining (n - 288)
  else if n = 292 then (List.range 64).any (fun c => (d.bch c).desc.isSome || (d.bch c).feed.isSome)
  else if n = 293 then !d.bpm.copies.isEmpty || !d.bpm.copyWait.isEmpty || d.bpm.init.entries.any (fun e => e.2)
  else if n = 294 then !d.lck.msgs.isEmpty
  else if n = 295 then d.dsp.flowClear.isSome || d.dsp.ready.entries.any (fun e => !e.2.isEmpty)
  else if n = 296 then !d.rel.loose.isEmpty || !d.retirable.isEmpty
  else if n = 297 then d.chm.stage.isSome || decide (0 < d.chm.entries)
  else if n < 330 then (d.chm.tx.get none ((n - 298) * 2)).isSome || (d.chm.tx.get none ((n - 298) * 2 + 1)).isSome ||
    !(d.prt.rxq.get [] (n - 298)).isEmpty
  else if n = 330 then d.lnkStateNo != 0
  else (List.range 32).any (fun c => (d.can c).on)

/-- Clock domain `n` may be gated now (R397): its AUTOGATE bit is set, and it has no work. -/
def Dev.mayGate (d : Dev) (n : Nat) : Bool :=
  let group : Nat := if n < 256 then 0 else if n < 272 then 1 else if n < 280 then 2 else if n < 288 then 3
    else if n < 292 then 4 else if n < 298 then 5 else if n < 330 then 6 else 7
  decide (n < 332) && d.bit .clkAutogate 0 0 group && !d.hasWork n

/-- The power domain of clock domain `n` is off. -/
def Dev.clockDark (d : Dev) (n : Nat) : Bool :=
  let off := fun (x : Nat) => !d.domOn x
  if n < 256 then off (domHearth (n / 16)) else if n < 272 then off (domHearth (n - 256))
  else if n < 280 then false else if n < 288 then off (domGran (n - 280)) else if n < 292 then off (domMc (n - 288))
  else if n < 298 then false else if n < 330 then off (domPortq ((n - 298) / 4)) else if n = 330 then off domLink
  else n == 331 && off domCan

/-- `CLK.GATED[n]` (R397): domains without power are gated; whether one that may be gated is gated now is a free value. -/
def Dev.gatedWord (d : Dev) (n : Nat) : W32 × Dev :=
  let (x, d1) := d.choose (2 ^ 32)
  (BitVec.ofNat 32 ((List.range 32).foldl (fun a j =>
    if d.clockDark (n * 32 + j) || (d.mayGate (n * 32 + j) && x.testBit j) then a + 2 ^ j else a) 0), d1)

/-- `REL.DOM_STAT` of the selected domain (R151): the state of its head, its tickets, and the head's number. -/
def Dev.domStat (d : Dev) : W32 :=
  let l := d.rel.doms.get [] (d.fld .relDomSel 0 0 11 0)
  let st : Nat := match (d.tkt (l.headD 0)).st with
    | .free => 0
    | .held => 1
    | .released => 2
    | .skipped => 3
  if l = [] then 0 else BitVec.ofNat 32 (st * 2 ^ 30 + min l.length 16383 * 65536 + (d.tkt (l.headD 0)).epoch % 8 * 8192 + l.headD 0)

/-- A report of hearth `h` is in a report queue (R128). -/
def Dev.stillPending (d : Dev) (h : Nat) : Bool :=
  (List.range 16).any (fun q => (d.hth q).repq.any (fun r => r.src == 2048 + h))

/-- The gate list entry that CHM.GCL_ADDR names (R235). -/
def Dev.gclAt (d : Dev) : W64 :=
  let p := d.fld .chmGclAddr 0 0 20 16
  d.gclWord p (d.operBank p == d.bit .chmGclAddr 0 0 12) (d.fld .chmGclAddr 0 0 9 0)

/-- INDEX advances after each access of GCL_DATA_LO with AUTO_INC. -/
def Dev.gclNext (d : Dev) : Dev :=
  if d.bit .chmGclAddr 0 0 31 then d.setFld .chmGclAddr 0 0 9 0 ((d.fld .chmGclAddr 0 0 9 0 + 1) % 1024) else d

/-- Sources 64–127 of mill `m` (R185, R363): the virtual ports it serves, 32 to a word. -/
def Dev.virtualSources (d : Dev) (m n : Nat) : W32 :=
  BitVec.ofNat 32 ((List.range 32).foldl (fun a j => if d.serves m (64 + n * 32 + j) then a + 2 ^ j else a) 0)

/-- The oldest timestamp of port `p`'s FIFO (R245). -/
def Dev.txtsWord (d : Dev) (p : Nat) (which : Nat) : W32 :=
  match d.chm.txts.get [] p with
  | [] => 0
  | (tag, ts) :: r =>
    if which = 0 then BitVec.ofNat 32 (2 ^ 31 + (r.length + 1) * 65536 + tag.toNat)
    else if which = 1 then BitVec.ofNat 32 (ts.toNat / 2 ^ 32) else ts.truncate 32

def oneBit (b : Bool) (n : Nat) : Nat := if b then 2 ^ n else 0

/-- The registers whose value is a function of the rest of the state. -/
def Dev.derived (d : Dev) (k : RegKind) (i j : Nat) : Option W32 :=
  let num : Nat → Option W32 := fun n => some (BitVec.ofNat 32 n)
  match k with
  | .topFuse => some d.top.fuseSeen
  | .clkStatus => some (setBits (d.rd .clkStatus) 2 2 (oneBit (d.domOn domLink) 0))
  | .memMcStatus => some (setBits (d.rd .memMcStatus i) 31 31 (oneBit (d.bit .memMcStatus i 0 31 && d.domFull (domMc i)) 0))
  | .pwrStatus => num (min d.top.pwrq.length 63)
  | .errFault => some (setBits (d.rd .errFault) 31 31 (oneBit d.faultN 0))
  | .kndProgHi => num ((d.kindAt i).toNat / 2 ^ 32)
  | .kndProgLo => num ((d.kindAt i).toNat % 2 ^ 32)
  | .milSrc23 => some (d.virtualSources i j)
  | .dspFlowStat =>
    let e := d.dsp.flow.get 0 (d.fld .dspFlowSel 0 0 15 0)
    num (if e = 0 then 0 else 2 ^ 31 + (e - 1))
  | .dspHearth => num (min (d.readyCount i) 16383 * 65536 +
      min ((d.dsp.open_.filter (fun g => hearthOf g == i)).length) 255 * 256 + d.fld .dspHearth i 0 5 0)
  | .relStatus => num (min (8192 - d.rel.deadlines) 16383 * 65536 + d.tktFree)
  | .relDomStat => some d.domStat
  | .chmGclDataHi => num (d.gclAt.toNat / 2 ^ 32)
  | .chmGclDataLo => num (d.gclAt.toNat % 2 ^ 32)
  | .chmQlimit => some (setBits (d.rd .chmQlimit i) 31 16 (min (d.chmq i).frames.length 0xFFFF))
  | .bpmPoolStat => some (setBits (d.rd .bpmPoolStat i) 16 0 (d.poolFree i))
  | .bpmLlUsed => num (d.bpm.used.get 0 i)
  | .lckState => some (d.lockState i)
  | .uartStat => num (oneBit (d.bit .uartStat i 0 31) 31 + min (d.loc.uartRx.get [] i).length 31 * 65536
      + (32 - (d.loc.uartTx.get [] i).length))
  | .gpioIn => some d.gpioLevels
  | .timeTxtsStat => some (d.txtsWord i 0)
  | .timeTxtsHi => some (d.txtsWord i 1)
  | .timeTxtsLo => some (d.txtsWord i 2)
  | .hthStill => some (setBits (d.rd .hthStill i) 8 8 (oneBit (d.stillPending i) 0))
  | .hthRepq => num (min (d.hth i).repq.length 255)
  | .hthHeld => some (d.heldWord i j)
  | .hthTsr => some (d.tsrWord (i * 128 + j / 32) (j % 32))
  | .hthReset => some (setBits (d.rd .hthReset i) 31 31 (oneBit ((d.hth i).reset != 0) 0))
  | .milStoneRegion => some (d.rd .milStoneRegion i j &&& d.significant .milStoneRegion i j)
  | .errLogCons => some (d.rd .errLogCons &&& d.significant .errLogCons 0 0)
  | .errLogProd => some (d.rd .errLogProd &&& d.significant .errLogCons 0 0)
  | .milGossipCons => some (d.rd .milGossipCons i &&& d.significant .milGossipCons i 0)
  | .milGossipProd => some (d.rd .milGossipProd i &&& d.significant .milGossipCons i 0)
  | .dspTallyCons => some (d.rd .dspTallyCons &&& d.significant .dspTallyCons 0 0)
  | .dspTallyProd => some (d.rd .dspTallyProd &&& d.significant .dspTallyCons 0 0)
  | .blwHead => num (d.blwHead i)
  | .blwTail => num (d.blwTail i)
  | _ => none

/-- The requester's latches (R249, R408). -/
def Dev.latchOf (d : Dev) (r : Req) : Latch := d.latches.get ⟨0, 0, 0⟩ r.word.toNat
def Dev.setLatch (d : Dev) (r : Req) (l : Latch) : Dev := { d with latches := d.latches.set ⟨0, 0, 0⟩ r.word.toNat l }

/-- The bits of W1P fields read 0 (R3). -/
def pulseMask (fs : List Field) : W32 :=
  fs.foldl (fun m f => if f.acc = .w1p then setBits m f.hi f.lo 0 else m) 0xFFFFFFFF

/-- Read a register: its value, and what the read does. -/
def Dev.regRead (d : Dev) (r : Req) (k : RegKind) (i j : Nat) : W32 × Dev :=
  match k with
  | .timeNowLo =>
    let t := d.time
    (t.ns.truncate 32, d.setLatch r { d.latchOf r with timeHi := BitVec.ofNat 32 (t.ns.toNat / 2 ^ 32),
                                                       timeFrac := BitVec.ofNat 32 (t.frac.toNat / 65536) })
  | .timeNowHi => ((d.latchOf r).timeHi, d)
  | .timeNowFrac => ((d.latchOf r).timeFrac, d)
  | .uartData => d.uartTake i
  | .clkGated => d.gatedWord i
  | .chmGclDataLo => (BitVec.ofNat 32 (d.gclAt.toNat % 2 ^ 32), d.gclNext)
  | _ => (((d.derived k i j).getD (d.rd k i j)) &&& pulseMask (k.fields i j), d)

/-- A counter's value as it is read: the low half of a 64-bit counter latches the high half. -/
def Dev.ctrRead (d : Dev) (r : Req) (k : CtrKind) (i j : Nat) (high : Bool) : W32 × Dev :=
  let v := d.ctr k i j
  if k.desc.width = 32 then (v.truncate 32, d)
  else if high then ((d.latchOf r).ctrHi, d)
  else (v.truncate 32, d.setLatch r { d.latchOf r with ctrHi := BitVec.ofNat 32 (v.toNat / 2 ^ 32) })

/-- A set-up read by a requester: an undefined offset, a domain without power and a register not yet open read zero. -/
def Dev.setupRead (d : Dev) (r : Req) (off : Nat) : W32 × Dev :=
  if !d.reaches r || !d.mayTouch r off || !d.setupOn off then (0, d)
  else match regAt off with
    | .none => (0, d)
    | .reg k i j => d.regRead r k i j
    | .ctr k i j high => d.ctrRead r k i j high

/-! ### Writes -/

/-- A gate list entry may not be stored: it would fall on the operational bank or on an admin bank with a change pending (R235,
R238), or its OP or INTERVAL is reserved. -/
def Dev.gclBad (d : Dev) (lo : W32) : Bool :=
  let p := d.fld .chmGclAddr 0 0 20 16
  d.bit .chmGclAddr 0 0 12 || d.bit .chmGateCtrl p 0 28 || d.fld .chmGclDataHi 0 0 23 22 == 3 || decide (lo.toNat < 40)

/-- A write of GCL_DATA_LO stores the entry HI:LO in the admin bank (R235). HI keeps its gate states and OP. -/
def Dev.gclWrite (d : Dev) (r : Req) (lo : W32) : Dev :=
  let p := d.fld .chmGclAddr 0 0 20 16
  let x := ((d.rd .chmGclDataHi &&& 0xFFC00000).append lo : W64)
  let key := gclKey p (!d.operBank p) (d.fld .chmGclAddr 0 0 9 0)
  (if d.gclBad lo then d.reject r (RegKind.off .chmGclDataLo 0 0)
   else { d with chm := { d.chm with gcl := d.chm.gcl.set 0 key x } }).gclNext

/-- CANCEL and CONFIG_CHANGE of GATE_CTRL (R237, R238), each against the state before the write; and GATE_EN. A write logs one reject,
whichever of its fields it fails for (R428); `bad` says that it has. -/
def Dev.gateCtrlWritten (d : Dev) (r : Req) (p : Nat) (v cur : W32) (bad : Bool) : Dev :=
  let pend := cur.getLsbD 28
  let cancelled := if v.getLsbD 29 then d.cancelChange p else some d
  let d1 := cancelled.getD d
  let d2 := if v.getLsbD 30 && !pend then (d1.configChange p).getD d1 else d1
  let d2 := if (cancelled.isNone || (v.getLsbD 30 && pend)) && !bad then d2.reject r (RegKind.off .chmGateCtrl p 0) else d2
  if v.getLsbD 31 != cur.getLsbD 31 then
    ({ d2 with chm := { d2.chm with gates := d2.chm.gates.set 0xFF p 0xFF } }.refreshGates p).resume p
  else d2

/-- SET and STEP of TIME.CMD (R248): they wait for the next TICKCLK. -/
def Dev.timeCmdWritten (d : Dev) (v : W32) : Dev :=
  let d1 := if v.getLsbD 0 then { d with time := { d.time with setPend := some (d.rd64 .timeSetHi .timeSetLo) } } else d
  let d2 := if v.getLsbD 1 then { d1 with time := { d1.time with stepPend := some (d1.rd64 .timeStepHi .timeStepLo) } } else d1
  if bits v 1 0 = 0 then d2 else d2.setBit .timeCmd 0 0 8 true

/-- Every error counter of the blocks of a mask is zero (R407). -/
def Dev.clearErrors (d : Dev) (mask : W32) : Dev :=
  { d with ctrs := d.ctrs.filter (fun off _ =>
      match regAt off with
      | .ctr k _ _ _ => !(k.desc.width == 32 && mask.getLsbD k.desc.block)
      | _ => true) }

/-- A queue's burst changes: its bucket keeps its bytes, up to the new size; one that RATE 0 leaves out is full (R232). -/
def Dev.burstWritten (d : Dev) (q : Nat) (cur : W32) : Dev :=
  let x := d.chmq q
  d.setChmq q { x with short := if d.fld .chmQrate q 0 21 0 = 0 then 0 else d.burst q + x.short - bits cur 23 0 * 1024 }

/-- What must be settled under the old value before a write: credits and buckets up to the present time. -/
def Dev.beforeWrite (d : Dev) (k : RegKind) (i : Nat) : Dev :=
  match k with
  | .chmCbs => d.cbsSync i
  | .chmGateCtrl => d.cbsSync i
  | .chmQrate => d.setChmq i { d.chmq i with short := if d.fld .chmQrate i 0 21 0 = 0 then 0 else d.shortNow i, last := d.time.ns }
  | .chmQburst => d.refill i
  | _ => d

/-- Registers that hold nothing a write leaves there: their write is an action alone. -/
def storesNothing : RegKind → Bool
  | .topBootData | .kndProgLo | .chmGclDataLo | .lnkDoorbell | .uartData | .blwTail | .hthTsr => true
  | _ => false

/-- A write of a thread state record word (R129). -/
def Dev.tsrWritten (d : Dev) (r : Req) (h j : Nat) (v : W32) : Dev :=
  let g := h * 128 + j / 32
  let w := j % 32
  if !tsrWritable w then d
  else if !(d.thr g).open_ || !tsrLegal w v then d.reject r (RegKind.off .hthTsr h j)
  else
    let d1 := if w = 17 ∧ bits v 10 9 = 3 then d.reject r (RegKind.off .hthTsr h j) else d
    d1.tsrPut g w v

/-- What a write starts in TOP, PWR, ERR, DBG, PRT, MSEC, KND, MIL and DSP. `cur` and `new` are the register before and after it;
`bad` says that a field of it was refused. -/
def Dev.effectFirst (d : Dev) (r : Req) (k : RegKind) (i : Nat) (v cur new : W32) (bad : Bool) : Dev :=
  match k with
  | .topResetCmd => d.resetCmd v
  | .topBootCmd => if v.getLsbD 31 && !bad then d.bootCmd (bits v 1 0) else d
  | .topBootData => if (d.bootData v).2 then (d.bootData v).1 else d.reject r (RegKind.off .topBootData 0 0)
  | .topTemp => d.tempCleared (cur.getLsbD 31)
  | .topTempAlarm => d.tempEnWritten (cur.getLsbD 31) (new.getLsbD 31)
  | .pwrCmd => if v.getLsbD 31 && !bad then d.pwrQueue ⟨bits v 5 0, v.getLsbD 7, v.getLsbD 8, v.getLsbD 9⟩ else d
  | .errClrErr => d.clearErrors v
  | .dbgThrCmd => if bad then d else d.dbgCmd v
  | .dbgGroup => d.dbgGroup v
  | .dbgOtpCmd => if r == .jtag && v.getLsbD 31 && !new.getLsbD 30 then d.setBit .dbgOtpCmd 0 0 29 true else d
  | .prtMode => if cur = new then d else d.modeChanged i
  | .msecCmd => d.msecCmd v
  | .kndProgLo => d.progWrite r i v
  | .milUpdCmd => d.updCmd i v
  | .dspFlowCmd => d.flowCmd r v
  | .dspDlist => if bad then d else d.setTick i (bits v 16 0)
  | _ => d

/-- What a write starts in CHM, BPM, BLW, MMU and MEM. -/
def Dev.effectMiddle (d : Dev) (r : Req) (k : RegKind) (i : Nat) (v cur new : W32) (bad : Bool) : Dev :=
  match k with
  | .chmGclDataLo => d.gclWrite r v
  | .chmPctrl => d.discardDown i
  | .chmGateCtrl => d.gateCtrlWritten r i v cur bad
  | .chmPreempt => d.preemptWritten i (cur.getLsbD 31) (cur.getLsbD 30)
  | .chmCbs => d
  | .chmGen => if v.getLsbD 30 then d.setFld .chmGen i 0 15 0 0 else d
  | .chmQburst => d.burstWritten i cur
  | .bpmPoolCfg => if !cur.getLsbD 31 && new.getLsbD 31 then d.poolEnabled i else d
  | .bpmPoolReserve => d.xoff
  | .bpmLlCfg => d.xoff
  | .bpmLlThresh => d.xoff
  | .blwCfg => (d.blwReduce i).blwEnWritten i (cur.getLsbD 0) (new.getLsbD 0)
  | .blwHead => d.blwReduce i
  | .blwTail => d.blwTailWritten i (bits v 15 0)
  | .blwCmd => d.blwCmds r i v
  | .mmuTlbiCmd => if v.getLsbD 31 && !bad then d.tlbiStart else d
  | .memRegCtrl =>
    if !v.getLsbD 29 then d else if new.getLsbD 31 then d.regionInit i
    else if bad then d else d.reject r (RegKind.off .memRegCtrl i 0)
  | _ => d

/-- What a write starts in LNK, CAN, the local interfaces, TIME and HTH. -/
def Dev.effectLast (d : Dev) (r : Req) (k : RegKind) (i j : Nat) (v cur new : W32) (bad : Bool) : Dev :=
  match k with
  | .lnkCtrl =>
    let d1 := d.lnkEnWritten (cur.getLsbD 31) (new.getLsbD 31)
    if v.getLsbD 30 then d1.lnkRetrain else d1
  | .lnkMsiSend => if v.getLsbD 31 then d.sendMsi (bits v 7 0) else d
  | .lnkRingCfg => d.ringEnWritten i (cur.getLsbD 31) (new.getLsbD 31)
  | .lnkDoorbell => d.doorbell v
  | .canCtrl => d.canEnWritten i (new.getLsbD 31)
  | .canCmd => d.canCmdWritten r i v
  | .mdioCmd => d.mdioStart i
  | .uartData => d.uartSend i (v.truncate 8)
  | .xspiCmd => d.xspiWritten r v
  | .timeCmd => d.timeCmdWritten v
  | .timeTxtsPop => if v.getLsbD 0 then d.popTs i else d
  | .tsioCtrl => d.tsModeWritten i (bits cur 2 0)
  | .hthStill => if new.getLsbD 0 then d else d.stir i
  | .hthThrCmd => if bad then d else d.thrCmd r i v
  | .hthTsr => d.tsrWritten r i j v
  | .hthRngCmd => if v.getLsbD 31 && !bad then d.rangeStart i else d
  | .hthKeyCmd => d.keyCmd i v
  | .hthPatCmd => d.patCmd i v
  | .hthReset => d.hthResetWritten r i v
  | _ => d

/-- Write a register: its fields, and what the write starts. -/
def Dev.regWrite (d : Dev) (r : Req) (k : RegKind) (i j : Nat) (v : W32) : Dev :=
  let d0 := d.beforeWrite k i
  let x := v &&& d0.significant k i j
  let cur := d0.rd k i j
  if d0.refusedWrite k i x then d0.reject r (k.off i j)
  else
    let m : W32 × Bool := if storesNothing k then (cur, false) else d0.merge k i j x cur ((d0.derived k i j).getD cur)
    let d1 := d0.wr k i j m.1
    let d2 := if m.2 then d1.reject r (k.off i j) else d1
    ((d2.effectFirst r k i x cur m.1 m.2).effectMiddle r k i x cur m.1 m.2).effectLast r k i j x cur m.1 m.2

/-- A set-up write by a requester: to an undefined offset, to a domain without power, or before START, it is ignored and
logged; counters ignore it. -/
def Dev.setupWrite (d : Dev) (r : Req) (off : Nat) (v : W32) : Dev :=
  if !d.reaches r then d
  else if !d.mayTouch r off || !d.setupOn off then d.reject r off
  else match regAt off with
    | .none => d.reject r off
    | .reg k i j => d.regWrite r k i j v
    | .ctr _ _ _ _ => d

/-- A set-up read whose data the requester keeps. -/
def Dev.setupReadTo (d : Dev) (r : Req) (off : Nat) : Dev :=
  if !d.reaches r then d else
  let (v, d1) := d.setupRead r off
  { d1 with answers := d1.answers.set 0 r.word.toNat v }

end Sys2Proof.Machine
end

