-- ==== Sys2Proof/Machine/EngineMem.lean ====
section
/-!
DEFINITION. The loads and stores of the engines (R31, R42, R46, R48, R64, R65, R74, R75, R268, R289, R323, R411), and the events
that complete them: fabric responses (R56), table walks (R291, R296, R298), the drain of the write buffers (R270), release
operations (R76) and target errors (R77).
-/
namespace Sys2Proof.Machine

/-! ### Watchpoints (R411) -/

/-- A watchpoint stops thread `g` at its instruction, which writes nothing; one that also faults is HELD with STOP set. In an iteration of
`REP.U` R411 stops the thread with HC kept, where R107 and R410 let no stop take place: the stop ends the hold of the engine, as a fault
does under R108 (DESIGN CHOICE, notes/assumptions/43.md). A watchdog fault that waited for the instruction's results is not due. -/
def Dev.wpStop (d : Dev) (g : Nat) (f : Option FaultInfo) : IRes :=
  match f with
  | some x => .ended ((d.hold g x ((d.thr g).ulen - 1) none).stopNow g)
  | none => .ended (((d.updThr g (fun t => { t with wdDue := false })).endRepU g).stopNow g)

/-! ### The common part of an access -/

/-- One access: its instruction, base pair, displacement, size and kind, and its translation where that has been made: an invalidation since
leaves it as it is (R298). -/
structure MemAcc where
  i : Instr
  k : Nat
  disp : Nat
  size : Nat
  store : Bool
  at_ : Option (Nat × Attr)

/-- The faults of an access that are known before translation (R28 places 1 to 3): of the base pair, `pre` of the stored
register, and alignment. -/
def Dev.accEarly (d : Dev) (g : Nat) (x : MemAcc) (pre : List FaultInfo) : Option FaultInfo :=
  let t := d.thr g
  match firstFault ((t.baseFault x.k).toList ++ pre) with
  | some f => some { f with store := x.store }
  | none =>
    if t.va x.k x.disp % x.size ≠ 0 then some (addrFault 3 0 x.store (d.ctxOf (hearthOf g)) (t.va x.k x.disp)) else none

/-- The fault of an access decided after translation: one of its data, else of the bus; `rule` names a breach of R48 or
R323. -/
def Dev.accLate (d : Dev) (g va : Nat) (x : MemAcc) (pa : Nat) (attr : Attr) (data : Option FaultInfo) (rule : Bool) :
    Option FaultInfo :=
  match data with
  | some f => some f
  | none =>
    match d.busCheck pa attr with
    | some s => some (addrFault 6 s x.store (d.ctxOf (hearthOf g)) va)
    | none => if rule then some (addrFault 6 7 x.store (d.ctxOf (hearthOf g)) va) else none

/-- Translate and check an access, let a watchpoint stop it, and else do what `go` says with its physical address. `late` gives
the fault decided after translation, and `seen` one that only the read word raises. -/
def Dev.doAccess (d : Dev) (g : Nat) (x : MemAcc) (pre : List FaultInfo)
    (late seen : Dev → Nat → Attr → Option FaultInfo) (go : Dev → Nat → Attr → IRes) : IRes :=
  let va := (d.thr g).va x.k x.disp
  let hit := d.wpHit g va x.size x.store
  let fail := fun (f : FaultInfo) => if hit then d.wpStop g (some f) else IRes.fault f
  match d.accEarly g x pre with
  | some f => fail f
  | none =>
    match (match x.at_ with
      | some (pa, attr) => (Trans.ok pa attr, d)
      | none => d.hthTranslate (hearthOf g) va x.store) with
    | (.miss, _) => d.startWalk g x.i va
    | (.fault s, _) => fail (addrFault 4 s x.store (d.ctxOf (hearthOf g)) va)
    | (.ok pa attr, d1) =>
      match late d1 pa attr with
      | some f => fail f
      | none => if hit then d.wpStop g (seen d1 pa attr) else go d1 pa attr

/-! ### Loads -/

/-- An access of the lock window that no load makes (R323). -/
def lockRule (i : Instr) (pa : Nat) : Bool :=
  match i with
  | .ld _ _ _ _ _ => decide (pa % 8 < 4)
  | .ldp _ _ _ _ _ => decide (pa % 8 ≠ 0)
  | _ => true

/-- A load of the set-up space: one read of the register, and of its value the half or halves from the load's address on. -/
def Dev.setupLoad (d : Dev) (g pa n : Nat) : List Word × Dev :=
  let (v, d1) := d.setupRead (.thread g) (pa / 4 * 4 - 0xE000000)
  (([Word.plain (hi16 v), Word.plain (lo16 v)].drop (pa / 2 % 2)).take n, d1)

/-- Words of a program-store load window (R46). -/
def Dev.windowLoad (d : Dev) (h pa n : Nat) : List Word :=
  (List.range n).map (fun k => Word.plain ((d.progWord h ((pa / 2 + k) % 32768)).zeroExtend 16))

/-- Words read from a physical address on with the bytes that thread `g`'s engine holds of them in its write buffer (R75). -/
def Dev.overlaid (d : Dev) (g pa : Nat) (ws : List Word) : List Word :=
  ((List.range ws.length).zip ws).map (fun kw => d.overlay (engineOf g) (pa / 2 * 2 + 2 * kw.1) kw.2)

/-- The results of a load of thread `g` are on their way. -/
def Dev.loadFar (d : Dev) (g pa : Nat) (i : Instr) (ws : List Word) : IRes :=
  .block d 1 (.resp (loadPend (d.thr g) i (d.overlaid g pa ws)))

/-- A load of a program-store window: V[15:14] read as zero, also of a store that is still in the write buffer (R46). -/
def Dev.loadWindow (d : Dev) (g pa : Nat) (i : Instr) (ws : List Word) (f : FaultInfo) : IRes :=
  .block d 1 (.far (loadPend (d.thr g) i ((d.overlaid g pa ws).map (fun w => { w with v := w.v &&& 0x3FFF }))) pa f)

/-- A load through a host window: a read under a free tag; with the link down it fails (R345), and with no tag free it waits. -/
def Dev.loadHost (d : Dev) (g va w pa size : Nat) (attr : Attr) (i : Instr) : IRes :=
  if !d.linkUp then .block d 1 (.resp ⟨[], none, some (addrFault 6 5 false (d.ctxOf (hearthOf g)) va)⟩)
  else match d.hostRead (.thread g) (d.hostAddr w pa) size with
    | none => .block d 1 (.retry i [(pa, attr)])
    | some (t, d1) => .block d1 1 (.host i t pa ((d1.engn (engineOf g)).wb.filter (fun x => x.unit = pa / 8)))

/-- The result of a load that needs no fabric access. -/
def Dev.loadNear (d : Dev) (g : Nat) (i : Instr) (ws : List Word) : IRes :=
  let p := loadPend (d.thr g) i ws
  match p.fault with
  | some f => .faultAt d f
  | none => .done (d.updThr g (fun t => p.regs.foldl (fun t rw => t.set rw.1 rw.2) t))

/-- A checked load from a physical address; `p` is the pair and `upd` the update of an acquiring load. -/
def Dev.loadFrom (d : Dev) (g va : Nat) (x : MemAcc) (p : Nat) (upd : Option (Nat × Nat)) (pa : Nat) (attr : Attr) : IRes :=
  let n := (x.size + 1) / 2
  let h := hearthOf g
  match d.region pa with
  | .setup =>
    let (ws, d1) := d.setupLoad g pa n
    d1.loadFar g pa x.i ws
  | .lockWin =>
    let l := (pa - 0xF000000) / 8
    if pa % 8 = 0 then d.acquire g l p none upd (addrFault 6 7 false (d.ctxOf h) va)
    else d.loadFar g pa x.i [if pa % 8 = 4 then Word.plain (d.thr g).lockStat else d.lockPeek l]
  | .window k => d.loadWindow g pa x.i (d.windowLoad k pa n) (addrFault 6 5 false (d.ctxOf h) va)
  | .host w => d.loadHost g va w pa x.size attr x.i
  | _ =>
    if d.filling pa then .block d 1 (.retry x.i [(pa, attr)])
    else
      let (how, ws, d1) := d.hearthLoad h (some (engineOf g)) (pa / 2 * 2) n attr
      match how with
      | .near => d1.loadNear g x.i ws
      | .far => .block d1 1 (.far (loadPend (d1.thr g) x.i ws) pa (addrFault 6 5 false (d.ctxOf h) va))
      | .line la second => .block d1 1 (.line la second (loadPend (d1.thr g) x.i ws) (addrFault 6 5 false (d.ctxOf h) va))
      | .full => .block d1 1 (.retry x.i [(pa, attr)])

/-- The fault of `LDB` from a HANDLE or TICKET word (R31). -/
def Dev.byteSeen (d : Dev) (g pa : Nat) (attr : Attr) (store : Bool) : Option FaultInfo :=
  let w := d.overlay (engineOf g) (pa / 2 * 2) (d.viewWord (hearthOf g) (pa / 2 * 2) attr)
  if d.memOk pa && w.isRef then some { operandFault 1 16 0 w.v with store := store } else none

/-- The body of `LD`, `LDP` and `LDB`; `a` is the register or pair, `inBase` says that it is in the base pair, and `at_` gives the translation
that was made before. -/
def loadBody (g : Nat) (i : Instr) (exi : Exi) (a p : Nat) (u : Bool) (size : Nat) (inBase : Bool) (at_ : Option (Nat × Attr))
    (d : Dev) : IRes :=
  match memDisp exi size with
  | none => .emu
  | some disp =>
    if u && inBase then .emu else
    let t := d.thr g
    let va := t.va p disp
    let upd := if u then some (p, t.low p disp) else none
    let x : MemAcc := ⟨i, p, disp, size, false, at_⟩
    d.doAccess g x []
      (fun d pa attr => d.accLate g va x pa attr none (d.region pa == .lockWin && lockRule i pa))
      (fun d pa attr =>
        if size = 1 then d.byteSeen g pa attr false
        else if d.region pa == .lockWin && decide (pa % 8 = 0) && (d.thr g).lockBarred ((pa - 0xF000000) / 8) then
          some (addrFault 6 7 false (d.ctxOf (hearthOf g)) va)
        else none)
      (fun d pa attr => d.loadFrom g va x a upd pa attr)

/-! ### Stores -/

/-- The fault of stored words for the region they are bound for (R42, R46). -/
def Dev.storeData (d : Dev) (pa : Nat) (ws : List (Nat × Word)) : Option FaultInfo :=
  let isReg := match d.region pa with
    | .setup => true
    | .lockWin => true
    | .window _ => true
    | _ => false
  let plain := match d.region pa with
    | .packet => true
    | .host _ => true
    | .hostOff => true
    | .lpddr _ => !d.tagged pa
    | _ => false
  match ws.find? (fun w => w.2.isRef) with
  | some w =>
    if isReg || plain then some { operandFault 1 w.1 0 w.2.v with store := true } else
    (match ws.find? (fun w => w.2.isPoison) with
      | some w => if isReg then some { operandFault 2 w.1 0 w.2.v with store := true } else none
      | none => none)
  | none =>
    match ws.find? (fun w => w.2.isPoison) with
    | some w => if isReg then some { operandFault 2 w.1 0 w.2.v with store := true } else none
    | none => none

/-- The stored words of an access at a physical address, as a write-buffer entry holds them. A byte takes its half of a
word. -/
def storeWbWords (pa size : Nat) (ws : List (Nat × Word)) : List WbWord :=
  if size = 1 then
    match ws with
    | [] => []
    | w :: _ =>
      let odd := decide (pa % 2 = 1)
      [⟨pa / 2 % 4, if odd then w.2 else { w.2 with v := w.2.v <<< (8 : Nat) }, !odd, odd, false⟩]
  else wholeWords (pa / 2 % 4) (ws.map Prod.snd)

/-- A store breaks R48 or R323: less than a pair to the set-up space, or anything to the lock window. -/
def Dev.storeRule (d : Dev) (pa size : Nat) : Bool :=
  match d.region pa with
  | .setup => decide (size ≠ 4)
  | .lockWin => true
  | _ => false

/-- A checked store enters the write buffer; with all four entries in use it waits, which is no long stall (R75). -/
def Dev.storeTo (d : Dev) (g : Nat) (x : MemAcc) (ws : List (Nat × Word)) (u : Bool) (pa : Nat) (attr : Attr) : IRes :=
  let e := engineOf g
  match d.wbPush e (pa / 8) attr (storeWbWords pa x.size ws) g with
  | none => .stall
  | some d1 =>
    let d2 := if d1.cacheable pa attr then d1.streamUse e (pa / 64) false else d1
    .done (if u then d2.updThr g (fun t => t.bump x.k (t.low x.k x.disp) x.size) else d2)

/-- The body of `ST`, `STP` and `STB`, with the registers stored. -/
def storeBody (g : Nat) (i : Instr) (exi : Exi) (regs : List Nat) (p : Nat) (u : Bool) (size : Nat) (at_ : Option (Nat × Attr))
    (d : Dev) : IRes :=
  match memDisp exi size with
  | none => .emu
  | some disp =>
    let t := d.thr g
    let va := t.va p disp
    let ws := regs.map (fun r => (r, t.get r))
    let x : MemAcc := ⟨i, p, disp, size, true, at_⟩
    let pre := if size = 1 then
        (ws.filter (fun w => w.2.isRef)).map (fun w => operandFault 1 w.1 0 w.2.v)
      else []
    d.doAccess g x pre
      (fun d pa attr =>
        let data := match d.storeData pa ws with
          | some f => some f
          | none => if size = 1 then d.byteSeen g pa attr true else none
        d.accLate g va x pa attr data (d.storeRule pa size))
      (fun _ _ _ => none)
      (fun d pa attr => d.storeTo g x ws u pa attr)

/-! ### The instructions -/

/-- What a load or store does, as it issues and as it is run again, then with its address translated when it had been. -/
def memBodyAt (g : Nat) (i : Instr) (done : List (Nat × Attr)) (d : Dev) : IRes :=
  let at_ := done.head?
  match i with
  | .ld _ exi a p u => loadBody g i exi a p u 2 (decide (a.val / 2 = p.val)) at_ d
  | .ldp _ exi a p u => loadBody g i exi a p u 4 (decide (a = p)) at_ d
  | .ldb _ exi a p u => loadBody g i exi a p u 1 (decide (a.val / 2 = p.val)) at_ d
  | .st _ exi a p u => storeBody g i exi [a.val] p u 2 at_ d
  | .stp _ exi a p u => storeBody g i exi [2 * a.val, 2 * a.val + 1] p u 4 at_ d
  | .stb _ exi a p u => storeBody g i exi [a.val] p u 1 at_ d
  | .post _ a => postBody g a i done d
  | _ => .ended d

/-- What a load or store does as it issues. -/
def memBody (g : Nat) (i : Instr) (d : Dev) : IRes := memBodyAt g i [] d

/-- `LD wA, [pK + n]`. -/
def execLd (g : Thr) (exi : Exi) (a : Reg) (p : PairN) (u : Bool) (s : State) : Host.Outcome State Fault Refusal :=
  s.onDev (·.issue g exi.length true true (memBody g (.ld g exi a p u)))
/-- `ST wA, [pK + n]`. -/
def execSt (g : Thr) (exi : Exi) (a : Reg) (p : PairN) (u : Bool) (s : State) : Host.Outcome State Fault Refusal :=
  s.onDev (·.issue g exi.length true true (memBody g (.st g exi a p u)))
/-- `LDP pA, [pK + n]`. -/
def execLdp (g : Thr) (exi : Exi) (a p : PairN) (u : Bool) (s : State) : Host.Outcome State Fault Refusal :=
  s.onDev (·.issue g exi.length true true (memBody g (.ldp g exi a p u)))
/-- `STP pA, [pK + n]`. -/
def execStp (g : Thr) (exi : Exi) (a p : PairN) (u : Bool) (s : State) : Host.Outcome State Fault Refusal :=
  s.onDev (·.issue g exi.length true true (memBody g (.stp g exi a p u)))
/-- `LDB wA, [pK + n]`. -/
def execLdb (g : Thr) (exi : Exi) (a : Reg) (p : PairN) (u : Bool) (s : State) : Host.Outcome State Fault Refusal :=
  s.onDev (·.issue g exi.length true true (memBody g (.ldb g exi a p u)))
/-- `STB wA, [pK + n]`. -/
def execStb (g : Thr) (exi : Exi) (a : Reg) (p : PairN) (u : Bool) (s : State) : Host.Outcome State Fault Refusal :=
  s.onDev (·.issue g exi.length true true (memBody g (.stb g exi a p u)))

/-! ### Completions -/

/-- The translation of the access of instruction `i` of thread `g`, as it is now. -/
def Dev.accessAt (d : Dev) (g : Nat) (i : Instr) : List (Nat × Attr) :=
  let h := hearthOf g
  let t := d.thr g
  let at_ := fun (exi : Exi) (p size : Nat) =>
    match d.translate (d.hth h).tlb (d.ctxOf h) (t.va p ((memDisp exi size).getD 0)) true with
    | .ok pa attr => [(pa, attr)]
    | _ => []
  match i with
  | .st _ exi _ p _ => at_ exi p 2
  | .stp _ exi _ p _ => at_ exi p 4
  | .stb _ exi _ p _ => at_ exi p 1
  | _ => []

/-- The instruction of a thread that waited for a fabric access (cause 1) is run again, with its addresses translated when `at_` gives them. Its
fault is that of an instruction, not of a BLOCKED thread (the worked example of chapter 13); a store that finds the write buffer full keeps
the thread from issuing until it has entered. -/
def Dev.rerun (d : Dev) (g : Nat) (i : Instr) (at_ : List (Nat × Attr)) : Dev :=
  let exi := (d.thr g).ulen - 1
  let d1 := d.makeReady g
  match memBodyAt g i at_ d1 with
  | .done d2 => d2.afterCause g 1
  | .stall => d1.updThr g (fun t => { t with wait := .retry i (if at_ = [] then d1.accessAt g i else at_) })
  | r => d1.settle g exi r

/-- The half of a line fetch that thread `g` waits for has come (R273): its load completes. The second half comes after the first, for
which no thread waits any more, and completes the fetch. A load whose line can have no way yet waits for it (R275). -/
def Dev.lineResponse (d : Dev) (g la : Nat) (second : Bool) (p : Pend) : Dev :=
  let h := hearthOf g
  match d.fetchOf h la with
  | none => d.respond g p
  | some f =>
    if !d.fetchCan h la then d
    else if f.second == second then
      (d.updHth h (fun x => { x with fetches := x.fetches.map (fun y => if y.line = la then { y with got := true } else y) })).respond g p
    else if d.waitsHalf h la f.second then d
    else (d.fetchDone h la).respond g p

/-- `FABRIC_RESPONSE` (R56). -/
def execFabricResponse (g : Thr) (s : State) : Host.Outcome State Fault Refusal :=
  s.onDev (fun d =>
    match (d.thr g).wait with
    | .resp p => d.respond g p
    | .far p _ _ => d.respond g p
    | .line la second p _ => d.lineResponse g la second p
    | .retry i at_ => d.rerun g i at_
    | _ => d)

/-- A walk for thread `g` completes (R291–R296): the entry is installed and the access goes on, or its translation fault is
raised, as those of the threads that joined the walk. A walk that an invalidation passed installs nothing, and the access walks again
(R298). A walk beyond the four that run at once, or that reads a region being filled (R287), is not done. -/
def Dev.walkDone (d : Dev) (g : Nat) : Dev :=
  let h := hearthOf g
  match (d.thr g).wait with
  | .walk i va stale =>
    if !d.walking h (va / 65536) ∨ d.walkWaits (d.ctxOf h) va then d
    else if stale then
      (d.countMiss h va).updThr g (fun t => { t with wait := .walk i va false })
    else if d.translate (d.hth h).tlb (d.ctxOf h) va (isStore i) ≠ .miss then d.rerun g i []
    else
      match d.hthWalk h va (isStore i) with
      | (none, d1) => d1.rerun g i []
      | (some s, d1) => d1.walkFailed h va s
  | _ => d

/-- `TABLE_WALK_DONE`: a walk of a thread, or of bellows channel `agent` − 2048. -/
def execTableWalkDone (agent : Fin 2112) (s : State) : Host.Outcome State Fault Refusal :=
  s.onDev (fun d => if agent.val < 2048 then d.walkDone agent else d.blwWalkDone (agent - 2048))

/-- An entry bound for the set-up space writes each register that it holds (R48), for the thread that stored last. -/
def Dev.drainSetup (d : Dev) (x : WbEntry) : Dev :=
  (List.range 2).foldl (fun d k =>
    match x.words.find? (fun w => w.slot == 2 * k), x.words.find? (fun w => w.slot == 2 * k + 1) with
    | some a, some b => d.setupWrite (.thread x.g) (x.unit * 8 + 4 * k - 0xE000000) (join16 a.w.v b.w.v)
    | _, _ => d) d

/-- The oldest entry of engine `e` reaches its point of visibility (R270), unless it waits for a region being filled. One that writes a
reset of its own hearth finds the write buffer emptied (R387). -/
def Dev.drainFirst (d : Dev) (e : Nat) : Dev :=
  let x := d.engn e
  match x.wb with
  | [] => d
  | w :: _ =>
    let out := match d.region (w.unit * 8) with
      | .setup => some (d.drainSetup w)
      | _ => d.drainEntry (e / 16) w
    match out with
    | none => d
    | some d1 => (d1.updEngn e (fun y =>
        if y.wb.head? = some w then { y with wb := y.wb.drop 1, wbOut := y.wbOut + 1 } else y)).sendReleases

/-- `WRITE_BUFFER_DRAIN`: engine `e` of hearth `h`. -/
def execWriteBufferDrain (h e : Fin 16) (s : State) : Host.Outcome State Fault Refusal :=
  s.onDev (·.drainFirst (h * 16 + e))

/-- What a release operation does when it takes effect (R76): `FENCE` nothing, and `UNLOCK` nothing more. -/
def releaseBody (g : Nat) : Instr → Dev → IRes
  | .send _ a b => sendBody g a b
  | .sende _ a b => sendeBody g a b
  | .done _ => endBody g none
  | .tkrel _ a => endBody g (some a)
  | .defer _ a => deferBody g a
  | _ => fenceBody

/-- `RELEASE_EFFECT`: the stores that the engine accepted before the release operation have drained. -/
def execReleaseEffect (g : Thr) (s : State) : Host.Outcome State Fault Refusal :=
  s.onDev (fun d =>
    match (d.thr g).wait with
    | .drain i upto =>
      if d.drained (engineOf g) upto then
        let d1 := d.updThr g (fun t => { t with wait := .none })
        d1.settle g 0 (releaseBody g i d1)
      else d
    | _ => d)

/-- `TARGET_ERROR`: a target of hearth `h` reports an error on a drained store. -/
def execTargetError (h : Fin 16) (pa : BitVec 36) (s : State) : Host.Outcome State Fault Refusal :=
  s.onDev (·.targetError h pa.toNat)

end Sys2Proof.Machine
end

