-- ==== Sys2Proof/Machine/BootEnd.lean ====
section
/-!
DEFINITION. The end of a boot: the check of the image, its SETUP sections and START (R393–R395); and the end of a hearth's reset
(R281, R389).
-/
namespace Sys2Proof.Machine

open Sys2Proof.Crypto

/-! ### Hearth resets -/

/-- Every write buffer of hearth `h` drains (R281), four entries to an engine. -/
def Dev.drainHearth (d : Dev) (h : Nat) : Dev :=
  (hearthEngines h).foldl (fun d e => (List.range 4).foldl (fun d _ => d.drainFirst e) d) (d.fetchAll h)

/-- Hearth `h` comes out of its reset: held by HOLD, or until START, it stays in it (R389, R395). A forced power-down that waited for the
reset follows (R400). -/
def Dev.endReset (d : Dev) (h : Nat) : Dev :=
  let d1 := if d.bit .hthReset h 0 8 || !d.started then d.setHth h { d.hth h with reset := 3 } else d.leaveReset h
  d1.pwrAdvance d1.top.pwrq.length

/-- `HEARTH_RESET_END` (R281, R389): a soft reset drains and cleans first; it waits for a region being filled. -/
def execHearthResetEnd (h : Fin 16) (s : State) : Host.Outcome State Fault Refusal :=
  s.onDev (fun d =>
    if (d.hth h).reset = 2 then d.endReset h
    else if (d.hth h).reset = 1 then
      let d1 := d.drainHearth h
      if (hearthEngines h).all (fun e => (d1.engn e).wb.isEmpty) && !(d1.heldLines h).any (fun la => d1.filling (la * 64)) then
        (((d1.cleanAll h).clearNear h).rangeAbort h).endReset h
      else d1
    else d)

/-! ### The check of the image (R393) -/

/-- The bytes of the key hash as the fuse words 0–15 hold them, least significant byte first. -/
def fuseHash (f : Map W32) : List W8 := (List.range 16).flatMap (fun k => (toBe 4 (f.get 0 k).toNat).reverse)

/-- The failure code of a whole image, 0 when it is good: 4 CRC, 5 key hash, 6 signature. -/
def imageCheck (bs : List W8) (f : Map W32) : Nat :=
  let crcAt := bs.length - 24
  if crc32cRun 0xFFFFFFFF (bs.take crcAt) ^^^ 0xFFFFFFFF ≠ le32 bs (crcAt + 16) then 4
  else if !(f.get 0 16).getLsbD 0 then 0
  else
    let pub := (bs.drop 0x40).take 32
    let prehash := sha512 (bs.take 0x60 ++ bs.drop 0xA0)
    if le32 bs 4 / 65536 % 2 = 0 then 6
    else if sha512 pub ≠ fuseHash f then 5
    else if edVerify pub ((bs.drop 0x60).take 64) prehash then 0 else 6

/-- The sequencer's own power-on requests of R391 are done. -/
def Dev.bootPowered (d : Dev) : Bool :=
  d.top.pwrq.isEmpty && (List.range 24).all (fun k => d.domState (k + 2) != 1)

/-- SETUP entries in image order, and then START (R395). An entry that resets the device ends the boot (R400). -/
def Dev.bootStart (d : Dev) : Dev :=
  let b := d.top.boot
  let authed := (b.fuses.get 0 16).getLsbD 0
  let d1 := b.setups.foldl (fun d e => if d.top.inReset then d else d.setupWrite .boot e.1 e.2) (d.bootState 4)
  if d1.top.inReset then d1 else
  let mask := b.start.getD 0
  let d2 := (List.range 16).foldl (fun d h =>
    if mask.testBit h && !d.bit .hthReset h 0 8 && d.domOn (domHearth h) && (d.hth h).reset != 0 then d.leaveReset h else d)
    (d1.updBoot (fun x => { x with phase := .done }))
  ((d2.bootState 5).setBit .topBootStatus 0 0 19 authed).wr .topBootTime 0 0
    (BitVec.ofNat 32 ((d2.time.tick - b.released) / 100))

/-- `BOOT_CHECK` (R393, R395): of the IMAGE_LEN bytes of the image. -/
def execBootCheck (s : State) : Host.Outcome State Fault Refusal :=
  s.onDev (fun d =>
    let b := d.top.boot
    if b.phase ≠ .verify ∨ !d.bootPowered then d
    else match imageCheck (b.bytes.take (le32 b.bytes 8)) b.fuses with
      | 0 => d.bootStart
      | c => d.bootFail c)

end Sys2Proof.Machine
end

