-- ==== Sys2Proof/Machine/SetupCmds.lean ====
section
/-!
DEFINITION. The commands that are set-up accesses: each is the write of its register with the value that its row names, or a
read; and the accesses of the SPI slave (R381) and JTAG (R409).
-/
namespace Sys2Proof.Machine

/-- A command's requester. -/
def asReq : ReqArg → Req
  | .boot => .boot
  | .host => .host
  | .spi => .spi
  | .jtag => .jtag
  | .thread g => .thread g

/-- A write of register copy (i, j) by a requester. -/
def regCommand (r : ReqArg) (k : RegKind) (i j : Nat) (v : W32) (s : State) : Host.Outcome State Fault Refusal :=
  s.onDev (fun d => d.setupWrite (asReq r) (k.off i j) v)

/-- A write that repeats the register's stored value but for what `f` changes. -/
def regChange (r : ReqArg) (k : RegKind) (i j : Nat) (f : W32 → W32) (s : State) : Host.Outcome State Fault Refusal :=
  s.onDev (fun d => d.setupWrite (asReq r) (k.off i j) (f (d.rd k i j)))

/-- `SETUP_WRITE`. -/
def execSetupWrite (r : ReqArg) (off : BitVec 24) (v : W32) (s : State) : Host.Outcome State Fault Refusal :=
  s.onDev (fun d => d.setupWrite (asReq r) off.toNat v)

/-- `COUNTER_LOW_READ` (R408). -/
def execCounterLowRead (r : ReqArg) (off : BitVec 24) (s : State) : Host.Outcome State Fault Refusal :=
  s.onDev (fun d => d.setupReadTo (asReq r) off.toNat)

/-- `NOW_LO_READ` (R249). -/
def execNowLoRead (r : ReqArg) (s : State) : Host.Outcome State Fault Refusal :=
  s.onDev (fun d => d.setupReadTo (asReq r) (RegKind.off .timeNowLo 0 0))

/-- `UART_DATA_READ` (R382). -/
def execUartDataRead (r : ReqArg) (u : Fin 2) (s : State) : Host.Outcome State Fault Refusal :=
  s.onDev (fun d => d.setupReadTo (asReq r) (RegKind.off .uartData u 0))

/-- `UART_DATA_WRITE` (R382). -/
def execUartDataWrite (r : ReqArg) (u : Fin 2) (b : W8) (s : State) : Host.Outcome State Fault Refusal :=
  regCommand r .uartData u 0 (b.zeroExtend 32) s

/-! ### Thread and debug commands (R125, R129, R410) -/

/-- The value of a thread command: HTH.THR_CMD and DBG.THR_CMD agree in ACTION and THREAD. -/
def threadCmd (action i high : Nat) : W32 := BitVec.ofNat 32 (high * 32768 + action * 256 + i)

/-- `START`. -/
def execStart (r : ReqArg) (h : Fin 16) (i : Fin 128) (pc : BitVec 15) (s : State) : Host.Outcome State Fault Refusal :=
  regCommand r .hthThrCmd h 0 (threadCmd 1 i pc.toNat) s
/-- `RESUME`. -/
def execResume (r : ReqArg) (h : Fin 16) (i : Fin 128) (s : State) : Host.Outcome State Fault Refusal :=
  regCommand r .hthThrCmd h 0 (threadCmd 2 i 0) s
/-- `SKIP`. -/
def execSkip (r : ReqArg) (h : Fin 16) (i : Fin 128) (s : State) : Host.Outcome State Fault Refusal :=
  regCommand r .hthThrCmd h 0 (threadCmd 3 i 0) s
/-- `KILL` (R126). -/
def execKill (r : ReqArg) (h : Fin 16) (i : Fin 128) (s : State) : Host.Outcome State Fault Refusal :=
  regCommand r .hthThrCmd h 0 (threadCmd 4 i 0) s
/-- `TSR_WRITE`. -/
def execTsrWrite (r : ReqArg) (h : Fin 16) (i : Fin 128) (word : Fin 32) (v : W32) (s : State) :
    Host.Outcome State Fault Refusal := regCommand r .hthTsr h (i * 32 + word) v s

/-- A write of DBG.THR_CMD. -/
def debugCmd (r : ReqArg) (action : Nat) (h : Fin 16) (i : Fin 128) (s : State) : Host.Outcome State Fault Refusal :=
  regCommand r .dbgThrCmd 0 0 (threadCmd action i (2 * h)) s
/-- `DEBUG_STOP`. -/
def execDebugStop (r : ReqArg) (h : Fin 16) (i : Fin 128) (s : State) : Host.Outcome State Fault Refusal := debugCmd r 1 h i s
/-- `DEBUG_RUN`. -/
def execDebugRun (r : ReqArg) (h : Fin 16) (i : Fin 128) (s : State) : Host.Outcome State Fault Refusal := debugCmd r 2 h i s
/-- `DEBUG_STEP`. -/
def execDebugStep (r : ReqArg) (h : Fin 16) (i : Fin 128) (s : State) : Host.Outcome State Fault Refusal := debugCmd r 3 h i s
/-- `GROUP_STOP`. -/
def execGroupStop (r : ReqArg) (mask : W16) (s : State) : Host.Outcome State Fault Refusal :=
  regCommand r .dbgGroup 0 0 (join16 0x8000 mask) s
/-- `GROUP_RUN`. -/
def execGroupRun (r : ReqArg) (mask : W16) (s : State) : Host.Outcome State Fault Refusal :=
  regCommand r .dbgGroup 0 0 (join16 0x4000 mask) s

/-! ### The flow table (R141) -/

/-- `FLOW_INVAL`. -/
def execFlowInval (r : ReqArg) (s : State) : Host.Outcome State Fault Refusal := regCommand r .dspFlowCmd 0 0 1 s
/-- `FLOW_CLR_ALL`. -/
def execFlowClrAll (r : ReqArg) (s : State) : Host.Outcome State Fault Refusal := regCommand r .dspFlowCmd 0 0 2 s
/-- `FLOW_CLR_HEARTH`. -/
def execFlowClrHearth (r : ReqArg) (h : Fin 16) (s : State) : Host.Outcome State Fault Refusal :=
  regCommand r .dspFlowCmd 0 0 (BitVec.ofNat 32 (h * 256 + 4)) s

/-! ### Ports, MACsec and kindlers -/

/-- `PORT_MODE_CHANGE` (R158). -/
def execPortModeChange (r : ReqArg) (p : Fin 32) (v : W32) (s : State) : Host.Outcome State Fault Refusal :=
  regCommand r .prtMode p 0 v s
/-- `COMMIT_SC` (R173). -/
def execCommitSc (r : ReqArg) (s : State) : Host.Outcome State Fault Refusal := regCommand r .msecCmd 0 0 1 s
/-- `COMMIT_SA` (R173). -/
def execCommitSa (r : ReqArg) (s : State) : Host.Outcome State Fault Refusal := regCommand r .msecCmd 0 0 2 s
/-- `MSEC_READ` (R173). -/
def execMsecRead (r : ReqArg) (s : State) : Host.Outcome State Fault Refusal := regCommand r .msecCmd 0 0 4 s
/-- `PROG_STORE_WRITE` (R180). -/
def execProgStoreWrite (r : ReqArg) (m : Fin 4) (lo : W32) (s : State) : Host.Outcome State Fault Refusal :=
  regCommand r .kndProgLo m 0 lo s

/-! ### The update port (R198) -/

/-- A write of MIL.UPD_CMD. -/
def updateCommand (r : ReqArg) (m : Fin 4) (op stone : Nat) (bank clr : Bool) (s : State) : Host.Outcome State Fault Refusal :=
  regCommand r .milUpdCmd m 0 (BitVec.ofNat 32 (stone * 256 + oneBit clr 7 + oneBit bank 4 + op)) s
/-- `INSERT`. -/
def execInsert (r : ReqArg) (m : Fin 4) (stone : Fin 8) (bank : Bool) (s : State) : Host.Outcome State Fault Refusal :=
  updateCommand r m 1 stone bank false s
/-- `DELETE`. -/
def execDelete (r : ReqArg) (m : Fin 4) (stone : Fin 8) (bank : Bool) (s : State) : Host.Outcome State Fault Refusal :=
  updateCommand r m 2 stone bank false s
/-- `MODIFY`. -/
def execModify (r : ReqArg) (m : Fin 4) (stone : Fin 8) (bank : Bool) (s : State) : Host.Outcome State Fault Refusal :=
  updateCommand r m 3 stone bank false s
/-- `LOOKUP`. -/
def execLookup (r : ReqArg) (m : Fin 4) (stone : Fin 8) (bank : Bool) (s : State) : Host.Outcome State Fault Refusal :=
  updateCommand r m 4 stone bank false s
/-- `TCAM_WRITE`. -/
def execTcamWrite (r : ReqArg) (m : Fin 4) (s : State) : Host.Outcome State Fault Refusal := updateCommand r m 5 0 false false s
/-- `TCAM_DISABLE`. -/
def execTcamDisable (r : ReqArg) (m : Fin 4) (s : State) : Host.Outcome State Fault Refusal := updateCommand r m 6 0 false false s
/-- `MISS_WRITE`. -/
def execMissWrite (r : ReqArg) (m : Fin 4) (stone : Fin 8) (bank : Bool) (s : State) : Host.Outcome State Fault Refusal :=
  updateCommand r m 7 stone bank false s
/-- `PSET_WRITE`. -/
def execPsetWrite (r : ReqArg) (m : Fin 4) (s : State) : Host.Outcome State Fault Refusal := updateCommand r m 8 0 false false s
/-- `STREAM_WRITE`. -/
def execStreamWrite (r : ReqArg) (m : Fin 4) (s : State) : Host.Outcome State Fault Refusal := updateCommand r m 9 0 false false s
/-- `SF_WRITE`. -/
def execSfWrite (r : ReqArg) (m : Fin 4) (s : State) : Host.Outcome State Fault Refusal := updateCommand r m 10 0 false false s
/-- `SG_WRITE`. -/
def execSgWrite (r : ReqArg) (m : Fin 4) (s : State) : Host.Outcome State Fault Refusal := updateCommand r m 11 0 false false s
/-- `FM_WRITE`. -/
def execFmWrite (r : ReqArg) (m : Fin 4) (s : State) : Host.Outcome State Fault Refusal := updateCommand r m 12 0 false false s
/-- `RCV_WRITE`. -/
def execRcvWrite (r : ReqArg) (m : Fin 4) (s : State) : Host.Outcome State Fault Refusal := updateCommand r m 13 0 false false s
/-- `CNT_READ`. -/
def execCntRead (r : ReqArg) (m : Fin 4) (clr : Bool) (s : State) : Host.Outcome State Fault Refusal :=
  updateCommand r m 14 0 false clr s

/-! ### The chimney and time -/

/-- `GCL_DATA_WRITE` (R235). -/
def execGclDataWrite (r : ReqArg) (lo : W32) (s : State) : Host.Outcome State Fault Refusal :=
  regCommand r .chmGclDataLo 0 0 lo s
/-- `CONFIG_CHANGE` (R237). -/
def execConfigChange (r : ReqArg) (p : Fin 32) (s : State) : Host.Outcome State Fault Refusal :=
  regChange r .chmGateCtrl p 0 (· ||| 0x40000000) s
/-- `CANCEL` of a gate change (R238). -/
def execCancelGateChange (r : ReqArg) (p : Fin 32) (s : State) : Host.Outcome State Fault Refusal :=
  regChange r .chmGateCtrl p 0 (· ||| 0x20000000) s
/-- `TXTS_POP` (R245). -/
def execTxtsPop (r : ReqArg) (p : Fin 32) (s : State) : Host.Outcome State Fault Refusal := regCommand r .timeTxtsPop p 0 1 s
/-- `GEN_RESET` (R242). -/
def execGenReset (r : ReqArg) (i : Fin 512) (s : State) : Host.Outcome State Fault Refusal :=
  regChange r .chmGen i 0 (· ||| 0x40000000) s
/-- `SET` (R248). -/
def execSet (r : ReqArg) (s : State) : Host.Outcome State Fault Refusal := regCommand r .timeCmd 0 0 1 s
/-- `STEP` (R248). -/
def execStep (r : ReqArg) (s : State) : Host.Outcome State Fault Refusal := regCommand r .timeCmd 0 0 2 s

/-! ### Pools, caches and memory -/

/-- `POOL_ENABLE` (R254). -/
def execPoolEnable (r : ReqArg) (n : Fin 8) (pad : W8) (s : State) : Host.Outcome State Fault Refusal :=
  regCommand r .bpmPoolCfg n 0 (BitVec.ofNat 32 (2 ^ 31 + pad.toNat)) s

/-- A write of HTH.RNG_CMD with GO. -/
def rangeCommand (r : ReqArg) (h : Fin 16) (op : Nat) (all force evt : Bool) (s : State) : Host.Outcome State Fault Refusal :=
  regCommand r .hthRngCmd h 0 (BitVec.ofNat 32 (2 ^ 31 + oneBit evt 9 + oneBit all 8 + oneBit force 4 + op)) s
/-- `RANGE_CLEAN` (R276). -/
def execRangeClean (r : ReqArg) (h : Fin 16) (all force evt : Bool) (s : State) : Host.Outcome State Fault Refusal :=
  rangeCommand r h 1 all force evt s
/-- `RANGE_INVAL` (R276). -/
def execRangeInval (r : ReqArg) (h : Fin 16) (all force evt : Bool) (s : State) : Host.Outcome State Fault Refusal :=
  rangeCommand r h 2 all force evt s
/-- `RANGE_CLEAN_INVAL` (R276). -/
def execRangeCleanInval (r : ReqArg) (h : Fin 16) (all force evt : Bool) (s : State) : Host.Outcome State Fault Refusal :=
  rangeCommand r h 3 all force evt s
/-- `RANGE_LOCK` (R276). -/
def execRangeLock (r : ReqArg) (h : Fin 16) (all force evt : Bool) (s : State) : Host.Outcome State Fault Refusal :=
  rangeCommand r h 4 all force evt s

/-- `MC_ENABLE` (R285): MEM.MC[c].CFG with EN = 1. -/
def execMcEnable (r : ReqArg) (c : Fin 4) (v : W32) (s : State) : Host.Outcome State Fault Refusal :=
  regCommand r .memMcCfg c 0 (v ||| 0x80000000) s
/-- `REGION_INIT` (R287). -/
def execRegionInit (r : ReqArg) (n : Fin 16) (en kind : Bool) (s : State) : Host.Outcome State Fault Refusal :=
  regCommand r .memRegCtrl n 0 (BitVec.ofNat 32 (oneBit en 31 + oneBit kind 30 + 2 ^ 29)) s

/-- A write of MMU.TLBI_CMD with GO. -/
def tlbiCommand (r : ReqArg) (op ctx : Nat) (evt : Bool) (s : State) : Host.Outcome State Fault Refusal :=
  regCommand r .mmuTlbiCmd 0 0 (BitVec.ofNat 32 (2 ^ 31 + ctx * 256 + oneBit evt 7 + op)) s
/-- `TLBI_ALL` (R297). -/
def execTlbiAll (r : ReqArg) (evt : Bool) (s : State) : Host.Outcome State Fault Refusal := tlbiCommand r 1 0 evt s
/-- `TLBI_CONTEXT` (R297). -/
def execTlbiContext (r : ReqArg) (ctx : Fin 32) (evt : Bool) (s : State) : Host.Outcome State Fault Refusal :=
  tlbiCommand r 2 ctx evt s
/-- `TLBI_ADDRESS` (R297). -/
def execTlbiAddress (r : ReqArg) (ctx : Fin 32) (evt : Bool) (s : State) : Host.Outcome State Fault Refusal :=
  tlbiCommand r 3 ctx evt s

/-! ### The bellows (R307, R319) -/

/-- `BLW_TAIL_WRITE`. -/
def execBlwTailWrite (r : ReqArg) (n : Fin 64) (v : W16) (s : State) : Host.Outcome State Fault Refusal :=
  regCommand r .blwTail n 0 (v.zeroExtend 32) s
/-- `BLW_PAUSE`. -/
def execBlwPause (r : ReqArg) (n : Fin 64) (s : State) : Host.Outcome State Fault Refusal := regCommand r .blwCmd n 0 1 s
/-- `BLW_RESUME`. -/
def execBlwResume (r : ReqArg) (n : Fin 64) (s : State) : Host.Outcome State Fault Refusal := regCommand r .blwCmd n 0 2 s
/-- `BLW_ABORT`. -/
def execBlwAbort (r : ReqArg) (n : Fin 64) (s : State) : Host.Outcome State Fault Refusal := regCommand r .blwCmd n 0 4 s
/-- `BLW_RESET`. -/
def execBlwReset (r : ReqArg) (n : Fin 64) (s : State) : Host.Outcome State Fault Refusal := regCommand r .blwCmd n 0 8 s

/-! ### Keys and patterns (R340) -/

/-- `KEY_COMMIT`. -/
def execKeyCommit (r : ReqArg) (h : Fin 16) (s : State) : Host.Outcome State Fault Refusal := regCommand r .hthKeyCmd h 0 1 s
/-- `KEY_ERASE`. -/
def execKeyErase (r : ReqArg) (h : Fin 16) (s : State) : Host.Outcome State Fault Refusal := regCommand r .hthKeyCmd h 0 2 s
/-- `PATTERN_COMMIT`. -/
def execPatternCommit (r : ReqArg) (h : Fin 16) (s : State) : Host.Outcome State Fault Refusal := regCommand r .hthPatCmd h 0 1 s
/-- `PATTERN_READ`. -/
def execPatternRead (r : ReqArg) (h : Fin 16) (s : State) : Host.Outcome State Fault Refusal := regCommand r .hthPatCmd h 0 2 s

/-! ### The link and the rings -/

/-- `LINK_ENABLE` (R343). -/
def execLinkEnable (r : ReqArg) (maxw : BitVec 2) (s : State) : Host.Outcome State Fault Refusal :=
  regChange r .lnkCtrl 0 0 (fun v => setBits v 29 28 maxw.toNat ||| 0x80000000) s
/-- `RETRAIN` (R344). -/
def execRetrain (r : ReqArg) (s : State) : Host.Outcome State Fault Refusal := regChange r .lnkCtrl 0 0 (· ||| 0x40000000) s
/-- `RING_ENABLE` (R359): LNK.RING[n].CFG with EN = 1. -/
def execRingEnable (r : ReqArg) (n : Fin 1024) (v : W32) (s : State) : Host.Outcome State Fault Refusal :=
  regCommand r .lnkRingCfg n 0 (v ||| 0x80000000) s
/-- `RING_DISABLE` (R367). -/
def execRingDisable (r : ReqArg) (n : Fin 1024) (s : State) : Host.Outcome State Fault Refusal :=
  regChange r .lnkRingCfg n 0 (· &&& 0x7FFFFFFF) s
/-- `DOORBELL` (R360): a doorbell of ring `n`. -/
def execDoorbell (r : ReqArg) (n : Fin 1024) (v : W32) (s : State) : Host.Outcome State Fault Refusal :=
  regCommand r .lnkDoorbell 0 0 (setBits v 9 0 n) s
/-- `MSI_SEND` (R369). -/
def execMsiSend (r : ReqArg) (v : W8) (s : State) : Host.Outcome State Fault Refusal :=
  regCommand r .lnkMsiSend 0 0 (BitVec.ofNat 32 (2 ^ 31 + v.toNat)) s

/-! ### CAN and the local interfaces -/

/-- `REC_GO` (R378). -/
def execRecGo (r : ReqArg) (c : Fin 32) (s : State) : Host.Outcome State Fault Refusal := regCommand r .canCmd c 0 1 s
/-- `TX_FLUSH` (R378). -/
def execTxFlush (r : ReqArg) (c : Fin 32) (s : State) : Host.Outcome State Fault Refusal := regCommand r .canCmd c 0 2 s
/-- `XSPI_GO` (R380): `len` is the LEN field, one less than the bytes. -/
def execXspiGo (r : ReqArg) (dir : Bool) (len : W16) (s : State) : Host.Outcome State Fault Refusal :=
  regCommand r .xspiCmd 0 0 (BitVec.ofNat 32 (2 ^ 31 + oneBit dir 29 + len.toNat)) s

/-- A write of MDIO.CMD (R384). -/
def mdioCommand (r : ReqArg) (m : Fin 2) (op : Nat) (c45 : Bool) (prtad devad : BitVec 5) (data : W16) (s : State) :
    Host.Outcome State Fault Refusal :=
  regCommand r .mdioCmd m 0 (BitVec.ofNat 32 (oneBit c45 30 + op * 2 ^ 28 + prtad.toNat * 2 ^ 23 + devad.toNat * 2 ^ 18 +
    data.toNat)) s
/-- `MDIO_ADDRESS`. -/
def execMdioAddress (r : ReqArg) (m : Fin 2) (c45 : Bool) (prtad devad : BitVec 5) (data : W16) (s : State) :
    Host.Outcome State Fault Refusal := mdioCommand r m 0 c45 prtad devad data s
/-- `MDIO_WRITE`. -/
def execMdioWrite (r : ReqArg) (m : Fin 2) (c45 : Bool) (prtad devad : BitVec 5) (data : W16) (s : State) :
    Host.Outcome State Fault Refusal := mdioCommand r m 1 c45 prtad devad data s
/-- `MDIO_READ`, with OP 0b10. -/
def execMdioRead (r : ReqArg) (m : Fin 2) (c45 : Bool) (prtad devad : BitVec 5) (s : State) :
    Host.Outcome State Fault Refusal := mdioCommand r m 2 c45 prtad devad 0 s

/-! ### Reset, boot, power, counters -/

/-- `RESET_CMD_DEVICE` (R386). -/
def execResetCmdDevice (r : ReqArg) (s : State) : Host.Outcome State Fault Refusal :=
  regCommand r .topResetCmd 0 0 0x0A550001 s
/-- `HEARTH_SOFT_RESET` (R281, R389). -/
def execHearthSoftReset (r : ReqArg) (h : Fin 16) (hold : Bool) (s : State) : Host.Outcome State Fault Refusal :=
  regCommand r .hthReset h 0 (BitVec.ofNat 32 (oneBit hold 8 + 1)) s
/-- `HEARTH_HARD_RESET` (R281, R389). -/
def execHearthHardReset (r : ReqArg) (h : Fin 16) (hold : Bool) (s : State) : Host.Outcome State Fault Refusal :=
  regCommand r .hthReset h 0 (BitVec.ofNat 32 (oneBit hold 8 + 2)) s
/-- `HEARTH_HOLD_RELEASE` (R389). -/
def execHearthHoldRelease (r : ReqArg) (h : Fin 16) (s : State) : Host.Outcome State Fault Refusal :=
  regCommand r .hthReset h 0 0 s
/-- `BOOT_CMD_GO` (R396). -/
def execBootCmdGo (r : ReqArg) (src : BitVec 2) (s : State) : Host.Outcome State Fault Refusal :=
  regCommand r .topBootCmd 0 0 (BitVec.ofNat 32 (2 ^ 31 + src.toNat)) s
/-- `BOOT_DATA_WRITE` (R391). -/
def execBootDataWrite (r : ReqArg) (v : W32) (s : State) : Host.Outcome State Fault Refusal := regCommand r .topBootData 0 0 v s
/-- `POWER_ON_REQUEST` (R398). -/
def execPowerOnRequest (r : ReqArg) (dom : BitVec 6) (clear : Bool) (s : State) : Host.Outcome State Fault Refusal :=
  regCommand r .pwrCmd 0 0 (BitVec.ofNat 32 (2 ^ 31 + oneBit clear 9 + 128 + dom.toNat)) s
/-- `POWER_OFF_REQUEST` (R399). -/
def execPowerOffRequest (r : ReqArg) (dom : BitVec 6) (force : Bool) (s : State) : Host.Outcome State Fault Refusal :=
  regCommand r .pwrCmd 0 0 (BitVec.ofNat 32 (2 ^ 31 + oneBit force 8 + dom.toNat)) s
/-- `CLR_ERR` (R407). -/
def execClrErr (r : ReqArg) (mask : BitVec 20) (s : State) : Host.Outcome State Fault Refusal :=
  regCommand r .errClrErr 0 0 (mask.zeroExtend 32) s

/-! ### The SPI slave and JTAG (R381, R409) -/

/-- `SPI_WRITE`. -/
def execSpiWrite (off : BitVec 24) (v : W32) (s : State) : Host.Outcome State Fault Refusal :=
  s.onDev (fun d => d.setupWrite .spi off.toNat v)
/-- `SPI_READ`. -/
def execSpiRead (off : BitVec 24) (s : State) : Host.Outcome State Fault Refusal :=
  s.onDev (fun d => d.setupReadTo .spi off.toNat)
/-- `SPI_BAD_TRANSACTION`: discarded and counted. -/
def execSpiBadTransaction (s : State) : Host.Outcome State Fault Refusal :=
  s.onDev (fun d => if d.top.inReset then d else d.count .spiErr)
/-- `DBGACC`: one set-up read or write. Nothing is answered while JTAG_EN is 0. -/
def execDbgacc (write : Bool) (off : BitVec 24) (v : W32) (s : State) : Host.Outcome State Fault Refusal :=
  s.onDev (fun d =>
    if !d.reaches .jtag then d else if write then d.setupWrite .jtag off.toNat v else d.setupReadTo .jtag off.toNat)

end Sys2Proof.Machine
end

