-- ==== Sys2Proof/Machine/Card.lean ====
section
/-!
DEFINITION. What arrives from the FB-8 card (R349–R356): the messages that its flits complete.
-/
namespace Sys2Proof.Machine

/-- A card request that BAR0 does not take: not aligned, not four bytes, or beyond the set-up space. -/
def barBad (addr len : Nat) : Bool := addr % 4 != 0 || len != 4 || decide (0xFFFFFF < addr)

/-- A completion for the card: OK with a register's value, or UR. -/
def Dev.answerCard (d : Dev) (tag : Nat) (v : Option W32) : Dev :=
  match v with
  | some x => d.sendFlits ((.cpl 0 4 tag, 2) :: dataFlits 2 (leWords x) 1)
  | none => d.sendFlits [(.cpl 1 0 tag, 2)]

/-- A memory write of the card (R356): the set-up write at its offset. One whose data the host poisoned is counted and not made
(DESIGN CHOICE, notes/assumptions/54.md). -/
def Dev.cardWrite (d : Dev) (addr len : Nat) (ws : List Word) : Dev :=
  if barBad addr len then d.count .lnkBarErr
  else if ws.any Word.isPoison then d.count .lnkPoisonRx
  else d.setupWrite .host addr (leField ws 0)

/-- A memory read of the card (R356): the set-up read at its offset, and its completion. -/
def Dev.cardRead (d : Dev) (addr len tag : Nat) : Dev :=
  if barBad addr len then (d.count .lnkBarErr).answerCard tag none
  else
    let (v, d1) := d.setupRead .host addr
    { d1 with answers := d1.answers.set 0 1 v }.answerCard tag (some v)

/-- A completion of the card (R354). -/
def Dev.cardCpl (d : Dev) (status len tag : Nat) (ws : List Word) : Dev :=
  match d.readOut tag with
  | none => d.protoErr
  | some x =>
    if status ≠ 0 then (d.count .lnkCplErr).readFails tag x false
    else if len ≠ x.len then d.protoErr
    else d.readAnswered tag x ws

/-- What a completed message does. -/
def Dev.cardMsg (d : Dev) (m : CardMsg) : Dev :=
  match m with
  | .none => d
  | .mwr addr len ws => d.cardWrite addr len ws
  | .mrd addr len tag => d.cardRead addr len tag
  | .refused tag => d.answerCard tag none
  | .cpl status len tag ws => d.cardCpl status len tag ws
  | .broken tag =>
    match d.readOut tag with
    | some x => d.readFails tag x false
    | none => d
  | .lctl sub typ count =>
    if sub = 3 then d.fastRetrain
    else if 3 ≤ typ then d.protoErr
    else { d with lnk := { d.lnk with txCredit := d.lnk.txCredit.set 0 typ (if sub = 1 then count else 0) } }

/-- Flits arrive in order. -/
def Dev.flitsIn (d : Dev) (fs : List Flit) : Dev :=
  fs.foldl (fun d x => let (m, d1) := d.flitTake x; d1.cardMsg m) d

/-- `CARD_MWR` (R356). -/
def execCardMwr (fs : List Flit) (s : State) : Host.Outcome State Fault Refusal := s.onDev (·.flitsIn fs)
/-- `CARD_MRD` (R356). -/
def execCardMrd (x : Flit) (s : State) : Host.Outcome State Fault Refusal := s.onDev (·.flitsIn [x])
/-- `HOST_CPL` (R354). -/
def execHostCpl (fs : List Flit) (s : State) : Host.Outcome State Fault Refusal := s.onDev (·.flitsIn fs)
/-- `NOP_FLIT` (R353): its acknowledgement and credits count; its sequence number does not. -/
def execNopFlit (x : Flit) (s : State) : Host.Outcome State Fault Refusal := s.onDev (·.flitsIn [x])
/-- `CREDIT_INIT` (R351): the card advertises its credits of a type. -/
def execCreditInit (x : Flit) (s : State) : Host.Outcome State Fault Refusal := s.onDev (·.flitsIn [x])
/-- `CREDIT_RESET` (R354): the card takes back the credits of a type. -/
def execCreditReset (x : Flit) (s : State) : Host.Outcome State Fault Refusal := s.onDev (·.flitsIn [x])
/-- `RETRAIN_REQ` (R344). -/
def execRetrainReq (x : Flit) (s : State) : Host.Outcome State Fault Refusal := s.onDev (·.flitsIn [x])
/-- `BAD_CRC_FLIT` (R353, R354). -/
def execBadCrcFlit (x : Flit) (s : State) : Host.Outcome State Fault Refusal := s.onDev (·.flitsIn [x])

end Sys2Proof.Machine
end

