-- ==== Sys2Proof/Machine/Damage.lean ====
section
/-!
DEFINITION. Uncorrectable errors of the structures that the device cannot carry on as POISON (R403): their fatal records, and contents that
are undefined until a device reset. A TICKCLK finds what is latent (DESIGN CHOICE, notes/assumptions/41.md).
-/

namespace Sys2Proof.Config

/-! The contents of a structure that is lost, by free-value index and instance. -/

opaque lostDispatcher : Nat → Machine.DspSt
opaque lostRelease : Nat → Machine.RelSt
opaque lostQueues : Nat → Map Machine.ChmQ
opaque lostLocks : Nat → Machine.LckSt
opaque lostBuffer : Nat → Machine.Buf
opaque lostProgram : Nat → BitVec 14
opaque lostScs : Nat → Map Machine.MsecSc
opaque lostSas : Nat → Map Machine.MsecSa
opaque lostHash : Nat → Map W16
opaque lostTcam : Nat → Map (Option Machine.Tcam)

end Sys2Proof.Config

namespace Sys2Proof.Machine

/-- The block of a structure's record (R401, R403). -/
def damageBlock (s : Nat) : Nat := [0, 7, 8, 9, 12, 10, 18, 5, 6].getD s 0

/-- The STATE_UNCORR record of an error, and the structure is lost. -/
def Dev.reportDamage (d : Dev) (x : Nat × Nat × Nat) : Dev :=
  let d1 := d.log4 3 (damageBlock x.1) 0x20 x.2.1 (w16 x.1) (w16 (x.2.2 / 65536)) (w16 x.2.2)
  if d1.damage.lost.contains x then d1 else { d1 with damage := { d1.damage with lost := d1.damage.lost ++ [x] } }

/-- The contents of a lost structure: any. -/
def Dev.lostContents (d : Dev) (x : Nat × Nat × Nat) : Dev :=
  let f := d.time.free
  let d1 := { d with time := { d.time with free := f + 1 } }
  match x.1 with
  | 1 => { d1 with dsp := Config.lostDispatcher f }
  | 2 => { d1 with rel := Config.lostRelease f }
  | 3 => { d1 with chm := { d1.chm with queues := Config.lostQueues f } }
  | 4 => { d1 with lck := Config.lostLocks f }
  | 5 => d1.setBuf (x.2.2 / 65536) (x.2.2 % 65536) (Config.lostBuffer f)
  | 6 => { d1 with mem := { d1.mem with prog := d1.mem.prog.set 0 (x.2.1 * 32768 + x.2.2 % 32768) (Config.lostProgram f) } }
  | 7 => { d1 with prt := { d1.prt with scs := Config.lostScs f, sas := Config.lostSas f } }
  | 8 => d1.setMill x.2.1 { d1.mill x.2.1 with hash := Config.lostHash f, tcam := Config.lostTcam f }
  | _ => d1

/-- Latent errors are found and reported; what is lost holds anything. -/
def Dev.tickDamage (d : Dev) : Dev :=
  let d1 := d.damage.latent.foldl Dev.reportDamage { d with damage := { d.damage with latent := [] } }
  d1.damage.lost.foldl Dev.lostContents d1

end Sys2Proof.Machine
end

