-- ==== Sys2Proof/Machine/Tick.lean ====
section
/-!
DEFINITION. What a TICKCLK edge does: device time (R247, R248), watchdogs (R119), stillness (R127), starvation (R140), the mills'
stalls (R132, R149, R154), line fetches (R273), the smithies (R334) and the link's queues (R350, R352). One TICKCLK is 15 ENGCLK, 12 MILLCLK and 10 FABCLK (R23).
-/
namespace Sys2Proof.Machine

/-- Device time in 2^-32 ns after one advance of R247. -/
def Dev.advanced (d : Dev) : Nat :=
  (d.time.ns.toNat * 2 ^ 32 + d.time.frac.toNat + 10 * 2 ^ 32 + ((d.rd .timeRate).signExtend 96).toNat) % 2 ^ 96

/-- Device time and its fraction at the next TICKCLK: SET loads a time in place of the advance, STEP adds to it (R248). -/
def Dev.nextTime (d : Dev) : W64 × W32 :=
  let (ns, frac) : W64 × W32 := match d.time.setPend with
    | some v => (v, 0)
    | none => (BitVec.ofNat 64 (d.advanced / 2 ^ 32), BitVec.ofNat 32 d.advanced)
  (ns + d.time.stepPend.getD 0, frac)

/-- The breaks of the time after the next TICKCLK: a new rate begins with the advance of that TICKCLK, a SET or STEP jumps at its end. -/
def Dev.nextBreaks (d : Dev) : List (Nat × Int × W32) :=
  let rate := d.rd .timeRate
  let old := d.time.breaks.filter (fun x => decide (d.time.tick - x.1 < 2 ^ 32 / 10))
  let b := if rate = d.time.rate then old else (d.time.tick, 0, d.time.rate) :: old
  if d.time.setPend.isSome || d.time.stepPend.isSome then
    (d.time.tick + 1, ((d.nextTime.1.toNat * 2 ^ 32 + d.nextTime.2.toNat : Nat) : Int) - d.advanced, rate) :: b
  else b

/-- The time moves on; a SET or STEP that takes effect clears BUSY, and gate lists and delay lists follow the new time at
once. -/
def Dev.tickTime (d : Dev) : Dev :=
  if d.top.inReset then { d with time := { d.time with tick := d.time.tick + 1 } }
  else
    let n := d.nextTime
    let moved := d.time.setPend.isSome || d.time.stepPend.isSome
    let d0 := if moved then d.tickCommit else d
    let d1 := { d0 with time := { d0.time with
      ns := n.1, frac := n.2, tick := d0.time.tick + 1, setPend := none, stepPend := none, rate := d.rd .timeRate,
      breaks := d.nextBreaks } }
    if moved then ((d1.setBit .timeCmd 0 0 8 false).tickRebase).timeMoved else d1

/-- The watchdogs count (R119). -/
def Dev.tickWatchdogs (d : Dev) : Dev :=
  { d with eng := { d.eng with threads := ⟨d.eng.threads.entries.map (fun e =>
      let t := e.2
      if e.1 % 128 ≠ 0 ∧ t.task.isSome ∧ t.st ≠ .off ∧ t.st ≠ .held ∧ !t.stop then (e.1, { t with wdog := t.wdog + 15 })
      else e)⟩ } }

/-- Stillness counts while it lasts (R127). -/
def Dev.tickStill (d : Dev) : Dev :=
  (List.range 16).foldl (fun d h =>
    if d.isStill h then d.updHth h (fun x => { x with still := x.still + 15 }) else d.stir h) d

/-- Since when a hearth wants threads for its ready tasks (R140). -/
def Dev.tickStarved (d : Dev) : Dev :=
  (List.range 16).foldl (fun d h =>
    let old := d.dsp.starved.get 0 h
    let new := if d.wanting h then (if old = 0 then d.time.tick + 1 else old) else 0
    if new = old then d else { d with dsp := { d.dsp with starved := d.dsp.starved.set 0 h new } }) d

/-- The MILLCLK in which a mill forms no task are counted by their cause (R132, R149, R154). -/
def Dev.tickStalls (d : Dev) : Dev :=
  let causes := (List.range 4).flatMap (fun m => match (d.mill m).banked with
    | [] => []
    | b :: _ => d.formStop b)
  let d1 := if causes.contains 1 && d.bit .dspCtrl 0 0 0 then d.count .dspStallSlot 0 0 12 else d
  let d2 := if causes.contains 2 then d1.count .relStallTicket 0 0 12 else d1
  if causes.contains 3 then d2.count .relStallDeadline 0 0 12 else d2

/-- The key commands of the hearths are over (R340, notes/assumptions/46.md). -/
def Dev.tickKeys (d : Dev) : Dev :=
  (List.range 16).foldl (fun d h => if d.bit .hthKeyCmd h 0 8 then d.setBit .hthKeyCmd h 0 8 false else d) d

/-- One TICKCLK edge. -/
def Dev.tick (d : Dev) : Dev := ((((((((((((d.tickTime).tickDamage).tickWatchdogs).tickStill).tickStarved).tickStalls).tickKeys).tickCuts).tickFetches).tickSmithy).tickCopies).tickRings).lnkTick

/-- `TIME_CHANGE_APPLY` (R248): the TICKCLK at which a pending SET or STEP takes effect. -/
def execTimeChangeApply (s : State) : Host.Outcome State Fault Refusal :=
  s.onDev (fun d => if d.time.setPend.isSome || d.time.stepPend.isSome then d.tick else d)

end Sys2Proof.Machine
end

