-- ==== Sys2Proof/Machine/Dispatch.lean ====
section
/-!
DEFINITION. The dispatch of a command to its meaning: one arm per constructor.
-/
namespace Sys2Proof.Machine

def exec (i : Instr) (s : State) : Host.Outcome State Fault Refusal :=
  match i with
  | .mov g a b => Sys2Proof.Machine.execMov g a b s
  | .add g a b => Sys2Proof.Machine.execAdd g a b s
  | .adc g a b => Sys2Proof.Machine.execAdc g a b s
  | .sub g a b => Sys2Proof.Machine.execSub g a b s
  | .sbc g a b => Sys2Proof.Machine.execSbc g a b s
  | .and g a b => Sys2Proof.Machine.execAnd g a b s
  | .or g a b => Sys2Proof.Machine.execOr g a b s
  | .xor g a b => Sys2Proof.Machine.execXor g a b s
  | .shl g a b => Sys2Proof.Machine.execShl g a b s
  | .shr g a b => Sys2Proof.Machine.execShr g a b s
  | .sar g a b => Sys2Proof.Machine.execSar g a b s
  | .csum g a b => Sys2Proof.Machine.execCsum g a b s
  | .cmp g a b => Sys2Proof.Machine.execCmp g a b s
  | .tst g a b => Sys2Proof.Machine.execTst g a b s
  | .mul g a b => Sys2Proof.Machine.execMul g a b s
  | .mulh g a b => Sys2Proof.Machine.execMulh g a b s
  | .movi g exi a k => Sys2Proof.Machine.execMovi g exi a k s
  | .addImm g exi a k => Sys2Proof.Machine.execAddImm g exi a k s
  | .andImm g exi a k => Sys2Proof.Machine.execAndImm g exi a k s
  | .orImm g exi a k => Sys2Proof.Machine.execOrImm g exi a k s
  | .xorImm g exi a k => Sys2Proof.Machine.execXorImm g exi a k s
  | .shlImm g exi a k => Sys2Proof.Machine.execShlImm g exi a k s
  | .shrImm g exi a k => Sys2Proof.Machine.execShrImm g exi a k s
  | .sarImm g exi a k => Sys2Proof.Machine.execSarImm g exi a k s
  | .rol g exi a k => Sys2Proof.Machine.execRol g exi a k s
  | .cmpImm g exi a k => Sys2Proof.Machine.execCmpImm g exi a k s
  | .ld g exi a p u => Sys2Proof.Machine.execLd g exi a p u s
  | .st g exi a p u => Sys2Proof.Machine.execSt g exi a p u s
  | .ldp g exi a p u => Sys2Proof.Machine.execLdp g exi a p u s
  | .stp g exi a p u => Sys2Proof.Machine.execStp g exi a p u s
  | .ldb g exi a p u => Sys2Proof.Machine.execLdb g exi a p u s
  | .stb g exi a p u => Sys2Proof.Machine.execStb g exi a p u s
  | .beq g exi d => Sys2Proof.Machine.execBeq g exi d s
  | .bne g exi d => Sys2Proof.Machine.execBne g exi d s
  | .blo g exi d => Sys2Proof.Machine.execBlo g exi d s
  | .bhs g exi d => Sys2Proof.Machine.execBhs g exi d s
  | .bmi g exi d => Sys2Proof.Machine.execBmi g exi d s
  | .bpl g exi d => Sys2Proof.Machine.execBpl g exi d s
  | .bvs g exi d => Sys2Proof.Machine.execBvs g exi d s
  | .bvc g exi d => Sys2Proof.Machine.execBvc g exi d s
  | .bhi g exi d => Sys2Proof.Machine.execBhi g exi d s
  | .bls g exi d => Sys2Proof.Machine.execBls g exi d s
  | .blt g exi d => Sys2Proof.Machine.execBlt g exi d s
  | .bge g exi d => Sys2Proof.Machine.execBge g exi d s
  | .bgt g exi d => Sys2Proof.Machine.execBgt g exi d s
  | .ble g exi d => Sys2Proof.Machine.execBle g exi d s
  | .bal g exi d => Sys2Proof.Machine.execBal g exi d s
  | .call g exi d => Sys2Proof.Machine.execCall g exi d s
  | .tagr g a b => Sys2Proof.Machine.execTagr g a b s
  | .send g a b => Sys2Proof.Machine.execSend g a b s
  | .sende g a b => Sys2Proof.Machine.execSende g a b s
  | .delayedPublish g => Sys2Proof.Machine.execDelayedPublish g s
  | .recv g a b => Sys2Proof.Machine.execRecv g a b s
  | .delayedBind g => Sys2Proof.Machine.execDelayedBind g s
  | .chkc g a b => Sys2Proof.Machine.execChkc g a b s
  | .movFromSpecial g a special => Sys2Proof.Machine.execMovFromSpecial g a special s
  | .movToSpecial g a special => Sys2Proof.Machine.execMovToSpecial g a special s
  | .lock g a b => Sys2Proof.Machine.execLock g a b s
  | .not g a => Sys2Proof.Machine.execNot g a s
  | .tags g a t => Sys2Proof.Machine.execTags g a t s
  | .br g a => Sys2Proof.Machine.execBr g a s
  | .callReg g a => Sys2Proof.Machine.execCallReg g a s
  | .ret g => Sys2Proof.Machine.execRet g s
  | .jt g a lit => Sys2Proof.Machine.execJt g a lit s
  | .fence g => Sys2Proof.Machine.execFence g s
  | .repI g n => Sys2Proof.Machine.execRepI g n s
  | .repU g n => Sys2Proof.Machine.execRepU g n s
  | .wait g => Sys2Proof.Machine.execWait g s
  | .yield g => Sys2Proof.Machine.execYield g s
  | .settcRelative g a => Sys2Proof.Machine.execSettcRelative g a s
  | .settcAbsolute g a => Sys2Proof.Machine.execSettcAbsolute g a s
  | .settcDisarm g => Sys2Proof.Machine.execSettcDisarm g s
  | .take g a => Sys2Proof.Machine.execTake g a s
  | .takePoll g a => Sys2Proof.Machine.execTakePoll g a s
  | .done g => Sys2Proof.Machine.execDone g s
  | .tkrel g a => Sys2Proof.Machine.execTkrel g a s
  | .tkskip g a => Sys2Proof.Machine.execTkskip g a s
  | .defer g a => Sys2Proof.Machine.execDefer g a s
  | .post g a => Sys2Proof.Machine.execPost g a s
  | .cancel g a => Sys2Proof.Machine.execCancel g a s
  | .ballocLength g a => Sys2Proof.Machine.execBallocLength g a s
  | .ballocPool g a => Sys2Proof.Machine.execBallocPool g a s
  | .bfree g a => Sys2Proof.Machine.execBfree g a s
  | .bcopy g b a => Sys2Proof.Machine.execBcopy g b a s
  | .unlock g a clr => Sys2Proof.Machine.execUnlock g a clr s
  | .cpmTo g n a => Sys2Proof.Machine.execCpmTo g n a s
  | .cpmFrom g a n => Sys2Proof.Machine.execCpmFrom g a n s
  | .cpgo g x op => Sys2Proof.Machine.execCpgo g x op s
  | .cptst g x => Sys2Proof.Machine.execCptst g x s
  | .trap g n => Sys2Proof.Machine.execTrap g n s
  | .rft g => Sys2Proof.Machine.execRft g s
  | .bkpt g n => Sys2Proof.Machine.execBkpt g n s
  | .emuTrap g => Sys2Proof.Machine.execEmuTrap g s
  | .fabricResponse g => Sys2Proof.Machine.execFabricResponse g s
  | .tableWalkDone agent => Sys2Proof.Machine.execTableWalkDone agent s
  | .writeBufferDrain h e => Sys2Proof.Machine.execWriteBufferDrain h e s
  | .releaseEffect g => Sys2Proof.Machine.execReleaseEffect g s
  | .targetError h pa => Sys2Proof.Machine.execTargetError h pa s
  | .slotRotationEnd h e => Sys2Proof.Machine.execSlotRotationEnd h e s
  | .tcMatch g => Sys2Proof.Machine.execTcMatch g s
  | .watchdogFault g => Sys2Proof.Machine.execWatchdogFault g s
  | .preemption h e => Sys2Proof.Machine.execPreemption h e s
  | .stillnessReport h => Sys2Proof.Machine.execStillnessReport h s
  | .reportToMailbox h => Sys2Proof.Machine.execReportToMailbox h s
  | .start r h idx pc => Sys2Proof.Machine.execStart r h idx pc s
  | .resume r h idx => Sys2Proof.Machine.execResume r h idx s
  | .skip r h idx => Sys2Proof.Machine.execSkip r h idx s
  | .kill r h idx => Sys2Proof.Machine.execKill r h idx s
  | .tsrWrite r h idx word v => Sys2Proof.Machine.execTsrWrite r h idx word v s
  | .taskForm m => Sys2Proof.Machine.execTaskForm m s
  | .offerTask h => Sys2Proof.Machine.execOfferTask h s
  | .blockedTakeComplete g => Sys2Proof.Machine.execBlockedTakeComplete g s
  | .offerWithdrawn g => Sys2Proof.Machine.execOfferWithdrawn g s
  | .taskMove h => Sys2Proof.Machine.execTaskMove h s
  | .delayExpiry d => Sys2Proof.Machine.execDelayExpiry d s
  | .flowInval r => Sys2Proof.Machine.execFlowInval r s
  | .flowClrAll r => Sys2Proof.Machine.execFlowClrAll r s
  | .flowClrHearth r h => Sys2Proof.Machine.execFlowClrHearth r h s
  | .flowClearDone => Sys2Proof.Machine.execFlowClearDone s
  | .deadlinePassed slot => Sys2Proof.Machine.execDeadlinePassed slot s
  | .ticketRetire => Sys2Proof.Machine.execTicketRetire s
  | .tallyLostRecord => Sys2Proof.Machine.execTallyLostRecord s
  | .portRxFrame p bytes x => Sys2Proof.Machine.execPortRxFrame p bytes x s
  | .macControlFrame p f => Sys2Proof.Machine.execMacControlFrame p f s
  | .pauseExpiry p prio => Sys2Proof.Machine.execPauseExpiry p prio s
  | .pfcTx p => Sys2Proof.Machine.execPfcTx p s
  | .portModeChange r p v => Sys2Proof.Machine.execPortModeChange r p v s
  | .portLinkChange p link lock localFault remoteFault speed => Sys2Proof.Machine.execPortLinkChange p link lock localFault remoteFault speed s
  | .preemptVerifyTimeout p => Sys2Proof.Machine.execPreemptVerifyTimeout p s
  | .commitSc r => Sys2Proof.Machine.execCommitSc r s
  | .commitSa r => Sys2Proof.Machine.execCommitSa r s
  | .msecRead r => Sys2Proof.Machine.execMsecRead r s
  | .msecCmdDone => Sys2Proof.Machine.execMsecCmdDone s
  | .progStoreWrite r m lo => Sys2Proof.Machine.execProgStoreWrite r m lo s
  | .millEntry m => Sys2Proof.Machine.execMillEntry m s
  | .kendAccept m n => Sys2Proof.Machine.execKendAccept m n s
  | .kendFail m n code => Sys2Proof.Machine.execKendFail m n code s
  | .kbeq m n k imm target => Sys2Proof.Machine.execKbeq m n k imm target s
  | .kbne m n k imm target => Sys2Proof.Machine.execKbne m n k imm target s
  | .kblo m n k imm target => Sys2Proof.Machine.execKblo m n k imm target s
  | .kbhs m n k imm target => Sys2Proof.Machine.execKbhs m n k imm target s
  | .kbset m n k imm target => Sys2Proof.Machine.execKbset m n k imm target s
  | .kext m n dst off bit width => Sys2Proof.Machine.execKext m n dst off bit width s
  | .kalui m n op k imm => Sys2Proof.Machine.execKalui m n op k imm s
  | .kalu m n op k src => Sys2Proof.Machine.execKalu m n op k src s
  | .kadv m n addK k scale imm => Sys2Proof.Machine.execKadv m n addK k scale imm s
  | .khdr m n slot bit setBit => Sys2Proof.Machine.execKhdr m n slot bit setBit s
  | .kpm m n mask => Sys2Proof.Machine.execKpm m n mask s
  | .ksto m n word useImm k imm => Sys2Proof.Machine.execKsto m n word useImm k imm s
  | .kjmp m n target => Sys2Proof.Machine.execKjmp m n target s
  | .kmeta m n k idx => Sys2Proof.Machine.execKmeta m n k idx s
  | .verdictComplete m => Sys2Proof.Machine.execVerdictComplete m s
  | .gossipRecord m => Sys2Proof.Machine.execGossipRecord m s
  | .gossipLostRecord m => Sys2Proof.Machine.execGossipLostRecord m s
  | .filterAgeOut m => Sys2Proof.Machine.execFilterAgeOut m s
  | .qciGateChange m gate => Sys2Proof.Machine.execQciGateChange m gate s
  | .rcvTimeout idx => Sys2Proof.Machine.execRcvTimeout idx s
  | .insert r m stone bank => Sys2Proof.Machine.execInsert r m stone bank s
  | .delete r m stone bank => Sys2Proof.Machine.execDelete r m stone bank s
  | .modify r m stone bank => Sys2Proof.Machine.execModify r m stone bank s
  | .lookup r m stone bank => Sys2Proof.Machine.execLookup r m stone bank s
  | .tcamWrite r m => Sys2Proof.Machine.execTcamWrite r m s
  | .tcamDisable r m => Sys2Proof.Machine.execTcamDisable r m s
  | .missWrite r m stone bank => Sys2Proof.Machine.execMissWrite r m stone bank s
  | .psetWrite r m => Sys2Proof.Machine.execPsetWrite r m s
  | .streamWrite r m => Sys2Proof.Machine.execStreamWrite r m s
  | .sfWrite r m => Sys2Proof.Machine.execSfWrite r m s
  | .sgWrite r m => Sys2Proof.Machine.execSgWrite r m s
  | .fmWrite r m => Sys2Proof.Machine.execFmWrite r m s
  | .rcvWrite r m => Sys2Proof.Machine.execRcvWrite r m s
  | .cntRead r m clr => Sys2Proof.Machine.execCntRead r m clr s
  | .updateDone m => Sys2Proof.Machine.execUpdateDone m s
  | .enqueue => Sys2Proof.Machine.execEnqueue s
  | .copyComplete => Sys2Proof.Machine.execCopyComplete s
  | .txStart p pmac sub => Sys2Proof.Machine.execTxStart p pmac sub s
  | .txEnd p pmac => Sys2Proof.Machine.execTxEnd p pmac s
  | .gateEntryStart p => Sys2Proof.Machine.execGateEntryStart p s
  | .holdAssert p => Sys2Proof.Machine.execHoldAssert p s
  | .holdWithdraw p => Sys2Proof.Machine.execHoldWithdraw p s
  | .gclDataWrite r lo => Sys2Proof.Machine.execGclDataWrite r lo s
  | .configChange r p => Sys2Proof.Machine.execConfigChange r p s
  | .cancelGateChange r p => Sys2Proof.Machine.execCancelGateChange r p s
  | .gateListSwap p => Sys2Proof.Machine.execGateListSwap p s
  | .txtsPop r p => Sys2Proof.Machine.execTxtsPop r p s
  | .genReset r idx => Sys2Proof.Machine.execGenReset r idx s
  | .set r => Sys2Proof.Machine.execSet r s
  | .step r => Sys2Proof.Machine.execStep r s
  | .timeChangeApply => Sys2Proof.Machine.execTimeChangeApply s
  | .nowLoRead r => Sys2Proof.Machine.execNowLoRead r s
  | .tsIoCapture n level sub => Sys2Proof.Machine.execTsIoCapture n level sub s
  | .tsIoOutputEdge n => Sys2Proof.Machine.execTsIoOutputEdge n s
  | .poolEnable r n pad => Sys2Proof.Machine.execPoolEnable r n pad s
  | .poolReady n => Sys2Proof.Machine.execPoolReady n s
  | .rangeClean r h all force evt => Sys2Proof.Machine.execRangeClean r h all force evt s
  | .rangeInval r h all force evt => Sys2Proof.Machine.execRangeInval r h all force evt s
  | .rangeCleanInval r h all force evt => Sys2Proof.Machine.execRangeCleanInval r h all force evt s
  | .rangeLock r h all force evt => Sys2Proof.Machine.execRangeLock r h all force evt s
  | .rangeDone h => Sys2Proof.Machine.execRangeDone h s
  | .mcEnable r c v => Sys2Proof.Machine.execMcEnable r c v s
  | .memTrainingDone c ok restored => Sys2Proof.Machine.execMemTrainingDone c ok restored s
  | .trackingRun c => Sys2Proof.Machine.execTrackingRun c s
  | .regionInit r n en kind => Sys2Proof.Machine.execRegionInit r n en kind s
  | .regionInitDone n => Sys2Proof.Machine.execRegionInitDone n s
  | .tlbiAll r evt => Sys2Proof.Machine.execTlbiAll r evt s
  | .tlbiContext r ctx evt => Sys2Proof.Machine.execTlbiContext r ctx evt s
  | .tlbiAddress r ctx evt => Sys2Proof.Machine.execTlbiAddress r ctx evt s
  | .tlbiDone => Sys2Proof.Machine.execTlbiDone s
  | .blwTailWrite r n v => Sys2Proof.Machine.execBlwTailWrite r n v s
  | .descriptorStart n => Sys2Proof.Machine.execDescriptorStart n s
  | .burstStart => Sys2Proof.Machine.execBurstStart s
  | .burstComplete n => Sys2Proof.Machine.execBurstComplete n s
  | .descriptorComplete n => Sys2Proof.Machine.execDescriptorComplete n s
  | .blwPause r n => Sys2Proof.Machine.execBlwPause r n s
  | .blwResume r n => Sys2Proof.Machine.execBlwResume r n s
  | .blwAbort r n => Sys2Proof.Machine.execBlwAbort r n s
  | .blwReset r n => Sys2Proof.Machine.execBlwReset r n s
  | .lockRequestArrive g => Sys2Proof.Machine.execLockRequestArrive g s
  | .lockGrant g => Sys2Proof.Machine.execLockGrant g s
  | .lockTimeout g => Sys2Proof.Machine.execLockTimeout g s
  | .lockReleaseArrive n => Sys2Proof.Machine.execLockReleaseArrive n s
  | .lockAbandon n => Sys2Proof.Machine.execLockAbandon n s
  | .gcmEnc h => Sys2Proof.Machine.execGcmEnc h s
  | .gcmDec h => Sys2Proof.Machine.execGcmDec h s
  | .cmac h => Sys2Proof.Machine.execCmac h s
  | .crc32 h => Sys2Proof.Machine.execCrc32 h s
  | .crc32c h => Sys2Proof.Machine.execCrc32c h s
  | .toeplitzHash h => Sys2Proof.Machine.execToeplitzHash h s
  | .onesComplementSum h => Sys2Proof.Machine.execOnesComplementSum h s
  | .scan h => Sys2Proof.Machine.execScan h s
  | .first h => Sys2Proof.Machine.execFirst h s
  | .smithyComplete h x => Sys2Proof.Machine.execSmithyComplete h x s
  | .keyCommit r h => Sys2Proof.Machine.execKeyCommit r h s
  | .keyErase r h => Sys2Proof.Machine.execKeyErase r h s
  | .patternCommit r h => Sys2Proof.Machine.execPatternCommit r h s
  | .patternRead r h => Sys2Proof.Machine.execPatternRead r h s
  | .linkEnable r maxw => Sys2Proof.Machine.execLinkEnable r maxw s
  | .trainingStateDone lanes => Sys2Proof.Machine.execTrainingStateDone lanes s
  | .trainingTimeout => Sys2Proof.Machine.execTrainingTimeout s
  | .retrain r => Sys2Proof.Machine.execRetrain r s
  | .cardMwr fs => Sys2Proof.Machine.execCardMwr fs s
  | .cardMrd x => Sys2Proof.Machine.execCardMrd x s
  | .hostCpl fs => Sys2Proof.Machine.execHostCpl fs s
  | .nopFlit x => Sys2Proof.Machine.execNopFlit x s
  | .creditInit x => Sys2Proof.Machine.execCreditInit x s
  | .creditReset x => Sys2Proof.Machine.execCreditReset x s
  | .retrainReq x => Sys2Proof.Machine.execRetrainReq x s
  | .replayTimeout => Sys2Proof.Machine.execReplayTimeout s
  | .cplTimeout tag => Sys2Proof.Machine.execCplTimeout tag s
  | .ringEnable r n v => Sys2Proof.Machine.execRingEnable r n v s
  | .ringDisable r n => Sys2Proof.Machine.execRingDisable r n s
  | .doorbell r n v => Sys2Proof.Machine.execDoorbell r n v s
  | .txDescriptor n => Sys2Proof.Machine.execTxDescriptor n s
  | .rxRingDeliver n => Sys2Proof.Machine.execRxRingDeliver n s
  | .postDescriptor n => Sys2Proof.Machine.execPostDescriptor n s
  | .hostEventEntry => Sys2Proof.Machine.execHostEventEntry s
  | .msiModerationSend v => Sys2Proof.Machine.execMsiModerationSend v s
  | .msiSend r v => Sys2Proof.Machine.execMsiSend r v s
  | .canDlcReceived c fmt len => Sys2Proof.Machine.execCanDlcReceived c fmt len s
  | .canRxFrame c f ago => Sys2Proof.Machine.execCanRxFrame c f ago s
  | .canTxTake c => Sys2Proof.Machine.execCanTxTake c s
  | .canTxSuccess c => Sys2Proof.Machine.execCanTxSuccess c s
  | .canTxFail c error kept inData => Sys2Proof.Machine.execCanTxFail c error kept inData s
  | .canStateChange c => Sys2Proof.Machine.execCanStateChange c s
  | .recGo r c => Sys2Proof.Machine.execRecGo r c s
  | .txFlush r c => Sys2Proof.Machine.execTxFlush r c s
  | .canDisable c => Sys2Proof.Machine.execCanDisable c s
  | .xspiGo r dir len => Sys2Proof.Machine.execXspiGo r dir len s
  | .xspiDone data => Sys2Proof.Machine.execXspiDone data s
  | .spiWrite off v => Sys2Proof.Machine.execSpiWrite off v s
  | .spiRead off => Sys2Proof.Machine.execSpiRead off s
  | .spiBadTransaction => Sys2Proof.Machine.execSpiBadTransaction s
  | .uartRxByte u b => Sys2Proof.Machine.execUartRxByte u b s
  | .uartDataRead r u => Sys2Proof.Machine.execUartDataRead r u s
  | .uartDataWrite r u b => Sys2Proof.Machine.execUartDataWrite r u b s
  | .gpioEdge n level => Sys2Proof.Machine.execGpioEdge n level s
  | .mdioAddress r m c45 prtad devad data => Sys2Proof.Machine.execMdioAddress r m c45 prtad devad data s
  | .mdioWrite r m c45 prtad devad data => Sys2Proof.Machine.execMdioWrite r m c45 prtad devad data s
  | .mdioRead r m c45 prtad devad => Sys2Proof.Machine.execMdioRead r m c45 prtad devad s
  | .mdioDone m data => Sys2Proof.Machine.execMdioDone m data s
  | .dbgacc write off v => Sys2Proof.Machine.execDbgacc write off v s
  | .powerOnReset => Sys2Proof.Machine.execPowerOnReset s
  | .powerOnResetEnd => Sys2Proof.Machine.execPowerOnResetEnd s
  | .supplyDrop => Sys2Proof.Machine.execSupplyDrop s
  | .resetNLow => Sys2Proof.Machine.execResetNLow s
  | .resetCmdDevice r => Sys2Proof.Machine.execResetCmdDevice r s
  | .pllLockLoss => Sys2Proof.Machine.execPllLockLoss s
  | .referenceLoss => Sys2Proof.Machine.execReferenceLoss s
  | .hearthSoftReset r h hold => Sys2Proof.Machine.execHearthSoftReset r h hold s
  | .hearthHardReset r h hold => Sys2Proof.Machine.execHearthHardReset r h hold s
  | .hearthResetEnd h => Sys2Proof.Machine.execHearthResetEnd h s
  | .hearthHoldRelease r h => Sys2Proof.Machine.execHearthHoldRelease r h s
  | .resetRelease bootSel => Sys2Proof.Machine.execResetRelease bootSel s
  | .bootSection data => Sys2Proof.Machine.execBootSection data s
  | .bootCheck => Sys2Proof.Machine.execBootCheck s
  | .bootTimeout => Sys2Proof.Machine.execBootTimeout s
  | .bootCmdGo r src => Sys2Proof.Machine.execBootCmdGo r src s
  | .bootDataWrite r v => Sys2Proof.Machine.execBootDataWrite r v s
  | .powerOnRequest r dom clear => Sys2Proof.Machine.execPowerOnRequest r dom clear s
  | .powerOffRequest r dom force => Sys2Proof.Machine.execPowerOffRequest r dom force s
  | .domainWake => Sys2Proof.Machine.execDomainWake s
  | .domainOn dom => Sys2Proof.Machine.execDomainOn dom s
  | .drainComplete dom => Sys2Proof.Machine.execDrainComplete dom s
  | .drainTimeout dom => Sys2Proof.Machine.execDrainTimeout dom s
  | .logWrite => Sys2Proof.Machine.execLogWrite s
  | .clrErr r mask => Sys2Proof.Machine.execClrErr r mask s
  | .counterLowRead r off => Sys2Proof.Machine.execCounterLowRead r off s
  | .debugStop r h idx => Sys2Proof.Machine.execDebugStop r h idx s
  | .debugRun r h idx => Sys2Proof.Machine.execDebugRun r h idx s
  | .debugStep r h idx => Sys2Proof.Machine.execDebugStep r h idx s
  | .groupStop r mask => Sys2Proof.Machine.execGroupStop r mask s
  | .groupRun r mask => Sys2Proof.Machine.execGroupRun r mask s
  | .stopTakesEffect g => Sys2Proof.Machine.execStopTakesEffect g s
  | .breakpointMatch g => Sys2Proof.Machine.execBreakpointMatch g s
  | .otpProgram word vddOtp => Sys2Proof.Machine.execOtpProgram word vddOtp s
  | .otpProgramDone => Sys2Proof.Machine.execOtpProgramDone s
  | .tempSample t => Sys2Proof.Machine.execTempSample t s
  | .setupWrite r off v => Sys2Proof.Machine.execSetupWrite r off v s
  | .badCrcFlit x => Sys2Proof.Machine.execBadCrcFlit x s
  | .verifyMpacket p => Sys2Proof.Machine.execVerifyMpacket p s
  | .respondMpacket p => Sys2Proof.Machine.execRespondMpacket p s
  | .victimWritebackDone h => Sys2Proof.Machine.execVictimWritebackDone h s
  | .rootPllLock => Sys2Proof.Machine.execRootPllLock s
  | .canRxError c eight => Sys2Proof.Machine.execCanRxError c eight s
  | .uartTxByteSent u => Sys2Proof.Machine.execUartTxByteSent u s

end Sys2Proof.Machine
end

