-- ==== Sys2Proof/Machine/Words.lean ====
section
/-!
DEFINITION. The 14-bit words of an engine (R59–R62, R67–R70): the command that a word stands for, and the one that a thread's unit stands for.
A command of State carries the instruction already decoded; this file says which word it is.
-/
namespace Sys2Proof.Machine

/-- Bits `hi` to `lo` of an instruction word. -/
def wordBits (w : BitVec 14) (hi lo : Nat) : Nat := w.toNat / 2 ^ lo % 2 ^ (hi + 1 - lo)

/-- The register form (R67). -/
def registerForm (g : Thr) (w : BitVec 14) : Instr :=
  let a : Reg := Fin.ofNat 16 (wordBits w 7 4)
  let b : Reg := Fin.ofNat 16 (wordBits w 3 0)
  match wordBits w 11 8 with
  | 0 => .mov g a b
  | 1 => .add g a b
  | 2 => .adc g a b
  | 3 => .sub g a b
  | 4 => .sbc g a b
  | 5 => .and g a b
  | 6 => .or g a b
  | 7 => .xor g a b
  | 8 => .shl g a b
  | 9 => .shr g a b
  | 10 => .sar g a b
  | 11 => .csum g a b
  | 12 => .cmp g a b
  | 13 => .tst g a b
  | 14 => .mul g a b
  | _ => .mulh g a b

/-- The immediate form (R68): in the memory rows k[2:0] names the base pair and k[3] is U; a[0] of `LDP` and `STP` is rsv. -/
def immediateForm (g : Thr) (exi : Exi) (w : BitVec 14) : Instr :=
  let a : Reg := Fin.ofNat 16 (wordBits w 7 4)
  let pa : PairN := Fin.ofNat 8 (wordBits w 7 5)
  let k : BitVec 4 := BitVec.ofNat 4 (wordBits w 3 0)
  let p : PairN := Fin.ofNat 8 (wordBits w 2 0)
  let u := wordBits w 3 3 == 1
  let odd := wordBits w 4 4 == 1
  match wordBits w 11 8 with
  | 0 => .movi g exi a k
  | 1 => .addImm g exi a k
  | 2 => .andImm g exi a k
  | 3 => .orImm g exi a k
  | 4 => .xorImm g exi a k
  | 5 => .shlImm g exi a k
  | 6 => .shrImm g exi a k
  | 7 => .sarImm g exi a k
  | 8 => .rol g exi a k
  | 9 => .cmpImm g exi a k
  | 10 => .ld g exi a p u
  | 11 => .st g exi a p u
  | 12 => if odd then .emuTrap g else .ldp g exi pa p u
  | 13 => if odd then .emuTrap g else .stp g exi pa p u
  | 14 => .ldb g exi a p u
  | _ => .stb g exi a p u

/-- The branch form (R69). -/
def branchForm (g : Thr) (exi : Exi) (w : BitVec 14) : Instr :=
  let dd : W8 := BitVec.ofNat 8 (wordBits w 7 0)
  match wordBits w 11 8 with
  | 0 => .beq g exi dd
  | 1 => .bne g exi dd
  | 2 => .blo g exi dd
  | 3 => .bhs g exi dd
  | 4 => .bmi g exi dd
  | 5 => .bpl g exi dd
  | 6 => .bvs g exi dd
  | 7 => .bvc g exi dd
  | 8 => .bhi g exi dd
  | 9 => .bls g exi dd
  | 10 => .blt g exi dd
  | 11 => .bge g exi dd
  | 12 => .bgt g exi dd
  | 13 => .ble g exi dd
  | 14 => .bal g exi dd
  | _ => .call g exi dd

/-- A system word whose rsv bits `hi` to `lo` must be zero: with one of them 1 it is a reserved encoding (R60). -/
def sysZero (g : Thr) (w : BitVec 14) (hi lo : Nat) (i : Instr) : Instr := if wordBits w hi lo = 0 then i else .emuTrap g

/-- The system groups that take two register numbers (R70), sub values 0x00–0x17, and `LOCK`. -/
def systemPairs (g : Thr) (w : BitVec 14) : Instr :=
  let a : Reg := Fin.ofNat 16 (wordBits w 7 4)
  let b : Reg := Fin.ofNat 16 (wordBits w 3 0)
  let s : Fin 8 := Fin.ofNat 8 (wordBits w 6 4)
  match wordBits w 11 8 with
  | 0 => .tagr g a b
  | 1 => .send g a b
  | 2 => .sende g a b
  | 3 => .recv g a b
  | 4 => .chkc g a b
  | 5 => if wordBits w 7 7 = 1 then .movToSpecial g b s else .movFromSpecial g b s
  | _ => .lock g (Fin.ofNat 8 (wordBits w 6 4)) b

/-- The system words with sub values 0x1A–0x25 (R70); `lit` is the word after `JT`. -/
def systemFlow (g : Thr) (w lit : BitVec 14) : Instr :=
  let a : Reg := Fin.ofNat 16 (wordBits w 3 0)
  let z := sysZero g w
  match wordBits w 11 6 with
  | 0x1A => z 5 4 (.not g a)
  | 0x1B => .tags g a (BitVec.ofNat 2 (wordBits w 5 4))
  | 0x1C => z 5 4 (.br g a)
  | 0x1D => z 5 4 (.callReg g a)
  | 0x1E => z 5 0 (.ret g)
  | 0x1F => z 5 4 (.jt g a lit)
  | 0x20 => z 5 0 (.fence g)
  | 0x21 => if wordBits w 5 5 = 1 then .repI g (some (Fin.ofNat 32 (wordBits w 4 0))) else z 4 0 (.repI g none)
  | 0x22 => z 5 4 (.repU g (Fin.ofNat 16 (wordBits w 3 0)))
  | 0x23 => z 5 0 (.wait g)
  | 0x24 => z 5 0 (.yield g)
  | _ =>
    let p : PairN := Fin.ofNat 8 (wordBits w 2 0)
    match wordBits w 5 3 with
    | 0 => .settcRelative g p
    | 1 => .settcAbsolute g p
    | 2 => z 2 0 (.settcDisarm g)
    | _ => .emuTrap g

/-- The system words with sub values 0x26–0x3B (R70): 0x38–0x3B are reserved. -/
def systemTask (g : Thr) (w : BitVec 14) : Instr :=
  let a : Reg := Fin.ofNat 16 (wordBits w 3 0)
  let p : PairN := Fin.ofNat 8 (wordBits w 2 0)
  let q : PairN := Fin.ofNat 8 (wordBits w 5 3)
  let x : Fin 4 := Fin.ofNat 4 (wordBits w 5 4)
  let bit3 := wordBits w 3 3 == 1
  let z := sysZero g w
  match wordBits w 11 6 with
  | 0x26 => z 5 5 (if wordBits w 4 4 = 1 then .takePoll g a else .take g a)
  | 0x27 => z 5 0 (.done g)
  | 0x28 => z 5 4 (.tkrel g a)
  | 0x29 => z 5 4 (.tkskip g a)
  | 0x2A => z 5 4 (.defer g a)
  | 0x2B => z 5 3 (.post g p)
  | 0x2C => z 5 3 (.cancel g p)
  | 0x2D => z 5 4 (if bit3 then .ballocPool g p else .ballocLength g p)
  | 0x2E => z 5 3 (.bfree g p)
  | 0x2F => .bcopy g q p
  | 0x30 => z 5 4 (.unlock g p bit3)
  | 0x31 => .cpmTo g q p
  | 0x32 => .cpmFrom g p q
  | 0x33 => .cpgo g x (Fin.ofNat 16 (wordBits w 3 0))
  | 0x34 => z 3 0 (.cptst g x)
  | 0x35 => z 5 5 (.trap g (Fin.ofNat 32 (wordBits w 4 0)))
  | 0x36 => z 5 0 (.rft g)
  | 0x37 => .bkpt g (Fin.ofNat 64 (wordBits w 5 0))
  | _ => .emuTrap g

/-- What a word stands for after its EXI words (R59): its form in bits [13:12] picks the command. An `EXI` before a word of the register or
system form is a reserved encoding (R62); the entries of the forms judge the rest of R60 when they execute. -/
def engineDecode (g : Thr) (exi : Exi) (w lit : BitVec 14) : Instr :=
  match wordBits w 13 12 with
  | 0 => if exi = [] then registerForm g w else .emuTrap g
  | 1 => immediateForm g exi w
  | 2 => branchForm g exi w
  | _ =>
    if exi ≠ [] then .emuTrap g
    else if wordBits w 11 6 < 0x1A then systemPairs g w
    else if wordBits w 11 6 < 0x26 then systemFlow g w lit
    else systemTask g w

/-- The unit at the PC of thread `g` (R63): its EXI payloads in order, and the word they extend, decoded. Three or more `EXI` words are
reserved before any word (R62). -/
def Dev.nextUnit (d : Dev) (g : Thr) : Instr :=
  let h := hearthOf g
  let pc := (d.thr g).pc.toNat
  let lead := d.exiLead h pc
  if 3 ≤ lead then .emuTrap g
  else engineDecode g ((List.range lead).map (fun k => (d.progWord h (pc + k)).truncate 8)) (d.progWord h (pc + lead))
    (d.progWord h (pc + lead + 1))

end Sys2Proof.Machine
end

