-- ==== Sys2Proof/Safety.lean ====
section
/-!
DEFINITION. The terms of the statements: what a run keeps, when a thread may issue, and how a device stands after one unit of a
thread that changes nothing but the thread.
-/
namespace Sys2Proof.Machine

/-- Every fuse bit that is set in `f` is set in `f'` (R412). -/
def fusesKept (f f' : Map W32) : Prop := ∀ k b, (f.get 0 k).getLsbD b = true → (f'.get 0 k).getLsbD b = true

/-- The command answers the state with its device changed to `d`: the fuses and the queue are as they were. -/
def Becomes (c : Instr) (s : State) (d : Dev) : Prop := exec c s = .next { s with dev := d }

/-- The command answers a state that differs in its device alone, and `P` holds of the new device. -/
def Reaches (c : Instr) (s : State) (P : Dev → Prop) : Prop := ∃ d, exec c s = .next { s with dev := d } ∧ P d

/-- The canonical form of the stored words: rising word addresses, and no entry equal to what its address reads as unlisted. -/
def Memory.wf (m : MemSt) : Bool := m.cells.wf m.dflt

/-- Thread `g` may issue a unit of its own: its engine lets it issue (R109–R116), it is in no repeat (R101), and no debugger steps
it (R410). -/
abbrev Turn (d : Dev) (g : Nat) : Prop :=
  d.canIssue g = true ∧ (d.thr g).rep = .none ∧ (d.thr g).step = false

/-- The weight credit of thread `g` after `n` issued words: a patient thread's falls by one for each, no lower than −2,048, and a
swift thread's stays (R112, R116). -/
def Dev.creditLeft (d : Dev) (g n : Nat) : Int :=
  if (d.engn (engineOf g)).isSwift (g % 8) then (d.thr g).credit else max (-2048) (min 2047 ((d.thr g).credit - n))

/-- The device with thread `g` as it stands while it executes a unit of `n` words; its engine has noted a swift thread that R112 chose by its
third branch. -/
def Dev.begun (d : Dev) (g n : Nat) : Dev := (d.noted g).setThr g { d.thr g with credit := d.creditLeft g n, ulen := n }

/-- The device after thread `g` has completed a unit of `n` words that changes its thread by `f`: PC moves past the unit, the
issue is charged, and nothing else of the device changes. -/
def Dev.ran (d : Dev) (g n : Nat) (f : Thread → Thread) : Dev :=
  (d.noted g).setThr g { f (d.thr g) with
    pc := (d.thr g).pc + BitVec.ofNat 15 n, credit := d.creditLeft g n, ulen := n }

/-- The same for a unit that continues at address `dest`. -/
def Dev.jumped (d : Dev) (g n dest : Nat) (f : Thread → Thread) : Dev :=
  (d.noted g).setThr g { f (d.thr g) with pc := BitVec.ofNat 15 dest, credit := d.creditLeft g n, ulen := n }

/-- The thread with register wA and FLAGS as an arithmetic instruction leaves them (R27, R29, R71): the result `r` is POISON when
the poison mark `pm` is set and PLAIN otherwise. -/
def Thread.result (t : Thread) (a : Nat) (r : W16) (c v pm : Bool) : Thread :=
  { t.set a ⟨if pm then .poison else .plain, r⟩ with fl := ⟨c, decide (r = 0), r.getLsbD 15, v, pm, false⟩ }

/-- As far as any read shows, `d'` differs from `d` in threads `gs` alone: every other field of the device is the same data, and so
are the other threads and every engine and hearth. -/
abbrev OnlyThreads (d d' : Dev) (gs : List Nat) : Prop :=
  d' = { d with eng := { d.eng with
    threads := d'.eng.threads, engines := d'.eng.engines, hearths := d'.eng.hearths } } ∧
  (∀ x, x ∉ gs → d'.thr x = d.thr x) ∧ (∀ e, d'.engn e = d.engn e) ∧ (∀ h, d'.hth h = d.hth h)

/-- The same, but that engine `e` may differ too. -/
abbrev OnlyThreadsAndEngine (d d' : Dev) (gs : List Nat) (e : Nat) : Prop :=
  d' = { d with eng := { d.eng with
    threads := d'.eng.threads, engines := d'.eng.engines, hearths := d'.eng.hearths } } ∧
  (∀ x, x ∉ gs → d'.thr x = d.thr x) ∧ (∀ f, f ≠ e → d'.engn f = d.engn f) ∧ (∀ h, d'.hth h = d.hth h)

/-- The log source of a block and instance holds no record that waits (R404). -/
abbrev LogClear (d : Dev) (block inst : Nat) : Prop := d.log.srcs.get ⟨none, none, 0⟩ (block * 1024 + inst) = ⟨none, none, 0⟩

/-- The device after a record below fatal has arisen at a source that held none (R401, R404, R405): it is the source's first record, and
`ERR.RECORDS` counts it. -/
def Dev.recorded (d : Dev) (sev block code inst : Nat) (d2 d3 d4 : W16) : Dev :=
  let d1 := d.count64 .errRecords sev 0 1
  let src : LogSrc := ⟨some ⟨sev, block, code, inst, d2, d3, d4, d.time.ns, false⟩, none, 0⟩
  { d1 with log := { d1.log with srcs := d1.log.srcs.set ⟨none, none, 0⟩ (block * 1024 + inst) src } }

/-- Thread `g` has its turn and its engine's write buffer has drained, so a release operation takes effect at once (R76). -/
abbrev ReleaseTurn (d : Dev) (g : Nat) : Prop :=
  Turn d g ∧ (d.engn (engineOf g)).wbIn ≤ (d.engn (engineOf g)).wbOut

/-- Thread `g` waits with `w`, outside a repeat, with no step and no watchdog fault held back. -/
abbrev WaitsFor (d : Dev) (g : Nat) (w : Wait) : Prop :=
  (d.thr g).wait = w ∧ (d.thr g).st = .blocked ∧ (d.thr g).rep = .none ∧ (d.thr g).step = false ∧ (d.thr g).wdDue = false

/-- As far as any read shows, threads other than `g` are as they were, and memory, registers and counters are. -/
abbrev OthersKept (d d' : Dev) (g : Nat) : Prop :=
  (∀ x, x ≠ g → d'.thr x = d.thr x) ∧ d'.mem = d.mem ∧ d'.regs = d.regs ∧ d'.ctrs = d.ctrs

/-- From `d` to `d'` thread `g` is HELD at its unit, which has `exi` EXI words, with a fault record sent to its hearth's warden (R89, R91, R299, R301):
its words, flags and PC are as they were, and so are the other threads, memory and the registers. `d4` to `d6` are the record's details. -/
abbrev FaultSent (d d' : Dev) (g exi cause sub : Nat) (store : Bool) (d4 d5 d6 : W16) : Prop :=
  let h := hearthOf g
  let t := d.thr g
  let words := [BitVec.ofNat 16 (0x1000 + h * 256 + g % 128),
    BitVec.ofNat 16 (cause * 4096 + sub * 256 + (if store then 128 else 0) + (if t.inTrap then 32 else 0)), BitVec.ofNat 16 t.pc.toNat,
    (d.progWord h (t.pc.toNat + exi)).zeroExtend 16, d4, d5, d6, 0]
  (d'.thr g).st = .held ∧ (d'.thr g).w = t.w ∧ (d'.thr g).fl = t.fl ∧ (d'.thr g).pc = t.pc ∧
  (∀ x, x ≠ g → d'.thr x = d.thr x) ∧ d'.mem = d.mem ∧ d'.regs = d.regs ∧
  ((d'.hth h).repq.getLast?.map (fun z => (z.src, z.words))) = some (g, words)

/-- Thread `t'` is `t` past a unit of `n` words but for its general words. -/
abbrev Thread.Past (t t' : Thread) (n : Nat) (credit : Int) : Prop :=
  t' = { t with w := t'.w, pc := t.pc + BitVec.ofNat 15 n, credit := credit, ulen := n }

/-- An access of thread `g` to `size` bytes at pair `p` plus `disp` that needs no walk and no fabric: the pair is PLAIN, the context is in
BYPASS, the address is aligned and lies in the own hearth's larder, no watchpoint of the hearth is armed, the engine's write buffer is
empty, and the check units of the words hold no error. -/
abbrev InOwnLarder (d : Dev) (g : Nat) (p disp size : Nat) : Prop :=
  let h := hearthOf g
  let va := (d.thr g).va p disp
  ((d.thr g).get (2 * p)).tag = .plain ∧ ((d.thr g).get (2 * p + 1)).tag = .plain ∧
  d.translates (d.ctxOf h) = false ∧ va % size = 0 ∧
  0x4000000 + h * 0x80000 ≤ va ∧ va < 0x4000000 + (h + 1) * 0x80000 ∧
  (∀ k < 4, d.bit .dbgWp h k 31 = false) ∧ (d.engn (engineOf g)).wb = [] ∧
  (∀ k < 2, d.mem.ecc.get 0 (0x100000000000 + va / 2 + k) = 0)

/-- The `n` bytes that memory holds from byte address `a` on, high byte of a word first (R42). -/
def MemSt.bytes (m : MemSt) (a n : Nat) : List W8 :=
  (List.range n).map (fun k =>
    let v := (m.word ((a + k) / 2)).v.toNat
    BitVec.ofNat 8 (if (a + k) % 2 = 0 then v / 256 else v))

/-- Operation `op` stands at the head of unit `x` of hearth `h` with PLAIN operands `vs` (the words of c0 to c6) and may start: its engine
has drained the stores before it. -/
abbrev SmithyHead (d : Dev) (h x op : Nat) (vs : List W16) (o : SmOp) (rest : List SmOp) : Prop :=
  d.unitOps h x = o :: rest ∧ o.op = op ∧ o.resume = false ∧ o.c = vs.map Word.plain ∧ vs.length = 14 ∧ o.out = none ∧
  o.began = none ∧ o.blk = SmBlock.fresh ∧ o.upto ≤ (d.engn (engineOf o.g)).wbOut

/-- `n` bytes from physical address `a` on lie in hearth `h`'s own larder, which is on, in BYPASS, all in PLAIN words, and no check unit
of memory holds an error. -/
abbrev PlainLarder (d : Dev) (h a n : Nat) : Prop :=
  d.translates (d.ctxOf h) = false ∧ d.domOn (domHearth h) = true ∧ d.mem.ecc = Map.empty ∧
  0x4000000 + h * 0x80000 ≤ a ∧ a + n ≤ 0x4000000 + (h + 1) * 0x80000 ∧
  (∀ k < n, (d.mem.word ((a + k) / 2)).tag = .plain)

/-- The tally is off (R155). -/
abbrev TallyOff (d : Dev) : Prop := d.bit .dspTallyCfg 0 0 0 = false

/-- No event waits for a slot (R146). -/
abbrev NoneHeld (d : Dev) : Prop := ∀ e ∈ d.dsp.evts.entries, e.2.held = 0

/-- Pool `n` has a buffer for a lossy allocation (R259). -/
abbrev PoolHas (d : Dev) (n : Nat) : Prop :=
  d.poolEmpty n true = false ∧ ∃ i < d.poolCount n, (d.buf n i).alloc = false ∧ (d.buf n i).freed = false

/-- Pool `n` is the first enabled pool that fits a frame of length `l` (R259). -/
abbrev FirstFit (d : Dev) (l n : Nat) : Prop := n < 8 ∧ d.poolFits n l = true ∧ ∀ m < n, d.poolFits m l = false

/-- A set-up access of requester `r` to a copy of a register goes through (R390, R398, R409). -/
abbrev Opens (d : Dev) (r : ReqArg) (k : RegKind) (i j : Nat) : Prop :=
  d.reaches (asReq r) = true ∧ d.mayTouch (asReq r) (k.off i j) = true ∧ d.setupOn (k.off i j) = true

/-- A write of a register of this kind may do more than store its fields: it starts what the kind's rules say. -/
def RegKind.starts : RegKind → Bool
  | .topResetCmd | .topBootCmd | .topBootData | .topTemp | .topTempAlarm | .pwrCmd | .errClrErr | .dbgThrCmd | .dbgGroup | .dbgOtpCmd
  | .prtMode | .msecCmd | .kndProgLo | .milUpdCmd | .dspFlowCmd | .dspDlist | .chmGclDataLo | .chmPctrl | .chmGateCtrl | .chmPreempt
  | .chmCbs | .chmGen | .chmQrate | .chmQburst | .bpmPoolCfg | .bpmPoolReserve | .bpmLlCfg | .bpmLlThresh | .blwCfg | .blwHead | .blwTail
  | .blwCmd | .mmuTlbiCmd | .memRegCtrl | .lnkCtrl | .lnkMsiSend | .lnkRingCfg | .lnkDoorbell | .canCtrl | .canCmd | .mdioCmd | .uartData
  | .xspiCmd | .timeCmd | .timeTxtsPop | .tsioCtrl | .hthStill | .hthThrCmd | .hthTsr | .hthRngCmd | .hthKeyCmd | .hthPatCmd
  | .hthReset => true
  | _ => false

/-- What a read of a register of this kind returns or does is not told by its fields alone (R235, R249, R381, R397). -/
def RegKind.readsMore : RegKind → Bool
  | .timeNowLo | .timeNowHi | .timeNowFrac | .uartData | .clkGated | .chmGclDataLo => true
  | _ => false

/-- Flit `x` of a TYPE and CT arrives in its place, `k` flits behind the next one expected, with a good CRC and nothing that acts on the
flits sent; no message is in assembly (R346–R353). -/
abbrev InPlace (d : Dev) (x : Flit) (k type ct : Nat) : Prop :=
  flitGood x = true ∧ flitType x = type ∧ flitCt x = ct ∧ flitSv x = true ∧ flitSeq x = (d.lnk.expect + k) % 4096 ∧ flitAv x = false ∧
  flitRetType x = 3 ∧ flitRsv x = 0 ∧ d.lnk.asm = .none ∧ d.lnk.expect < 4096

/-- Event `n` is not enabled (R146). -/
abbrev EventOff (d : Dev) (n : Nat) : Prop := d.bit .dspEvt n 0 31 = false

/-- `m` bytes from address `a` on lie in granary banks that are on, below the place of the buffer state area. -/
abbrev InGranary (d : Dev) (a m : Nat) : Prop :=
  a + m ≤ 0x1A00000 ∧ d.fld .bpmStateBase 0 0 24 21 = 13 ∧ ∀ k < m, d.domOn (domGran ((a + k) / 0x400000)) = true

/-- No word is a HANDLE or a TICKET. -/
abbrev noRef (ws : List Word) : Prop := ∀ w ∈ ws, w.isRef = false

end Sys2Proof.Machine
end

