-- ==== Sys2Proof/Certificates/Slice0/Obligations.lean ====
section
/-!
DEFINITION. The statements for the provers. Unless a docstring says otherwise a statement formalises the rules it names. A statement
whose conclusion is `Becomes c s d` says that the command answers the next state with device `d` and the rest as it was, so `d` is
its whole effect and its frame; `Reaches c s P` says that it answers one of which `P` holds.
-/
open Sys2Proof Sys2Proof.Machine

/-- A step takes the command at the front of the queue and carries it out with the rest of the queue in place. -/
def Obligations.StepRunsFront : Prop :=
  ∀ (c : Instr) (rest : List Instr) (s : State),
    step { s with pending := c :: rest } = exec c { s with pending := rest }

/-- R71 for ADD, ADC, SUB and SBC, register and immediate form: the result modulo 2^16, C as carry or borrow, V as signed overflow, Z
and N of the result; a POISON operand (or, where the carry is read, the poison mark) makes the result POISON and sets the mark (R27,
R29). Nothing else changes: `Dev.ran` writes the thread alone. R71 for the bitwise instructions, register and immediate form: the
bitwise result with C and V clear. TST writes the flags alone. -/
def Obligations.ArithmeticAndLogic : Prop :=
  (∀ (g : Thr) (a b : Reg) (exi : Exi) (k : BitVec 4) (imm : W16) (s : State), Turn s.dev g →
      let x := (s.dev.thr g).get a
      let y := (s.dev.thr g).get b
      let cin := if (s.dev.thr g).fl.c then 1 else 0
      let pm := (s.dev.thr g).fl.pm
      let plus (y : W16) (cin : Nat) (p : Bool) (t : Thread) : Thread :=
        let n := x.v.toNat + y.toNat + cin
        let r := BitVec.ofNat 16 (n % 65536)
        t.result a r (decide (n / 65536 = 1))
          (decide (x.v.getLsbD 15 = y.getLsbD 15 ∧ r.getLsbD 15 ≠ x.v.getLsbD 15)) p
      let minus (y : W16) (cin : Nat) (p : Bool) (t : Thread) : Thread :=
        let n : Int := x.v.toNat - y.toNat - cin
        let r := BitVec.ofInt 16 n
        t.result a r (decide (n < 0))
          (decide (x.v.getLsbD 15 ≠ y.getLsbD 15 ∧ r.getLsbD 15 ≠ x.v.getLsbD 15)) p
      noRef [x, y] →
        Becomes (.add g a b) s (s.dev.ran g 1 (plus y.v 0 (x.isPoison || y.isPoison))) ∧
        Becomes (.adc g a b) s (s.dev.ran g 1 (plus y.v cin (x.isPoison || y.isPoison || pm))) ∧
        Becomes (.sub g a b) s (s.dev.ran g 1 (minus y.v 0 (x.isPoison || y.isPoison))) ∧
        Becomes (.sbc g a b) s (s.dev.ran g 1 (minus y.v cin (x.isPoison || y.isPoison || pm))) ∧
        (immSigned exi k = some imm →
          Becomes (.addImm g exi a k) s (s.dev.ran g (exi.length + 1) (plus imm 0 x.isPoison)))) ∧
  (∀ (g : Thr) (a b : Reg) (exi : Exi) (k : BitVec 4) (imm : W16) (s : State), Turn s.dev g →
      let x := (s.dev.thr g).get a
      let y := (s.dev.thr g).get b
      let p := x.isPoison || y.isPoison
      let out (r : W16) (p : Bool) (t : Thread) : Thread := t.result a r false false p
      noRef [x, y] →
        Becomes (.and g a b) s (s.dev.ran g 1 (out (x.v &&& y.v) p)) ∧
        Becomes (.or g a b) s (s.dev.ran g 1 (out (x.v ||| y.v) p)) ∧
        Becomes (.xor g a b) s (s.dev.ran g 1 (out (x.v ^^^ y.v) p)) ∧
        Becomes (.not g a) s (s.dev.ran g 1 (out (~~~x.v) x.isPoison)) ∧
        Becomes (.tst g a b) s (s.dev.ran g 1 (fun t => { t with fl := (out (x.v &&& y.v) p t).fl })) ∧
        (immUnsigned exi k = some imm →
          Becomes (.andImm g exi a k) s (s.dev.ran g (exi.length + 1) (out (x.v &&& imm) x.isPoison)) ∧
          Becomes (.orImm g exi a k) s (s.dev.ran g (exi.length + 1) (out (x.v ||| imm) x.isPoison)) ∧
          Becomes (.xorImm g exi a k) s (s.dev.ran g (exi.length + 1) (out (x.v ^^^ imm) x.isPoison))))

/-- R71 and R73 for the shifts: s is wB.V[3:0] or k; C is the last bit shifted out, and 0 when s is 0. -/
def Obligations.Shifts : Prop :=
  ∀ (g : Thr) (a b : Reg) (k : BitVec 4) (s : State), Turn s.dev g →
    let x := (s.dev.thr g).get a
    let y := (s.dev.thr g).get b
    let p := x.isPoison || y.isPoison
    let n := x.v.toNat
    let left (i : Nat) (p : Bool) (t : Thread) : Thread :=
      t.result a (BitVec.ofNat 16 (n * 2 ^ i % 65536)) (decide (0 < i ∧ n / 2 ^ (16 - i) % 2 = 1)) false p
    let right (i : Nat) (p : Bool) (t : Thread) : Thread :=
      t.result a (BitVec.ofNat 16 (n / 2 ^ i)) (decide (0 < i ∧ n / 2 ^ (i - 1) % 2 = 1)) false p
    let arith (i : Nat) (p : Bool) (t : Thread) : Thread :=
      t.result a (BitVec.ofInt 16 (x.v.toInt / 2 ^ i)) (decide (0 < i ∧ n / 2 ^ (i - 1) % 2 = 1)) false p
    let rotate (i : Nat) (p : Bool) (t : Thread) : Thread :=
      let r := BitVec.ofNat 16 (n * 2 ^ i % 65536 + n / 2 ^ (16 - i))
      t.result a r (decide (0 < i) && r.getLsbD 0) false p
    let i := y.v.toNat % 16
    noRef [x, y] →
      Becomes (.shl g a b) s (s.dev.ran g 1 (left i p)) ∧
      Becomes (.shr g a b) s (s.dev.ran g 1 (right i p)) ∧
      Becomes (.sar g a b) s (s.dev.ran g 1 (arith i p)) ∧
      Becomes (.shlImm g [] a k) s (s.dev.ran g 1 (left k.toNat x.isPoison)) ∧
      Becomes (.shrImm g [] a k) s (s.dev.ran g 1 (right k.toNat x.isPoison)) ∧
      Becomes (.sarImm g [] a k) s (s.dev.ran g 1 (arith k.toNat x.isPoison)) ∧
      Becomes (.rol g [] a k) s (s.dev.ran g 1 (rotate k.toNat x.isPoison))

/-- R71 for MUL, MULH and CSUM: the halves of the unsigned product, with C and V of MUL set when the high half is not zero, and the
folded one's-complement sum, whose C is the carry of the unfolded one. R27, R30, R67 and R68 for the moves of words and their tags: MOV
copies tag and value, MOVI writes a PLAIN immediate, TAGR and TAGS read and set a tag. R52 and R53: what each special register reads as,
and what a PLAIN word written to RC, FLAGS, SEGH or SEGL leaves there. -/
def Obligations.ProductsMovesAndSpecialRegisters : Prop :=
  (∀ (g : Thr) (a b : Reg) (s : State), Turn s.dev g →
      let x := (s.dev.thr g).get a
      let y := (s.dev.thr g).get b
      let p := x.isPoison || y.isPoison
      let m := x.v.toNat * y.v.toNat
      let n := x.v.toNat + y.v.toNat
      noRef [x, y] →
        Becomes (.mul g a b) s (s.dev.ran g 1 (fun t =>
          t.result a (BitVec.ofNat 16 (m % 65536)) (decide (m / 65536 ≠ 0)) (decide (m / 65536 ≠ 0)) p)) ∧
        Becomes (.mulh g a b) s (s.dev.ran g 1 (fun t => t.result a (BitVec.ofNat 16 (m / 65536)) false false p)) ∧
        Becomes (.csum g a b) s (s.dev.ran g 1 (fun t =>
          t.result a (BitVec.ofNat 16 (n % 65536 + n / 65536)) (decide (n / 65536 = 1)) false p)) ∧
        n % 65536 + n / 65536 < 65536) ∧
  (∀ (g : Thr) (a b : Reg) (exi : Exi) (k : BitVec 4) (imm : W16) (s : State), Turn s.dev g →
      let x := (s.dev.thr g).get a
      let y := (s.dev.thr g).get b
      Becomes (.mov g a b) s (s.dev.ran g 1 (fun t => t.set a y)) ∧
      Becomes (.tagr g a b) s (s.dev.ran g 1 (fun t => t.set a (Word.plain (BitVec.ofNat 16 y.tag.bits.toNat)))) ∧
      Becomes (.tags g a 0) s (s.dev.ran g 1 (fun t => t.set a ⟨.plain, x.v⟩)) ∧
      Becomes (.tags g a 3) s (s.dev.ran g 1 (fun t => t.set a ⟨.poison, x.v⟩)) ∧
      (immSigned exi k = some imm →
        Becomes (.movi g exi a k) s (s.dev.ran g (exi.length + 1) (fun t => t.set a (Word.plain imm))))) ∧
  (∀ (g : Thr) (a : Reg) (s : State), Turn s.dev g →
      let t := s.dev.thr g
      let flags := (if t.fl.c then 1 else 0) + (if t.fl.z then 2 else 0) + (if t.fl.n then 4 else 0) + (if t.fl.v then 8 else 0)
        + (if t.fl.pm then 16 else 0) + (if t.fl.rm then 32 else 0)
      let reads (sp : Fin 8) (w : Word) : Prop := Becomes (.movFromSpecial g a sp) s (s.dev.ran g 1 (fun t => t.set a w))
      let v := (t.get a).v
      reads 0 (Word.plain t.rc) ∧ reads 1 (Word.plain (BitVec.ofNat 16 flags)) ∧ reads 2 (Word.plain t.segh) ∧
      reads 3 (Word.plain t.segl) ∧ reads 4 (Word.plain (BitVec.ofNat 16 g)) ∧ reads 5 t.ctxH ∧ reads 6 t.ctxL ∧
      ((t.get a).tag = .plain →
        Becomes (.movToSpecial g a 0) s (s.dev.ran g 1 (fun t => { t with rc := v })) ∧
        Becomes (.movToSpecial g a 1) s (s.dev.ran g 1 (fun t => { t with
          fl := ⟨v.getLsbD 0, v.getLsbD 1, v.getLsbD 2, v.getLsbD 3, v.getLsbD 4, v.getLsbD 5⟩ })) ∧
        Becomes (.movToSpecial g a 2) s (s.dev.ran g 1 (fun t => { t with segh := v })) ∧
        Becomes (.movToSpecial g a 3) s (s.dev.ran g 1 (fun t => { t with segl := v }))))

/-- R72: CMP, register and immediate form, sets Z only when the tags and the values of its operands are both equal, an immediate
counting as PLAIN; N, C and V come from the subtraction of the values; it sets both marks by its operands, writes nothing else and never
faults. -/
def Obligations.Comparison : Prop :=
  ∀ (g : Thr) (a b : Reg) (exi : Exi) (k : BitVec 4) (imm : W16) (s : State), Turn s.dev g →
    let x := (s.dev.thr g).get a
    let y := (s.dev.thr g).get b
    let cmp (y : Word) (t : Thread) : Thread :=
      let n : Int := x.v.toNat - y.v.toNat
      let r := BitVec.ofInt 16 n
      { t with fl := ⟨decide (n < 0), decide (x.tag = y.tag ∧ x.v = y.v), r.getLsbD 15,
        decide (x.v.getLsbD 15 ≠ y.v.getLsbD 15 ∧ r.getLsbD 15 ≠ x.v.getLsbD 15),
        x.isPoison || y.isPoison, x.isRef || y.isRef⟩ }
    Becomes (.cmp g a b) s (s.dev.ran g 1 (cmp y)) ∧
    (immSigned exi k = some imm → Becomes (.cmpImm g exi a k) s (s.dev.ran g (exi.length + 1) (cmp (Word.plain imm))))

/-- R69: a branch continues at (address of the branch word + 1 + displacement) mod 32,768 when its condition holds and at the next word
otherwise. A condition that holds while the poison mark is set raises a poison fault; while the reference mark is set BEQ and BNE behave
normally, and conditions 0x2–0xD raise a tag fault whether or not they hold. BAL and CALL are unconditional, and CALL writes w15 before
the jump. A fault leaves the thread HELD at the branch, with nothing written and its record sent. R78 and R79: BR, CALL, RET and JT
treat their register as an address operand: a HANDLE or TICKET raises a tag fault, POISON a poison fault, and a PLAIN word with V[15]
set a bus fault; otherwise it is the address, CALL writing the return address into w15 and jumping to the old value of its register, and
JT going to entry min(i, L) of the table after its literal. -/
def Obligations.JumpsAndBranches : Prop :=
  (∀ (g : Thr) (exi : Exi) (dd : W8) (n : Nat) (s : State), Turn s.dev g → branchDisp exi dd = some n →
      let t := s.dev.thr g
      let f := t.fl
      let next := t.pc.toNat + exi.length + 1
      let fault (cause : Nat) : Dev := (s.dev.begun g (exi.length + 1)).hold g ⟨cause, 0, false, 0, 0, 0⟩ exi.length none
      let jumps (yes : Bool) : Dev := s.dev.jumped g (exi.length + 1) (if yes then (next + n) % 32768 else next % 32768) id
      let equal (c : Instr) (yes : Bool) : Prop := Becomes c s (if yes && f.pm then fault 2 else jumps yes)
      let other (c : Instr) (yes : Bool) : Prop := Becomes c s (if f.rm then fault 1 else if yes && f.pm then fault 2 else jumps yes)
      equal (.beq g exi dd) f.z ∧ equal (.bne g exi dd) (!f.z) ∧
      other (.blo g exi dd) f.c ∧ other (.bhs g exi dd) (!f.c) ∧
      other (.bmi g exi dd) f.n ∧ other (.bpl g exi dd) (!f.n) ∧
      other (.bvs g exi dd) f.v ∧ other (.bvc g exi dd) (!f.v) ∧
      other (.bhi g exi dd) (!f.c && !f.z) ∧ other (.bls g exi dd) (f.c || f.z) ∧
      other (.blt g exi dd) (f.n != f.v) ∧ other (.bge g exi dd) (f.n == f.v) ∧
      other (.bgt g exi dd) (!f.z && f.n == f.v) ∧ other (.ble g exi dd) (f.z || f.n != f.v) ∧
      Becomes (.bal g exi dd) s (jumps true) ∧
      Becomes (.call g exi dd) s (s.dev.jumped g (exi.length + 1) ((next + n) % 32768)
        (fun t => t.set 15 (Word.plain (BitVec.ofNat 16 (next % 32768)))))) ∧
  (∀ (g : Thr) (a : Reg) (lit : BitVec 14) (s : State), Turn s.dev g →
      let t := s.dev.thr g
      let goes (c : Instr) (x : Word) (k : Nat) (d : Dev) : Prop :=
        let fault (cause sub : Nat) (src v : W16) : Dev := (s.dev.begun g 1).hold g ⟨cause, sub, false, src, 0, v⟩ 0 none
        Becomes c s (if x.isRef then fault 1 0 (BitVec.ofNat 16 k) x.v else if x.isPoison then fault 2 0 (BitVec.ofNat 16 k) x.v
          else if x.v.getLsbD 15 then fault 6 7 0 0 else d)
      let x := t.get a
      let dest := x.v.toNat
      goes (.br g a) x a (s.dev.jumped g 1 dest id) ∧
      goes (.callReg g a) x a (s.dev.jumped g 1 dest (fun t => t.set 15 (Word.plain (BitVec.ofNat 16 ((t.pc.toNat + 1) % 32768))))) ∧
      goes (.jt g a lit) x a (s.dev.jumped g 1 ((t.pc.toNat + 2 + (if dest < lit.toNat then dest else lit.toNat)) % 32768) id) ∧
      goes (.ret g) (t.get 15) 15 (s.dev.jumped g 1 (t.get 15).v.toNat id))

/-- R101–R103: a prefix before a word that may be repeated puts the count in HC (RC, or n + 1), enters the repeat, and moves PC to the
repeated word; REP.U also holds its engine (R107). The iteration of MOV after it counts HC down, and the last moves PC on. -/
def Obligations.RepeatPrefixes : Prop :=
  ∀ (g : Thr) (k : Fin 32) (n : Fin 16) (a b : Reg) (s : State),
    let t := s.dev.thr g
    let follower := s.dev.progWord (hearthOf g) (t.pc.toNat + 1)
    let into (count : W16) (r : RepState) : Dev := s.dev.ran g 1 (fun t => { t with hc := count, rep := r })
    (Turn s.dev g → repeatable follower .repI = true →
      Becomes (.repI g none) s (into t.rc .repI) ∧
      Becomes (.repI g (some k)) s (into (BitVec.ofNat 16 (k + 1)) .repI)) ∧
    (Turn s.dev g → repeatable follower .repU = true →
      Becomes (.repU g n) s ((into (BitVec.ofNat 16 (n + 1)) .repU).setEngn (engineOf g)
        { (s.dev.noted g).engn (engineOf g) with repU := some (g % 8) })) ∧
    (s.dev.canIssue g = true → t.rep = .repI → t.step = false → (s.dev.engn (engineOf g)).repU = none →
      (1 < t.hc.toNat → Reaches (.mov g a b) s (fun d =>
        (d.thr g).hc.toNat = t.hc.toNat - 1 ∧ (d.thr g).rep = .repI ∧ (d.thr g).pc = t.pc ∧
        (d.thr g).get a = t.get b)) ∧
      (t.hc.toNat = 1 → Reaches (.mov g a b) s (fun d =>
        (d.thr g).hc = 0 ∧ (d.thr g).rep = .none ∧ (d.thr g).pc = t.pc + 1 ∧ (d.thr g).get a = t.get b)))

/-- R64, R65, R68, R74 and R31: a load that its own hearth's larder serves puts the word (the pair; the byte, PLAIN or of a POISON word
POISON) with its tag in its register; with U set the base pair advances past the access as two PLAIN words. No other register changes,
and no flag and no byte of memory does. R75 and R270: a store to the own hearth's larder enters the engine's write buffer as one entry
of its 8-byte unit, and no byte of memory changes until it drains; with U set the base pair advances past the access. -/
def Obligations.LoadsAndStores : Prop :=
  (∀ (g : Thr) (exi : Exi) (a : Reg) (b p : PairN) (u : Bool) (disp : Nat) (s : State), Turn s.dev g →
      let t := s.dev.thr g
      let va := t.va p disp
      let low (size : Nat) : Nat := (t.low p disp + size) % 2 ^ 32
      let loads (c : Instr) (size : Nat) (dest : Nat → Option Word) : Prop :=
        Reaches c s (fun d => OnlyThreads (s.dev.noted g) d [g] ∧ t.Past (d.thr g) (exi.length + 1) (s.dev.creditLeft g (exi.length + 1)) ∧
          ∀ r : Fin 16, (d.thr g).get r = match dest r with
            | some w => w
            | none =>
              if u ∧ r.val = 2 * p.val then Word.plain (BitVec.ofNat 16 (low size / 65536))
              else if u ∧ r.val = 2 * p.val + 1 then Word.plain (BitVec.ofNat 16 (low size))
              else t.get r)
      (memDisp exi 2 = some disp → InOwnLarder s.dev g p disp 2 → (u = true → a.val / 2 ≠ p.val) →
        loads (.ld g exi a p u) 2 (fun r => if r = a.val then some (s.dev.mem.word (va / 2)) else none)) ∧
      (memDisp exi 4 = some disp → InOwnLarder s.dev g p disp 4 → (u = true → b ≠ p) →
        loads (.ldp g exi b p u) 4 (fun r =>
          if r = 2 * b.val then some (s.dev.mem.word (va / 2))
          else if r = 2 * b.val + 1 then some (s.dev.mem.word (va / 2 + 1)) else none)) ∧
      (memDisp exi 1 = some disp → InOwnLarder s.dev g p disp 1 → (u = true → a.val / 2 ≠ p.val) →
        (s.dev.mem.word (va / 2)).isRef = false →
        loads (.ldb g exi a p u) 1 (fun r => if r = a.val then some ⟨(s.dev.mem.word (va / 2)).tag, BitVec.ofNat 16
          ((s.dev.mem.word (va / 2)).v.toNat / (if va % 2 = 0 then 256 else 1) % 256)⟩ else none))) ∧
  (∀ (g : Thr) (exi : Exi) (a : Reg) (b p : PairN) (u : Bool) (disp : Nat) (s : State), Turn s.dev g →
      let t := s.dev.thr g
      let va := t.va p disp
      let e := (s.dev.noted g).engn (engineOf g)
      let slot := va / 2 % 4
      let stores (c : Instr) (size : Nat) (ws : List WbWord) : Prop :=
        Reaches c s (fun d => OnlyThreadsAndEngine (s.dev.noted g) d [g] (engineOf g) ∧ d.mem = s.dev.mem ∧
          d.engn (engineOf g) = { e with wb := [⟨va / 8, .uc, ws, g⟩], wbIn := e.wbIn + 1 } ∧
          t.Past (d.thr g) (exi.length + 1) (s.dev.creditLeft g (exi.length + 1)) ∧
          ∀ r : Fin 16, (d.thr g).get r =
            if u ∧ r.val = 2 * p.val then Word.plain (BitVec.ofNat 16 ((t.low p disp + size) % 2 ^ 32 / 65536))
            else if u ∧ r.val = 2 * p.val + 1 then Word.plain (BitVec.ofNat 16 (t.low p disp + size))
            else t.get r)
      (memDisp exi 2 = some disp → InOwnLarder s.dev g p disp 2 →
        stores (.st g exi a p u) 2 [⟨slot, t.get a, true, true, true⟩]) ∧
      (memDisp exi 4 = some disp → InOwnLarder s.dev g p disp 4 →
        stores (.stp g exi b p u) 4
          [⟨slot, t.get (2 * b.val), true, true, true⟩, ⟨slot + 1, t.get (2 * b.val + 1), true, true, true⟩]) ∧
      (memDisp exi 1 = some disp → InOwnLarder s.dev g p disp 1 → (t.get a).isRef = false →
        (s.dev.mem.word (va / 2)).isRef = false →
        stores (.stb g exi a p u) 1 [if va % 2 = 0 then ⟨slot, ⟨(t.get a).tag, (t.get a).v <<< (8 : Nat)⟩, true, false, false⟩
          else ⟨slot, t.get a, false, true, false⟩]))

/-- R56: a fabric response writes the results on their way (here of a load or a RECV: one word and FLAGS) and the thread is READY past
its instruction. No other thread, no memory and no register changes. R291, R293 and R296: a table walk that finds a valid entry installs
it as the most recently used of the hearth's TLB, and the load that waited runs again through it: here it reads a word of its own
hearth's larder into its register. -/
def Obligations.ResponsesAndWalks : Prop :=
  (∀ (g : Thr) (a : Reg) (w : Word) (f : Option Flags) (s : State),
      WaitsFor s.dev g (.resp ⟨[(a, w)], f, none⟩) →
        Reaches (.fabricResponse g) s (fun d => OthersKept s.dev d g ∧
          d.thr g = { (s.dev.thr g).set a w with
            st := .ready, cause := 0, wait := .none, fl := f.getD (s.dev.thr g).fl,
            pc := (s.dev.thr g).pc + BitVec.ofNat 15 (s.dev.thr g).ulen })) ∧
  (∀ (g : Thr) (a : Reg) (p : PairN) (entry : TlbEntry) (d1 : Dev) (s : State),
      let t := s.dev.thr g
      let h := hearthOf g
      let va := t.va p 0
      let pa := entry.pa va
      WaitsFor s.dev g (.walk (.ld g [] a p false) va false) → t.ulen = 1 →
      s.dev.translates (s.dev.ctxOf h) = true →
      (s.dev.hth h).tlb.find? (fun e => e.covers (s.dev.ctxOf h) va) = none →
      s.dev.walk (s.dev.ctxOf h) va false = (.inr entry, d1) → d1 = s.dev →
      s.dev.walking h (va / 65536) = true → s.dev.walkWaits (s.dev.ctxOf h) va = false →
      entry.covers (s.dev.ctxOf h) va = true → entry.attr = .uc →
      (t.get (2 * p.val)).tag = .plain → (t.get (2 * p.val + 1)).tag = .plain → pa % 2 = 0 → va % 2 = 0 →
      0x4000000 + h * 0x80000 ≤ pa → pa < 0x4000000 + (h + 1) * 0x80000 → s.dev.domOn (domHearth h) = true →
      (∀ k < 4, s.dev.bit .dbgWp h k 31 = false) → (s.dev.engn (engineOf g)).wb = [] →
      s.dev.mem.ecc.get 0 (0x100000000000 + pa / 2) = 0 →
        Reaches (.tableWalkDone ⟨g, by omega⟩) s (fun d => (d.hth h).tlb.head? = some entry ∧ d.mem = s.dev.mem ∧
          (d.thr g).st = .ready ∧ (d.thr g).get a = s.dev.mem.word (pa / 2) ∧ (d.thr g).pc = t.pc + 1))

/-- R270 and R42: the oldest entry of a write buffer, here whole words for a larder that is on, reaches memory: its words read as
stored, with their tags, every other word as before, and the buffer holds the entries behind it. R76 and R270: FENCE completes at once
when its engine has drained every store it accepted; otherwise its thread waits for the stores accepted so far, and its effect, which is
to complete, comes with RELEASE_EFFECT once they have drained. R77: an error that a target reports on a drained store is logged with the
address, and changes nothing else. -/
def Obligations.BufferedStoresReachMemory : Prop :=
  (∀ (h e : Fin 16) (unit slot g : Nat) (w : Word) (rest : List WbEntry) (s : State),
      let k := h.val * 16 + e.val
      let x := s.dev.engn k
      x.wb = ⟨unit, .uc, [⟨slot, w, true, true, true⟩], g⟩ :: rest → slot < 4 →
      0x4000000 ≤ unit * 8 → unit * 8 < 0x4800000 → s.dev.domOn (domHearth ((unit * 8 - 0x4000000) / 0x80000)) = true →
      s.dev.lck.unsent = [] →
        Reaches (.writeBufferDrain h e) s (fun d =>
          d.mem.word (unit * 4 + slot) = w ∧ (∀ wa, wa ≠ unit * 4 + slot → d.mem.word wa = s.dev.mem.word wa) ∧
          d.engn k = { x with wb := rest, wbOut := x.wbOut + 1 } ∧ (∀ n, n ≠ k → d.engn n = s.dev.engn n) ∧
          d = { s.dev with mem := d.mem, eng := { s.dev.eng with engines := d.eng.engines } })) ∧
  (∀ (g : Thr) (n : Nat) (s : State),
      let e := s.dev.engn (engineOf g)
      let t := s.dev.thr g
      (Turn s.dev g → e.wbIn ≤ e.wbOut → Becomes (.fence g) s (s.dev.ran g 1 id)) ∧
      (Turn s.dev g → e.wbOut < e.wbIn → Becomes (.fence g) s ((s.dev.noted g).setThr g
        { t with credit := s.dev.creditLeft g 1, ulen := 1, wait := .drain (.fence g) e.wbIn })) ∧
      (t.wait = .drain (.fence g) n → n ≤ e.wbOut → t.rep = .none → t.step = false → t.ulen = 1 →
        Becomes (.releaseEffect g) s (s.dev.setThr g { t with wait := .none, pc := t.pc + 1 }))) ∧
  (∀ (h : Fin 16) (pa : BitVec 36) (s : State), LogClear s.dev 18 h →
      Becomes (.targetError h pa) s (s.dev.recorded 1 18 0x05 h
        (BitVec.ofNat 16 (pa.toNat / 2 ^ 32)) (BitVec.ofNat 16 (pa.toNat / 65536)) (BitVec.ofNat 16 pa.toNat)))

/-- R80, R113, R115 and R118: WAIT with TC disarmed completes and with TC armed blocks with cause 8; SETTC arms TC at a time after now
or at the next time with the given low 32 bits, or disarms it; TC_MATCH at a TICKCLK after the arming, at a time that has come, disarms
TC and ends the WAIT. YIELD of a swift thread sets its mark; of the current patient thread it forces a patient switch, which chooses
among the READY patient threads with STOP clear: the yielding one only where no other is, then boosted before not, a weight before none,
the highest credit, the lowest number; of another patient thread it does nothing. -/
def Obligations.TimerAndYield : Prop :=
  ∀ (g : Thr) (a : PairN) (s : State),
    let t := s.dev.thr g
    let e := s.dev.engn (engineOf g)
    let now := s.dev.time.ns.toNat
    let n := (t.get (2 * a)).v.toNat * 65536 + (t.get (2 * a + 1)).v.toNat
    let x := g.val % 8
    let after := s.dev.ran g 1 id
    let en := after.engn (engineOf g)
    let other (y : Nat) : Thread := after.thr (engineOf g * 8 + y)
    let fit (y : Nat) : Prop := y < 8 ∧ (other y).st = .ready ∧ (other y).stop = false ∧ en.isSwift y = false
    -- `y` is not chosen before `z` by the tests on boost, weight, credit and number
    let behind (y z : Nat) : Prop :=
      ((other y).boost = true → (other z).boost = true) ∧
      ((other y).boost = (other z).boost →
        (0 < en.weight y → 0 < en.weight z) ∧
        ((0 < en.weight y ↔ 0 < en.weight z) →
          (other y).credit ≤ (other z).credit ∧ ((other y).credit = (other z).credit → z ≤ y)))
    let arm (x : Nat) (t : Thread) : Thread := { t with tc := BitVec.ofNat 36 x, tcArmed := true, tcTick := s.dev.time.tick }
    (Turn s.dev g → t.tcArmed = false → Becomes (.wait g) s (s.dev.ran g 1 id)) ∧
    (Turn s.dev g → t.tcArmed = true → Becomes (.wait g) s ((s.dev.begun g 1).block g 8 .tc)) ∧
    (Turn s.dev g → (t.get (2 * a)).tag = .plain → (t.get (2 * a + 1)).tag = .plain →
      Becomes (.settcRelative g a) s (s.dev.ran g 1 (arm (now + n))) ∧
      Becomes (.settcAbsolute g a) s (s.dev.ran g 1 (arm
        (now / 2 ^ 32 * 2 ^ 32 + (if n < now % 2 ^ 32 then 2 ^ 32 else 0) + n)))) ∧
    (Turn s.dev g → Becomes (.settcDisarm g) s (s.dev.ran g 1 (fun t => { t with tcArmed := false }))) ∧
    (Turn s.dev g → e.isSwift x = true →
      Becomes (.yield g) s (s.dev.ran g 1 (fun t => { t with yielded := true }))) ∧
    (Turn s.dev g → e.isSwift x = false → e.cur ≠ some x → Becomes (.yield g) s after) ∧
    (Turn s.dev g → e.isSwift x = false → e.cur = some x → Reaches (.yield g) s (fun d =>
      let c := (d.engn (engineOf g)).cur
      d = after.setEngn (engineOf g) { en with cur := c, curSince := s.dev.engclk } ∧
        (c = none → ∀ y < 8, ¬ fit y) ∧ (c ≠ none → ∃ z < 8, c = some z) ∧
        (∀ z < 8, c = some z → fit z ∧ (z = x → ∀ y < 8, fit y → y = x) ∧ (∀ y < 8, fit y → y ≠ x → behind y z)))) ∧
    (t.tcArmed = true → t.tcTick < s.dev.time.tick → (now + 2 ^ 36 - t.tc.toNat) % 2 ^ 36 < 2 ^ 35 → t.wait = .none →
      Becomes (.tcMatch g) s (s.dev.setThr g { t with tcArmed := false })) ∧
    (t.tcArmed = true → t.tcTick < s.dev.time.tick → (now + 2 ^ 36 - t.tc.toNat) % 2 ^ 36 < 2 ^ 35 → WaitsFor s.dev g .tc → t.ulen = 1 →
      Reaches (.tcMatch g) s (fun d => OthersKept s.dev d g ∧
        d.thr g = { t with tcArmed := false, st := .ready, cause := 0, wait := .none, pc := t.pc + 1 }))

/-- R121: SEND stages one word for the flue that wB names; SENDE stages the last word and publishes the whole message as the newest of
the flue when it has places and no message blocked before it, and otherwise blocks (cause 5 for a local flue, 6 for a long one). R121:
the thread that blocked first in SENDE on a flue publishes its message once the flue has its places, and is READY past the SENDE. -/
def Obligations.FlueMessagesAreSent : Prop :=
  (∀ (g : Thr) (a b : Reg) (f : Nat) (s : State), ReleaseTurn s.dev g →
      let t := s.dev.thr g
      let name := (t.get b).v
      let msg := t.staged ++ [t.get a]
      let used := ((s.dev.flue f).map (fun m => m.words.length)).sum
      (t.get b).tag = .plain → flueOf (hearthOf g) name = some f → f ≠ hearthOf g * 256 →
      (t.staged ≠ [] → t.stagedName = name) → t.staged.length < 8 →
        Becomes (.send g a b) s (s.dev.ran g 1 (fun t => { t with staged := msg, stagedName := name })) ∧
        (s.dev.senders f = [] → used + msg.length ≤ 8 →
          Becomes (.sende g a b) s ((s.dev.setFlue f (s.dev.flue f ++ [⟨msg, none⟩])).ran g 1
            (fun t => { t with staged := [], stagedName := 0 }))) ∧
        (8 < used + msg.length →
          Becomes (.sende g a b) s (((s.dev.begun g 1).updThr g (fun t => { t with staged := msg, stagedName := name })).block
            g (if f < 4096 then 5 else 6) (.sende f)))) ∧
  (∀ (g : Thr) (f : Nat) (s : State),
      let t := s.dev.thr g
      let used := ((s.dev.flue f).map (fun m => m.words.length)).sum
      WaitsFor s.dev g (.sende f) → s.dev.senders f = [(g.val, t.blockSeq)] → used + t.staged.length ≤ 8 → t.ulen = 1 →
        Reaches (.delayedPublish g) s (fun d => OthersKept s.dev d g ∧ d.flue f = s.dev.flue f ++ [⟨t.staged, none⟩] ∧
          (∀ k, k ≠ f → d.flue k = s.dev.flue k) ∧
          d.thr g = { t with staged := [], stagedName := 0, st := .ready, cause := 0, wait := .none, pc := t.pc + 1 }))

/-- R56, R81, R121, R122 and R376: RECV by a thread that is bound to no message of the flue binds it to the oldest one that nobody
reads, and RECV by a bound thread goes on with its message: each delivers the next word with its tag, Z telling the last, which ends the
binding. A local flue answers at once, a long one with its response. With no message to bind, or behind others that wait, the thread
blocks (cause 3 or 4). F0 of another than the warden, a transmit flue and a flue that the thread is not bound to raise bus fault 6. The
thread that blocked first is bound to a message that has come and receives its first word. R56, R81 and R376: CHKC answers the complete
messages of the flue in V[15:4] and its free word places in V[3:0], at once for a local flue; for a long one the answer is on its way.
On a transmit flue it raises bus fault 6. -/
def Obligations.FlueMessagesAreReceived : Prop :=
  (∀ (g : Thr) (a b : Reg) (f f2 : Nat) (w : Word) (ws : List Word) (pre rest : List FlueMsg) (s : State),
      let t := s.dev.thr g
      let name := (t.get b).v
      let mine := hearthOf g * 256
      let last := decide (ws = [])
      let flags : Flags := ⟨false, last, false, false, false, false⟩
      let left : List FlueMsg := pre ++ (if ws = [] then rest else ⟨ws, some g⟩ :: rest)
      let bound (x : W16) : W16 := if ws = [] then 0 else x
      let faults := Becomes (.recv g a b) s ((s.dev.begun g 1).hold g ⟨6, 6, false, 0, 0, 0⟩ 0 none)
      let delivers (name : W16) : Prop :=
        (f < 4096 → Becomes (.recv g a b) s ((s.dev.setFlue f left).ran g 1 (fun t =>
          { t.set a w with bindName := bound name, fl := flags }))) ∧
        (4096 ≤ f → Becomes (.recv g a b) s ((((s.dev.begun g 1).setFlue f left).updThr g (fun t =>
          { t with bindName := bound name })).block g 1 (.resp ⟨[(a, w)], some flags, none⟩)))
      (Turn s.dev g → (t.get b).tag = .plain → flueOf (hearthOf g) name = some f →
        ((f = mine ∧ g.val % 128 ≠ 0) ∨ s.dev.isTxFlue f = true → faults) ∧
        ((f = mine → g.val % 128 = 0) → s.dev.isTxFlue f = false →
          (s.dev.boundTo g = some f2 → f2 ≠ f → faults) ∧
          (s.dev.boundTo g = none → s.dev.receivers f = [] → s.dev.flue f = pre ++ ⟨w :: ws, none⟩ :: rest →
            (∀ m ∈ pre, m.reader ≠ none ∧ m.reader ≠ some g.val) → delivers name) ∧
          (s.dev.boundTo g = some f → s.dev.flue f = pre ++ ⟨w :: ws, some g⟩ :: rest → (∀ m ∈ pre, m.reader ≠ some g.val) →
            delivers t.bindName) ∧
          (s.dev.boundTo g = none → s.dev.receivers f ≠ [] ∨ (∀ m ∈ s.dev.flue f, m.reader ≠ none) →
            Becomes (.recv g a b) s ((s.dev.begun g 1).block g (if f < 4096 then 3 else 4) (.recv a f))))) ∧
      (WaitsFor s.dev g (.recv a f) → firstBlocked (s.dev.receivers f) g = true → t.ulen = 1 → s.dev.isTxFlue f = false →
        s.dev.flue f = pre ++ ⟨w :: ws, none⟩ :: rest → (∀ m ∈ pre, m.reader ≠ none ∧ m.reader ≠ some g.val) →
          Reaches (.delayedBind g) s (fun d => OthersKept s.dev d g ∧ d.flue f = left ∧ (∀ k, k ≠ f → d.flue k = s.dev.flue k) ∧
            (d.thr g).get a = w ∧ (d.thr g).fl = flags ∧ (d.thr g).st = .ready ∧ (d.thr g).pc = t.pc + 1))) ∧
  (∀ (g : Thr) (a b : Reg) (f : Nat) (s : State), Turn s.dev g →
      let t := s.dev.thr g
      let used := ((s.dev.flue f).map (fun m => m.words.length)).sum
      let w := Word.plain (BitVec.ofNat 16 ((s.dev.flue f).length * 16 + (8 - used)))
      (t.get b).tag = .plain → flueOf (hearthOf g) (t.get b).v = some f →
        (f < 4096 → Becomes (.chkc g a b) s (s.dev.ran g 1 (fun t => t.set a w))) ∧
        (4096 ≤ f → s.dev.isTxFlue f = false → Becomes (.chkc g a b) s ((s.dev.begun g 1).block g 1 (.resp ⟨[(a, w)], none, none⟩))) ∧
        (s.dev.isTxFlue f = true → Becomes (.chkc g a b) s ((s.dev.begun g 1).hold g ⟨6, 6, false, 0, 0, 0⟩ 0 none)))

/-- R93–R95 and R60: TRAP n, BKPT n without a debugger and a reserved encoding enter the trap of vector n, 33 and 32: the frame of
return address, FLAGS, argument with vector, and trapping word enters the write buffer for the thread's frame address, the in-trap bit
is set and PC is the vector. (The UC attribute of the frame's entry is log entry 42, DESIGN CHOICE.) R96, R97 and R411: RFT restores PC
and FLAGS from the thread's frame and clears the in-trap bit; a trap with the in-trap bit set is a warden-held fault of cause 8 in place
of an entry; BKPT in an attached hearth completes and stops the thread, with n held for the debugger (R88) and `DBG.STOPPED` and
`ERR.IRQ_PEND.DBG` set. (That BKPT completes with PC at the next word and n kept in the thread is log entry 15, DEDUCED.) -/
def Obligations.TrapsAndReturns : Prop :=
  (∀ (g : Thr) (n : Fin 32) (k : Fin 64) (s : State), Turn s.dev g →
      let t := s.dev.thr g
      let e := engineOf g
      let pc := t.pc.toNat
      let unit := (0x4000000 + hearthOf g * 0x80000 + 0x7FC00 + g.val % 128 * 8) / 8
      let words (vec arg ret : Nat) : List WbWord :=
        [⟨0, Word.plain (BitVec.ofNat 16 (ret % 32768)), true, true, true⟩, ⟨1, Word.plain t.fl.word, true, true, true⟩,
         ⟨2, Word.plain (BitVec.ofNat 16 (arg * 256 + vec)), true, true, true⟩,
         ⟨3, Word.plain ((s.dev.progWord (hearthOf g) pc).zeroExtend 16), true, true, true⟩]
      let enters (c : Instr) (vec arg ret : Nat) : Prop :=
        Reaches c s (fun d => OnlyThreadsAndEngine (s.dev.noted g) d [g.val] e ∧ d.mem = s.dev.mem ∧
          d.thr g = { t with inTrap := true, pc := BitVec.ofNat 15 vec, credit := s.dev.creditLeft g 1, ulen := 1 } ∧
          d.engn e = { (s.dev.noted g).engn e with wbIn := (s.dev.engn e).wbIn + 1, wb := [⟨unit, .uc, words vec arg ret, g⟩] })
      t.inTrap = false → (s.dev.engn e).wb = [] →
        enters (.trap g n) n 0 (pc + 1) ∧ enters (.emuTrap g) 32 0 pc ∧
        (s.dev.bit .dbgCtrl 0 0 (hearthOf g) = false → enters (.bkpt g k) 33 k (pc + 1))) ∧
  (∀ (g : Thr) (n : Fin 32) (k : Fin 64) (s : State), Turn s.dev g →
      let t := s.dev.thr g
      let h := hearthOf g
      let frame := 0x4000000 + h * 0x80000 + 0x7FC00 + g.val % 128 * 8
      let w0 := s.dev.mem.word (frame / 2)
      let w1 := s.dev.mem.word (frame / 2 + 1)
      let flags : Flags :=
        ⟨w1.v.getLsbD 0, w1.v.getLsbD 1, w1.v.getLsbD 2, w1.v.getLsbD 3, w1.v.getLsbD 4, w1.v.getLsbD 5⟩
      (t.inTrap = true → (s.dev.engn (engineOf g)).wb = [] → w0.tag = .plain → w1.tag = .plain → w0.v.getLsbD 15 = false →
        (s.dev.mem.word (frame / 2 + 2)).tag = .plain → (s.dev.mem.word (frame / 2 + 3)).tag = .plain →
        (∀ k < 4, s.dev.mem.ecc.get 0 (0x100000000000 + frame / 2 + k) = 0) →
          Becomes (.rft g) s (s.dev.jumped g 1 w0.v.toNat (fun t => { t with inTrap := false, fl := flags }))) ∧
      (t.inTrap = true → s.dev.exiLead h t.pc.toNat = 0 → Becomes (.trap g n) s ((s.dev.begun g 1).hold g ⟨8, 1, false, 0, 0, 0⟩ 0 none)) ∧
      (s.dev.bit .dbgCtrl 0 0 h = true → Reaches (.bkpt g k) s (fun d =>
        (d.thr g).pc = t.pc + 1 ∧ (d.thr g).bkpt = some k ∧ (d.thr g).stop = true ∧ (d.thr g).stopped = true ∧ (d.thr g).st = .ready ∧ d.mem = s.dev.mem ∧
        d.bit .dbgStopped 0 0 h = true ∧ d.bit .errIrqPend 0 0 3 = true)))

/-- R86, R326, R327 and R329: LOCK sends an acquiring request, with the class of the thread's task as its priority, and blocks (cause
2). At the lock unit a free lock is granted at once, with ABANDONED and PREV in its status, and a request for a held one joins its queue
behind those of the same or higher priority, and boosts the owner where INHERIT_EN is set and its priority is above the owner's. R324,
R326, R328 and R330: the grant writes the lock-ownership handle into the pair, for LOCK the status word with Z and C into wB, the status
latch and the hearth's record of the held lock; a time-out answers zero words and TIMEOUT with WAITED and takes the waiter from the
queue. In both the thread is READY, past its LOCK or acquiring load where it is in no repeat. R331 and R332: UNLOCK of a held lock takes
it out of the record, and its release leaves for the lock unit, at once when the engine has drained the stores before it and else when
it has; at the lock unit a release or an abandonment that names the lock's owner and generation frees the lock with the next generation,
an abandonment marking it with PREV, one count and one record, and the first waiter is granted; one that names another owner or
generation has no effect. -/
def Obligations.LocksAreGrantedAndFreed : Prop :=
  (∀ (g : Thr) (a : PairN) (b : Reg) (n p o : Nat) (pre rest : List LockMsg) (s : State),
      let t := s.dev.thr g
      let w := t.get b
      let l := s.dev.lock n
      let first := s.dev.lck.msgs = pre ++ .request n g p :: rest ∧
        pre.all (fun m => match m with | .request _ x _ => x != g.val | _ => true) = true
      let kept (d : Dev) : Prop := (∀ k, k ≠ n → d.lock k = s.dev.lock k) ∧ d.lck.unsent = s.dev.lck.unsent
      (Turn s.dev g → w.tag = .plain → w.v.toNat = n → n < 4096 → b.val / 2 ≠ a.val → t.locks.length < 8 →
        (∀ x ∈ t.locks, x.1 ≠ n) →
          Becomes (.lock g a b) s (((s.dev.begun g 1).lockSend (.request n g (s.dev.lockPrio g))).block g 2
            (.lock n a (some b) none))) ∧
      (first → l.owner = none →
        Reaches (.lockRequestArrive g) s (fun d => kept d ∧ d.lock n = { l with owner := some g.val, ownPrio := p } ∧
          d.lck.msgs = pre ++ rest ++ [.grant n g l.gen (BitVec.ofNat 16 (if l.abandoned then 0x4000 + l.prev % 2048 else 0))] ∧
          d.ctr .lckAcquires = s.dev.ctr .lckAcquires + 1 ∧ d.mem = s.dev.mem)) ∧
      (first → l.owner = some o →
        Reaches (.lockRequestArrive g) s (fun d => kept d ∧ d.lck.msgs = pre ++ rest ∧ d.lock n = { l with
            queue := l.queue.filter (fun x => decide (p ≤ x.prio)) ++ [⟨g, p, s.dev.time.tick⟩] ++
              l.queue.filter (fun x => decide (x.prio < p)) } ∧
          (s.dev.bit .lckCtrl 0 0 1 = false ∨ p ≤ l.ownPrio → d.eng = s.dev.eng) ∧
          (s.dev.bit .lckCtrl 0 0 1 = true → l.ownPrio < p → (d.thr o).boost = true)))) ∧
  (∀ (g : Thr) (n p b gen us : Nat) (stat : W16) (wb : Option Nat) (upd : Option (Nat × Nat)) (pre rest : List LockMsg)
      (w : LockWaiter) (q r : List LockWaiter) (s : State),
      let t := s.dev.thr g
      let l := s.dev.lock n
      let granted := s.dev.lck.msgs = pre ++ .grant n g gen stat :: rest ∧
        pre.all (fun m => match m with | .grant _ x _ _ => x != g.val | _ => true) = true
      let late := us = s.dev.fld .lckTmo (s.dev.fld .lckCfg n 0 2 0) 0 19 0 ∧ 0 < us ∧ w.since + us * 100 ≤ s.dev.time.tick ∧
        l.queue = q ++ w :: r ∧ w.g = g ∧ (q ++ r).all (fun x => x.g != g.val) = true
      let status : W16 := BitVec.ofNat 16 (0xA000 + (if l.abandoned then 0x4000 + l.prev % 2048 else 0))
      let answer (d : Dev) (stat : W16) (held : List (Nat × Nat)) : Prop :=
        (d.thr g).lockStat = stat ∧ (d.thr g).locks = t.locks ++ held ∧ (d.thr g).st = .ready
      let pair (d : Dev) (stat : W16) (x y : Word) : Prop := (d.thr g).get (2 * p) = x ∧ (d.thr g).get (2 * p + 1) = y ∧
        (d.thr g).get b = Word.plain stat ∧ (d.thr g).fl = ⟨stat.getLsbD 14, stat.getLsbD 15, false, false, false, false⟩ ∧
        (d.thr g).pc = t.pc + 1
      let handle := Word.mk .handle (BitVec.ofNat 16 (13 * 4096 + gen % 4096))
      (t.wait = .lock n p wb upd → t.wdDue = false →
        (granted → Reaches (.lockGrant g) s (fun d => answer d stat [(n, gen)] ∧ d.lck = { s.dev.lck with msgs := pre ++ rest })) ∧
        (late → Reaches (.lockTimeout g) s (fun d => answer d status [] ∧ d.lock n = { l with queue := q ++ r } ∧
          (∀ k, k ≠ n → d.lock k = s.dev.lock k) ∧ d.lck.msgs = s.dev.lck.msgs ∧
          ((s.dev.ctr .lckTimeouts).toNat < 0xFFFFFFFE → d.ctr .lckTimeouts = s.dev.ctr .lckTimeouts + 1)))) ∧
      (WaitsFor s.dev g (.lock n p (some b) none) → t.ulen = 1 → p < 8 → b < 16 → b / 2 ≠ p →
        (granted → Reaches (.lockGrant g) s (fun d => OthersKept s.dev d g ∧ pair d stat handle ⟨.handle, BitVec.ofNat 16 n⟩)) ∧
        (late → Reaches (.lockTimeout g) s (fun d => pair d status Word.zero Word.zero)))) ∧
  (∀ (g : Thr) (a : PairN) (n : Fin 4096) (gen : Nat) (clr : Bool) (pre rest : List LockMsg) (w : LockWaiter) (q : List LockWaiter) (s : State),
      let t := s.dev.thr g
      let l := s.dev.lock n
      let e := s.dev.engn (engineOf g)
      let next := (gen + 1) % 4096
      let released := s.dev.lck.msgs = pre ++ .release n g gen clr :: rest ∧
        pre.all (fun m => match m with | .release x _ _ _ => x != n.val | _ => true) = true
      let left := s.dev.lck.msgs = pre ++ .abandon n g gen :: rest ∧
        pre.all (fun m => match m with | .abandon x _ _ => x != n.val | _ => true) = true
      let becomes (d : Dev) (l : Lock) (more : List LockMsg) : Prop := d.lock n = l ∧ (∀ k, k ≠ n.val → d.lock k = s.dev.lock k) ∧
        d.lck.msgs = pre ++ rest ++ more ∧ d.mem = s.dev.mem
      let grant (prev : Nat) (mark : Bool) : LockMsg := .grant n w.g next (BitVec.ofNat 16 (0x2000 + (if mark then 0x4000 + prev % 2048 else 0)))
      (Turn s.dev g → gen < 4096 → t.get (2 * a) = ⟨.handle, BitVec.ofNat 16 (13 * 4096 + gen)⟩ →
        t.get (2 * a + 1) = ⟨.handle, BitVec.ofNat 16 n⟩ → t.locks.find? (fun x => x.1 == n.val) = some (n.val, gen) →
          (e.wbIn ≤ e.wbOut → Becomes (.unlock g a clr) s ((s.dev.ran g 1 (fun t => { t with
            locks := t.locks.filter (fun x => x.1 != n.val) })).lockSend (.release n g gen clr))) ∧
          (e.wbOut < e.wbIn → Reaches (.unlock g a clr) s (fun d => OnlyThreads (s.dev.noted g) { d with lck := s.dev.lck } [g] ∧
            (d.thr g).locks = t.locks.filter (fun x => x.1 != n.val) ∧ (d.thr g).pc = t.pc ∧
            d.lck = { s.dev.lck with unsent := s.dev.lck.unsent ++ [(engineOf g, e.wbIn, .release n g gen clr)] }))) ∧
      (released → l.owner = some g.val → l.gen = gen →
        (l.queue = [] → Reaches (.lockReleaseArrive n) s (fun d => becomes d
          { l with owner := none, ownPrio := 0, gen := next, abandoned := l.abandoned && !clr } [])) ∧
        (l.queue = w :: q → Reaches (.lockReleaseArrive n) s (fun d => becomes d
          { l with owner := some w.g, ownPrio := w.prio, gen := next, queue := q, abandoned := l.abandoned && !clr }
          [grant l.prev (l.abandoned && !clr)]))) ∧
      (released → l.owner ≠ some g.val ∨ l.gen ≠ gen → Reaches (.lockReleaseArrive n) s (fun d => becomes d l [])) ∧
      (left → l.owner = some g.val → l.gen = gen → (s.dev.ctr .lckAbandons).toNat < 0xFFFFFFFE → LogClear s.dev 12 0 →
        (l.queue = [] → Reaches (.lockAbandon n) s (fun d => becomes d
          { l with owner := none, ownPrio := 0, gen := next, abandoned := true, prev := g } [] ∧
          d.ctr .lckAbandons = s.dev.ctr .lckAbandons + 1 ∧ (d.log.srcs.get ⟨none, none, 0⟩ (12 * 1024)).first =
            some ⟨0, 12, 0x08, 0, BitVec.ofNat 16 n, BitVec.ofNat 16 g, 0, s.dev.time.ns, false⟩)) ∧
        (l.queue = w :: q → Reaches (.lockAbandon n) s (fun d => becomes d
          { l with owner := some w.g, ownPrio := w.prio, gen := next, queue := q, abandoned := true, prev := g } [grant g true]))) ∧
      (left → l.owner ≠ some g.val ∨ l.gen ≠ gen → Reaches (.lockAbandon n) s (fun d => becomes d l [])))

/-- R87 and R334–R336: CPM.TO and CPM.FROM move a pair to and from a coprocessor register that no unfinished operation is to write; CPGO
queues a defined operation of a unit that is not busy for the thread, with c0–c6 and the stores accepted before it latched; CPTST sets Z
while the unit is busy and C by its last completion. -/
def Obligations.CoprocessorInstructions : Prop :=
  ∀ (g : Thr) (n a : PairN) (x : Fin 3) (op : Fin 16) (s : State), Turn s.dev g →
    let h := hearthOf g
    let t := s.dev.thr g
    let hi := t.get (2 * a)
    let lo := t.get (2 * a + 1)
    let q := s.dev.unitOps h x
    let c := (List.range 14).map (fun k => s.dev.eng.cregs.get Word.zero (g * 16 + k))
    let x4 : Fin 4 := ⟨x, by omega⟩
    (s.dev.cregPending g n = false → noRef [hi, lo] →
      Becomes (.cpmTo g n a) s ((s.dev.setCreg g n hi lo).ran g 1 id)) ∧
    (s.dev.cregPending g n = false → Becomes (.cpmFrom g a n) s (s.dev.ran g 1 (fun t =>
      (t.set (2 * a) (s.dev.creg g n).1).set (2 * a + 1) (s.dev.creg g n).2))) ∧
    (op.val % 8 < ([3, 4, 2] : List Nat).getD x 0 → s.dev.cpBusy g x = false → q.length < 16 →
      Becomes (.cpgo g x4 op) s ((s.dev.setUnitOps h x
        (q ++ [⟨g, op % 8, decide (8 ≤ op.val), c, (s.dev.engn (engineOf g)).wbIn, none, none, SmBlock.fresh⟩])).ran g 1 id)) ∧
    Becomes (.cptst g x4) s (s.dev.ran g 1 (fun t =>
      { t with fl := ⟨s.dev.eng.cerr.get false (g * 4 + x), s.dev.cpBusy g x, false, false, false, false⟩ }))

/-- R337 for the check unit: over LEN bytes of its source in the own larder CRC32 and CRC32C come to the published CRC from the initial
value, TPZ to the Toeplitz hash under the hearth's key and OCS to the folded sum; c7 will read OK with progress LEN, and memory is as it
was. The algorithms are the model's (log entry 25). R337 for the search unit with no valid pattern: SCAN and FIRST read their LEN source
bytes, find nothing, write nothing, and will answer zero in c4 and OK with progress LEN in c7. R337 for the cipher unit with no text:
GCM_ENC writes the tag of the empty text to its destination, GCM_DEC accepts exactly that tag at its source, and CMAC writes the MAC of
the empty message; c7 will read OK with progress 0. The algorithms are the model's (log entry 25). R335 and R339: the completion of the
operation at a unit's head writes c7 and, where the operation has a result, c4; the unit goes on to the next operation, and
`HTH.SMITHY_OPS` counts. -/
def Obligations.SmithyOperations : Prop :=
  (∀ (h : Fin 16) (vs : List W16) (o : SmOp) (rest : List SmOp) (s : State),
      let v (k : Nat) : Nat := (vs.getD k 0).toNat
      let src := v 2 % 16 * 2 ^ 32 + v 0 * 65536 + v 1
      let bs := s.dev.mem.bytes src (v 3)
      let init := v 6 * 65536 + v 7
      let key := (List.range 10).flatMap (fun n => Crypto.toBe 4 (s.dev.rd .hthTpzKey h n).toNat)
      let comes (c : Instr) (r : Nat) : Prop := Reaches c s (fun d =>
        d.unitOps h 1 = { o with began := some s.dev.engclk, out := some (Word.zero, Word.plain (BitVec.ofNat 16 (v 3)),
          some (Word.plain (BitVec.ofNat 16 (r / 65536)), Word.plain (BitVec.ofNat 16 r))) } :: rest ∧ d.mem = s.dev.mem)
      v 2 < 256 → PlainLarder s.dev h src (v 3) →
        (SmithyHead s.dev h 1 0 vs o rest → comes (.crc32 h) (Crypto.crc32Run init bs)) ∧
        (SmithyHead s.dev h 1 1 vs o rest → comes (.crc32c h) (Crypto.crc32cRun init bs)) ∧
        (SmithyHead s.dev h 1 2 vs o rest → v 3 ≤ 36 → comes (.toeplitzHash h) (Crypto.toeplitz key bs)) ∧
        (SmithyHead s.dev h 1 3 vs o rest → comes (.onesComplementSum h)
          (Crypto.fold16 (v 7 + ((bytesToWords bs).map (fun w => w.v.toNat)).sum)))) ∧
  (∀ (h : Fin 16) (vs : List W16) (o : SmOp) (rest : List SmOp) (s : State),
      let v (k : Nat) : Nat := (vs.getD k 0).toNat
      let src := v 2 % 16 * 2 ^ 32 + v 0 * 65536 + v 1
      let finds (c : Instr) : Prop := Reaches c s (fun d =>
        d.unitOps h 2 = { o with began := some s.dev.engclk, out := some (Word.zero, Word.plain (BitVec.ofNat 16 (v 3)),
          some (Word.zero, Word.zero)) } :: rest ∧ d.mem = s.dev.mem)
      v 2 < 256 → PlainLarder s.dev h src (v 3) → (s.dev.hth h).pats = Map.empty →
        (SmithyHead s.dev h 2 0 vs o rest → finds (.scan h)) ∧ (SmithyHead s.dev h 2 1 vs o rest → finds (.first h))) ∧
  (∀ (h : Fin 16) (vs : List W16) (key : KeySlot) (o : SmOp) (rest : List SmOp) (s : State),
      let v (k : Nat) : Nat := (vs.getD k 0).toNat
      let src := v 2 % 16 * 2 ^ 32 + v 0 * 65536 + v 1
      let dst := v 2 / 16 % 16 * 2 ^ 32 + v 4 * 65536 + v 5
      let iv := ([8, 9, 10, 11, 12, 13] : List Nat).flatMap (fun k => Crypto.toBe 2 (v k))
      let tag := Crypto.gcmTag (Crypto.roundKeys key.bytes) iv [] []
      let done (d : Dev) : Prop := d.unitOps h 0 = { o with began := some s.dev.engclk, out := some (Word.zero, Word.zero, none) } :: rest
      let writes (c : Instr) (bs : List W8) : Prop := Reaches c s (fun d => done d ∧ d.mem.bytes dst 16 = bs ∧
        (∀ wa, wa < dst / 2 ∨ dst / 2 + 8 ≤ wa → d.mem.word wa = s.dev.mem.word wa))
      v 2 < 256 → v 3 = 0 → v 6 = 0 → v 7 < 32 → (s.dev.hth h).keys.get none (v 7) = some key →
        (PlainLarder s.dev h dst 16 → dst % 8 = 0 →
          (SmithyHead s.dev h 0 0 vs o rest → writes (.gcmEnc h) tag) ∧
          (SmithyHead s.dev h 0 2 vs o rest → writes (.cmac h) (Crypto.cmac key.bytes []))) ∧
        (PlainLarder s.dev h src 16 → src % 8 = 0 → s.dev.mem.bytes src 16 = tag → SmithyHead s.dev h 0 1 vs o rest →
          Reaches (.gcmDec h) s (fun d => done d ∧ d.mem = s.dev.mem))) ∧
  (∀ (h : Fin 16) (x : Fin 3) (o : SmOp) (rest : List SmOp) (a b c e : Word) (s : State),
      s.dev.unitOps h x = o :: rest → o.out = some (a, b, some (c, e)) → a.v.toNat < 4096 →
        Reaches (.smithyComplete h x) s (fun d => d.unitOps h x = rest ∧ d.creg o.g 7 = (a, b) ∧ d.creg o.g 4 = (c, e) ∧
          (∀ n < 7, n ≠ 4 → d.creg o.g n = s.dev.creg o.g n) ∧ d.eng.cerr.get false (o.g * 4 + x) = false ∧
          d.ctr .hthSmithyOps h x = s.dev.ctr .hthSmithyOps h x + 1 ∧ d.mem = s.dev.mem ∧ d.eng.threads = s.dev.eng.threads))

/-- R337 for the cipher unit over a text of LEN bytes with A bytes of AAD: GCM_ENC writes the AAD, the ciphertext and the tag, GCM_DEC
with the right tag behind its source writes the AAD and the plaintext, CMAC writes the MAC; no other byte of memory changes, and c7 will
read OK with progress LEN. The algorithms are the model's (log entry 25). R337 for the search unit: over LEN bytes of its source SCAN
writes a record of each match of the hearth's patterns, pattern number and offset of the last byte, in order of offset and pattern and
up to its limit, and will answer their number in c4; FIRST will answer the first match with V[15] set, or zero. No other byte of memory
changes. -/
def Obligations.SmithyTextsAndSearches : Prop :=
  (∀ (h : Fin 16) (vs : List W16) (key : KeySlot) (o : SmOp) (rest : List SmOp) (s : State),
      let v (k : Nat) : Nat := (vs.getD k 0).toNat
      let n := v 3
      let src := v 2 % 16 * 2 ^ 32 + v 0 * 65536 + v 1
      let dst := v 2 / 16 % 16 * 2 ^ 32 + v 4 * 65536 + v 5
      let iv := ([8, 9, 10, 11, 12, 13] : List Nat).flatMap (fun k => Crypto.toBe 2 (v k))
      let rk := Crypto.roundKeys key.bytes
      let bs := s.dev.mem.bytes src n
      let text := bs.take (v 6) ++ Crypto.gctr rk iv 2 (bs.drop (v 6))
      let writes (c : Instr) (out : List W8) : Prop := Reaches c s (fun d =>
        d.unitOps h 0 = { o with began := some s.dev.engclk, out := some (Word.zero, Word.plain (BitVec.ofNat 16 n), none) } :: rest ∧
        d.mem.bytes dst out.length = out ∧
        ∀ x, x < dst ∨ dst + out.length ≤ x → d.mem.bytes x 1 = s.dev.mem.bytes x 1)
      v 2 < 256 → v 6 ≤ n → v 7 < 32 → (s.dev.hth h).keys.get none (v 7) = some key → PlainLarder s.dev h src n →
        (SmithyHead s.dev h 0 0 vs o rest → PlainLarder s.dev h dst (n + 16) → src + n ≤ dst ∨ dst + n + 16 ≤ src →
          writes (.gcmEnc h) (text ++ Crypto.gcmTag rk iv (text.take (v 6)) (text.drop (v 6)))) ∧
        (SmithyHead s.dev h 0 1 vs o rest → PlainLarder s.dev h src (n + 16) → PlainLarder s.dev h dst n →
          src + n + 16 ≤ dst ∨ dst + n ≤ src → s.dev.mem.bytes (src + n) 16 = Crypto.gcmTag rk iv (bs.take (v 6)) (bs.drop (v 6)) →
          writes (.gcmDec h) text) ∧
        (SmithyHead s.dev h 0 2 vs o rest → PlainLarder s.dev h dst 16 → writes (.cmac h) (Crypto.cmac key.bytes bs))) ∧
  (∀ (h : Fin 16) (vs : List W16) (o : SmOp) (rest : List SmOp) (e p : Nat) (more : List (Nat × Nat)) (s : State),
      let v (k : Nat) : Nat := (vs.getD k 0).toNat
      let n := v 3
      let src := v 2 % 16 * 2 ^ 32 + v 0 * 65536 + v 1
      let dst := v 2 / 16 % 16 * 2 ^ 32 + v 4 * 65536 + v 5
      let bs := s.dev.mem.bytes src n
      let found : List (Nat × Nat) := (List.range n).flatMap (fun e => (s.dev.patterns h).filterMap (fun p =>
        if p.2 ≠ [] ∧ p.2.length ≤ e + 1 ∧ (bs.drop (e + 1 - p.2.length)).take p.2.length = p.2 then some (e, p.1) else none))
      let records := (found.take (v 7)).flatMap (fun m => Crypto.toBe 2 m.2 ++ Crypto.toBe 2 m.1)
      let num (k : Nat) : Word := Word.plain (BitVec.ofNat 16 k)
      let ends (d : Dev) (progress hi lo : Nat) : Prop := d.unitOps h 2 =
        { o with began := some s.dev.engclk, out := some (Word.zero, num progress, some (num hi, num lo)) } :: rest
      v 2 < 256 → PlainLarder s.dev h src n →
        (SmithyHead s.dev h 2 0 vs o rest → PlainLarder s.dev h dst records.length → src + n ≤ dst ∨ dst + records.length ≤ src →
          Reaches (.scan h) s (fun d => ends d n 0 (min found.length 0xFFFF) ∧ d.mem.bytes dst records.length = records ∧
            ∀ x, x < dst ∨ dst + records.length ≤ x → d.mem.bytes x 1 = s.dev.mem.bytes x 1)) ∧
        (SmithyHead s.dev h 2 1 vs o rest → found = (e, p) :: more →
          Reaches (.first h) s (fun d => ends d (e + 1) (0x8000 + p) e ∧ d.mem = s.dev.mem)) ∧
        (SmithyHead s.dev h 2 1 vs o rest → found = [] → Reaches (.first h) s (fun d => ends d n 0 0 ∧ d.mem = s.dev.mem)))

/-- R82, R138 and R141: with a task staged for it a thread's TAKE, polled or blocked before, gives it the task: CTX is the task's
handle, wA its ticket or zero, the flow table names its engine, the watchdog restarts. With none the thread is open, and TAKE blocks
(cause 7) and TAKE.POLL sets Z. R83, R135 and R150: DONE and TKREL release the frame that the verdict words of the thread's task area
name against the task's ticket, and skip the ticket where no buffer is named, and end the task: its slot is free with the next
generation, CTX is zero and Z clear. TKSKIP skips the ticket and keeps the task; DEFER puts it back on a ready list, or on its hearth's
delay list. -/
def Obligations.TasksAreTakenAndEnded : Prop :=
  (∀ (g : Thr) (a : Reg) (sl : Nat) (k : Task) (s : State), TallyOff s.dev →
      let t := s.dev.thr g
      let took (t : Thread) : Thread := { t.set a (s.dev.ticketWord k) with
        ctxH := (s.dev.taskHandle sl).1, ctxL := (s.dev.taskHandle sl).2, wdog := 0, wdDue := false }
      let past (t : Thread) : Thread := { t with pc := t.pc + 1, credit := s.dev.creditLeft g 1, ulen := 1 }
      let gives (c : Instr) (t' : Thread) : Prop := Reaches c s (fun d => d.thr g = t' ∧ (∀ x, x ≠ g.val → d.thr x = s.dev.thr x) ∧
        d.task sl = some { k with loc := .held g } ∧ (∀ n, n ≠ sl → d.task n = s.dev.task n) ∧ d.isOpen g = false ∧
        d.dsp.flow.get 0 k.flow = (if k.flowValid then engineOf g + 1 else s.dev.dsp.flow.get 0 k.flow) ∧
        d.mem = s.dev.mem ∧ d.regs = s.dev.regs ∧ d.rel = s.dev.rel)
      (s.dev.stagedFor g = some sl → s.dev.task sl = some k →
        (Turn s.dev g → t.task = none → gives (.take g a) (past (took t)) ∧
          gives (.takePoll g a) (past { took t with fl := ⟨false, false, false, false, false, false⟩ })) ∧
        (WaitsFor s.dev g (.take a) → t.ulen = 1 → gives (.blockedTakeComplete g)
          { took t with st := .ready, cause := 0, wait := .none, pc := t.pc + 1 })) ∧
      (s.dev.stagedFor g = none → Turn s.dev g → t.task = none →
        Becomes (.take g a) s (((s.dev.begun g 1).setOpen g true).block g 7 (.take a)) ∧
        Becomes (.takePoll g a) s ((s.dev.setOpen g true).ran g 1 (fun t =>
          { t with fl := ⟨false, true, false, false, false, false⟩ })))) ∧
  (∀ (g : Thr) (a : Reg) (sl n b gen i : Nat) (k : Task) (ws : List Word) (s : State),
      let t := s.dev.thr g
      let w (k : Nat) := ws.getD k Word.zero
      let past (t : Thread) : Thread := { t with
        pc := t.pc + 1, credit := s.dev.creditLeft g 1, ulen := 1, fl := ⟨false, false, false, false, false, false⟩ }
      let ended : Thread := { past t with ctxH := Word.zero, ctxL := Word.zero }
      let ends (c : Instr) (x : Ticket) : Prop := Reaches c s (fun d => d.thr g = ended ∧ d.task sl = none ∧
        d.slotGen sl = (s.dev.slotGen sl + 1) % 4096 ∧ d.tkt n = x ∧ (∀ m, m ≠ n → d.tkt m = s.dev.tkt m) ∧
        d.mem = s.dev.mem ∧ d.regs = s.dev.regs)
      let dl := s.dev.fld .dspHearth (hearthOf g) 0 5 0
      ReleaseTurn s.dev g → TallyOff s.dev → NoneHeld s.dev → t.task = some sl → s.dev.task sl = some k → k.loc = .held g →
      k.kind ≠ 4 → k.overtaken = false → k.cancelled = false → k.deadline = false →
        (k.ticket = some n → (s.dev.tkt n).st = .held →
          (s.dev.readWords (taskArea g * 2) 11 = (ws, s.dev) →
            (handleOf (w 2) (w 3) = some (b, gen, i) → b < 8 → s.dev.bufCurrent b gen i = true →
              (∀ m ∈ ([7, 8, 9, 10] : List Nat), (w m).tag = .plain) → (w 7).v = 0x2000 → (w 8).v.toNat < 16384 →
              let frame : RelFrame := ⟨w 2, w 3, (w 7).v, (w 8).v, (w 9).v ++ (w 10).v⟩
              ends (.done g) { s.dev.tkt n with st := .released, frame := some frame } ∧
              (t.get a = s.dev.tktWord n → ends (.tkrel g a) { s.dev.tkt n with st := .released, frame := some frame })) ∧
            (w 2 = Word.zero → w 3 = Word.zero → ends (.done g) { s.dev.tkt n with st := .skipped } ∧
              (t.get a = s.dev.tktWord n → ends (.tkrel g a) { s.dev.tkt n with st := .skipped }))) ∧
          (t.get a = s.dev.tktWord n → Reaches (.tkskip g a) s (fun d => d.thr g = past t ∧
            d.task sl = some { k with ticket := none } ∧ d.tkt n = { s.dev.tkt n with st := .skipped } ∧ d.mem = s.dev.mem))) ∧
        ((t.get a).tag = .plain →
          ((t.get a).v = 0 → Reaches (.defer g a) s (fun d => d.thr g = ended ∧ d.mem = s.dev.mem ∧
            ∃ h < 16, d.task sl = some { k with
              loc := .ready h, since := s.dev.time.tick, set := s.dev.taskSet k, home := s.dev.affine k } ∧ sl ∈ d.readyList h k.cls)) ∧
          ((t.get a).v ≠ 0 → Reaches (.defer g a) s (fun d => d.thr g = ended ∧ d.mem = s.dev.mem ∧
            d.task sl = some { k with loc := .delayed dl (s.dev.expiryAt dl (t.get a).v.toNat) } ∧ sl ∈ d.dsp.delay.get [] dl))))

/-- R84, R145 and R147: POST of a record in the own larder that no rule refuses makes it a task in a free slot, whose handle the pair
will hold; a refused one sets Z and is counted. CANCEL of a task that waits frees its slot (code 0), of a held task marks it (code 1),
and of a handle that names no task answers code 3. -/
def Obligations.PostsAndCancels : Prop :=
  ∀ (g : Thr) (a : PairN) (sl : Fin 16384) (gen h' r : Nat) (k : Task) (s : State), Turn s.dev g → TallyOff s.dev → NoneHeld s.dev →
    let t := s.dev.thr g
    let h := hearthOf g
    let va := t.va a 0
    let ws := (List.range 16).map (fun k => s.dev.mem.word (va / 2 + k))
    let hi := t.get (2 * a)
    let lo := t.get (2 * a + 1)
    let answers (c : Instr) (p : Pend) (P : Dev → Prop) : Prop := Reaches c s (fun d =>
      (d.thr g).st = .blocked ∧ (d.thr g).cause = 1 ∧ (d.thr g).wait = .resp p ∧ (d.thr g).pc = t.pc ∧ d.mem = s.dev.mem ∧ P d)
    let code (n : Nat) : Pend := ⟨[(2 * a, Word.zero), (2 * a + 1, Word.plain (BitVec.ofNat 16 n))], none, none⟩
    (InOwnLarder s.dev g a 0 4 → va + 32 ≤ 0x4000000 + (h + 1) * 0x80000 →
      (∀ k < 16, s.dev.mem.ecc.get 0 (0x100000000000 + va / 2 + k) = 0) →
      (s.dev.postRefusal ws (some h) = none → s.dev.dsp.tasks = Map.empty →
        Reaches (.post g a) s (fun d => ∃ sl k, d.task sl = some k ∧ k.words = ws ∧
          (d.thr g).st = .blocked ∧ (d.thr g).cause = 1 ∧ (d.thr g).wait = .resp
            ⟨[(2 * a, (s.dev.taskHandle sl).1), (2 * a + 1, (s.dev.taskHandle sl).2)],
             some ⟨false, false, false, false, false, false⟩, none⟩ ∧
          ((ws.headD Word.zero).v.toNat / 4096 = 3 → ∃ x < 16, k.loc = .ready x ∧ sl ∈ d.readyList x k.cls))) ∧
      (s.dev.postRefusal ws (some h) = some r → LogClear s.dev 7 0 → (s.dev.ctr .dspPostRefused).toNat < 0xFFFFFFFE →
        answers (.post g a) ⟨[], some ⟨false, true, false, false, false, false⟩, none⟩ (fun d => d.dsp = s.dev.dsp ∧
          d.ctr .dspPostRefused = s.dev.ctr .dspPostRefused + 1))) ∧
    (hi = ⟨.handle, BitVec.ofNat 16 (12 * 4096 + gen)⟩ → gen < 4096 → lo = ⟨.handle, BitVec.ofNat 16 sl⟩ →
      (gen = s.dev.slotGen sl → s.dev.task sl = some k → k.overtaken = false → k.cancelled = false → k.ticket = none →
        k.deadline = false → k.kind ≠ 4 → k.word 2 = Word.zero →
        (k.loc = .ready h' → answers (.cancel g a) (code 0) (fun d => d.task sl = none ∧
          d.slotGen sl = (gen + 1) % 4096 ∧ d.readyList h' k.cls = (s.dev.readyList h' k.cls).erase sl)) ∧
        (k.loc = .held h' → answers (.cancel g a) (code 1) (fun d => d.task sl = some { k with cancelled := true }))) ∧
      ((gen ≠ s.dev.slotGen sl ∨ s.dev.task sl = none) → answers (.cancel g a) (code 3) (fun d => d.dsp = s.dev.dsp)))

/-- R85, R259, R261 and R262: BALLOC takes a free buffer, for a length from the first pool that fits it and by pool from that pool, and
answers its handle; where no pool fits it answers zero with Z. BFREE of a buffer that is not being read advances its generation and
frees it. BCOPY of a buffer with a valid head puts a copy into a new buffer in flight. -/
def Obligations.BufferInstructions : Prop :=
  ∀ (g : Thr) (a b : PairN) (n k gen i len ofs : Nat) (s : State), Turn s.dev g →
    let t := s.dev.thr g
    let w := t.get (2 * a + 1)
    let x := s.dev.buf k i
    let gives (c : Instr) : Prop := Reaches c s (fun d => ∃ m < s.dev.poolCount n, (s.dev.buf n m).alloc = false ∧
      d.buf n m = { s.dev.buf n m with alloc := true, charge := none } ∧ d.poolFree n = s.dev.poolFree n - 1 ∧
      d.ctr .bpmAlloc n = s.dev.ctr .bpmAlloc n + 1 ∧ (d.thr g).st = .blocked ∧ (d.thr g).wait = .resp
        ⟨[(2 * a.val, ⟨.handle, BitVec.ofNat 16 (n * 4096 + (s.dev.buf n m).gen % 4096)⟩),
          (2 * a.val + 1, ⟨.handle, BitVec.ofNat 16 m⟩)], some ⟨false, false, false, false, false, false⟩, none⟩)
    (w.tag = .plain → w.v.toNat = n → n < 8 → PoolHas s.dev n → gives (.ballocPool g a)) ∧
    (w.tag = .plain → FirstFit s.dev w.v.toNat n → PoolHas s.dev n → gives (.ballocLength g a)) ∧
    (w.tag = .plain → (∀ n < 8, s.dev.poolFits n w.v.toNat = false) →
      Becomes (.ballocLength g a) s ((s.dev.begun g 1).block g 1 (.resp
        ⟨[(2 * a, Word.zero), (2 * a + 1, Word.zero)], some ⟨false, true, false, false, false, false⟩, none⟩))) ∧
    (k < 8 → gen < 4096 → i < 65536 → t.get (2 * a) = ⟨.handle, BitVec.ofNat 16 (k * 4096 + gen)⟩ →
      w = ⟨.handle, BitVec.ofNat 16 i⟩ → s.dev.bufCurrent k gen i = true →
      (x.alloc = true → x.reading = 0 → x.charge = none → Reaches (.bfree g a) s (fun d =>
        d.buf k i = { x with gen := (gen + 1) % 4096, alloc := false, freed := false } ∧
        d.poolFree k = s.dev.poolFree k + 1 ∧ d.mem = s.dev.mem ∧
        Thread.Past t (d.thr g) 1 (s.dev.creditLeft g 1) ∧ (d.thr g).w = t.w)) ∧
      (a ≠ b → s.dev.bpm.copies.length < 32 → s.dev.bpm.copyWait = [] → s.dev.head k i = (some (len, ofs), s.dev) →
        s.dev.reachable (s.dev.bufAddr k i) (poolSize k) = true →
        FirstFit s.dev len n → PoolHas s.dev n → (n ≠ k ∨ x.alloc = true) →
        Reaches (.bcopy g b a) s (fun d => ∃ m < s.dev.poolCount n, d.bpm.copies = s.dev.bpm.copies ++
            [⟨s.dev.bpm.nextJob, .thread g b, k, i, n, m, (s.dev.buf n m).gen, len, ofs⟩] ∧
          (d.buf n m).alloc = true ∧ (d.buf k i).reading = x.reading + 1 ∧ (d.thr g).st = .blocked ∧
          (d.thr g).wait = .copy b s.dev.bpm.nextJob)))

/-- R138–R141 and R143: an offer stages the oldest task of the highest class for an open thread of its hearth; an offer not taken in
time returns to the head of its list and the thread is no longer open; a starved hearth's task moves to an idle hearth of its set; the
first task of a delay list, once due, is ready; and a flow-table clear ends with no entry valid. -/
def Obligations.DispatcherOffers : Prop :=
  ∀ (h : Fin 16) (g : Thr) (x sl : Nat) (l : Fin 64) (k : Task) (rest : List Nat) (s : State), TallyOff s.dev →
    let d0 := s.dev
    let now := d0.time.tick
    (d0.task sl = some k →
      (d0.readyList h 7 = sl :: rest → k.cls = 7 → k.kind ≠ 1 → (∀ e, k.home = some e → e / 16 ≠ h.val) → k.words.length = 16 →
        d0.freeOpen h = [g.val] → engineOf g / 16 = h.val →
        Reaches (.offerTask h) s (fun d => d.task sl = some { k with loc := .staged g, stagedAt := now, aff := false } ∧
          d.readyList h 7 = rest ∧ (∀ n < 16, d.mem.word (taskArea g + n) = k.word n) ∧
          (∀ wa, wa < taskArea g ∨ taskArea g + 16 ≤ wa → d.mem.word wa = d0.mem.word wa))) ∧
      (d0.stagedFor g = some sl → d0.fld .dspLimits 0 0 31 16 ≤ (now - k.stagedAt) * 12 →
        (d0.ctr .dspWithdrawn).toNat < 0xFFFFFFFE →
        Reaches (.offerWithdrawn g) s (fun d => d.isOpen g = false ∧
          d.task sl = some { k with loc := .ready (hearthOf g), since := now } ∧
          d.readyList (hearthOf g) k.cls = sl :: d0.readyList (hearthOf g) k.cls ∧ d.ctr .dspWithdrawn = d0.ctr .dspWithdrawn + 1)) ∧
      (d0.dsp.delay.get [] l = sl :: rest → d0.expiryOf sl ≤ d0.time.ns.toNat →
        Reaches (.delayExpiry l) s (fun d => d.dsp.delay.get [] l = rest ∧
          ∃ h < 16, d.task sl = some { k with
            loc := .ready h, since := now, set := d0.taskSet k, home := d0.affine k } ∧ d.readyList h k.cls = d0.readyList h k.cls ++ [sl])) ∧
      (d0.bit .dspCtrl 0 0 2 = true → d0.wanting h = true → d0.dsp.starved.get 0 h = x → 0 < x →
        d0.fld .dspCtrl 0 0 23 16 ≤ (now - (x - 1)) * 12 → d0.readyList h 7 = sl :: rest → k.cls = 7 →
        (∃ y < 16, y ≠ h.val ∧ k.set.getLsbD y = true ∧ d0.isIdle y = true) →
        Reaches (.taskMove h) s (fun d => ∃ y < 16, d0.isIdle y = true ∧ k.set.getLsbD y = true ∧
          d.task sl = some { k with loc := .ready y } ∧ d.readyList h 7 = rest ∧
          d.readyList y 7 = d0.readyList y 7 ++ [sl] ∧ d.ctr .dspMoves = d0.ctr .dspMoves + 1))) ∧
    (d0.dsp.flowClear = some none → Reaches .flowClearDone s (fun d => d.dsp.flowClear = none ∧
      (∀ f, d.dsp.flow.get 0 f = 0) ∧ d.bit .dspFlowCmd 0 0 31 = false ∧ d.dsp.tasks = d0.dsp.tasks))

/-- R13, R16, R132, R149 and R153: the oldest admitted frame of a mill becomes a task: its record with the ticket word in word 4, a HELD
ticket of its domain where it has one, on a ready list. A deadline that passes releases the banked verdict, with a handle of the next
generation, marks the task overtaken in its record and task area, and is counted. R16: a mill's oldest frame of an ordered-flow domain
takes its ticket after the oldest frame of a lower-numbered mill that is of the same domain: both tasks form, the lower mill's with the
earlier number. R156: once the tally ring has room again the LOST record, with the number of records lost, enters the ring at PROD. -/
def Obligations.TasksFormAndExpireAndAreTallied : Prop :=
  (∀ (m : Fin 4) (slot : Fin 16384) (b : Banked) (rest : List Banked) (dom n pool gen i g : Nat) (k : Task) (s : State), TallyOff s.dev →
      let d0 := s.dev
      let forms (w4 : Word) (tk : Option Nat) : Prop := Reaches (.taskForm m) s (fun d =>
        (d.mill m).banked = rest ∧ ∃ sl k, d.task sl = some k ∧ k.words = b.words.set 4 w4 ∧ k.banked = k.words ∧ k.ticket = tk ∧
          k.deadline = b.deadline ∧ ∃ h < 16, k.loc = .ready h ∧ sl ∈ d.readyList h k.cls)
      let w (n : Nat) := k.banked.getD n Word.zero
      let frame : RelFrame := ⟨⟨.handle, BitVec.ofNat 16 (pool * 4096 + (gen + 1) % 4096)⟩, ⟨.handle, BitVec.ofNat 16 i⟩,
        (w 7).v, (w 8).v, (w 9).v ++ (w 10).v⟩
      let w0 := Word.plain ((k.word 0).v ||| 0x0040)
      ((d0.mill m).banked = b :: rest → d0.bit .dspCtrl 0 0 0 = true → d0.dsp.tasks = Map.empty → 0 < 16384 - d0.postLimit →
        (b.deadline = true → d0.rel.deadlines < 8192) →
        (b.dom = none → forms Word.zero none) ∧
        ((∀ y < m.val, d0.nextDom y ≠ some dom) → b.dom = some dom → d0.rel.fresh = n → n < 8192 →
          forms (d0.tktWord n) (some n) ∧ Reaches (.taskForm m) s (fun d =>
          (d.tkt n).st = .held ∧ d.rel.doms.get [] dom = d0.rel.doms.get [] dom ++ [n] ∧ d.rel.fresh = n + 1))) ∧
      (d0.task slot = some k → k.deadline = true → d0.bit .relCtrl 0 0 1 = true → k.ticket = some n → (d0.tkt n).st = .held →
        (d0.time.ns.truncate 32 - ((k.word 11).v ++ (k.word 12).v)).toNat < 2 ^ 31 → k.loc = .held g →
        handleOf (w 2) (w 3) = some (pool, gen, i) → d0.bufCurrent pool gen i = true → (d0.ctr .relOvertaken).toNat < 0xFFFFFFFE →
        Reaches (.deadlinePassed slot) s (fun d => d.tkt n = { d0.tkt n with st := .released, frame := some frame } ∧
          (d.buf pool i).gen = (gen + 1) % 4096 ∧ d.task slot = some { k with
            words := k.words.set 0 w0, ticket := none, deadline := false, overtaken := true } ∧
          d.mem.word (taskArea g) = w0 ∧ (∀ wa, wa ≠ taskArea g → d.mem.word wa = d0.mem.word wa) ∧
          d.ctr .relOvertaken = d0.ctr .relOvertaken + 1))) ∧
  (∀ (m x : Fin 4) (b c : Banked) (restB restC : List Banked) (dom n : Nat) (s : State), TallyOff s.dev →
      let d0 := s.dev
      (d0.mill m).banked = b :: restB → (d0.mill x).banked = c :: restC → x.val < m.val →
      (∀ y < m.val, y ≠ x.val → d0.nextDom y ≠ some dom) → b.dom = some dom → c.dom = some dom →
      b.deadline = false → c.deadline = false → d0.bit .dspCtrl 0 0 0 = true → d0.dsp.tasks = Map.empty →
      1 < 16384 - d0.postLimit → d0.rel.fresh = n → n < 8191 →
        Reaches (.taskForm m) s (fun d => (d.mill x).banked = restC ∧ (d.mill m).banked = restB ∧ (d.tkt n).st = .held ∧
          (d.tkt (n + 1)).st = .held ∧ d.rel.doms.get [] dom = d0.rel.doms.get [] dom ++ [n, n + 1] ∧
          (∃ sl k, d.task sl = some k ∧ k.words = c.words.set 4 (d0.tktWord n) ∧ k.ticket = some n) ∧
          (∃ sl k, d.task sl = some k ∧ k.words = b.words.set 4 (d0.tktWord (n + 1)) ∧ k.ticket = some (n + 1)))) ∧
  (∀ (s : State),
      let d0 := s.dev
      let size := d0.fld .dspTallyCfg 0 0 8 4
      let prod := d0.fld .dspTallyProd 0 0 15 0 % 2 ^ size
      let pa := d0.fld .dspTallyBaseHi 0 0 3 0 * 2 ^ 32 + (d0.rd .dspTallyBaseLo).toNat / 8 * 8 + prod * 8
      let n := d0.dsp.tallyLost
      0 < n → d0.tallyRoom = true → pa < 0x2000000 → d0.domOn (domGran (pa / 0x400000)) = true →
        Reaches .tallyLostRecord s (fun d => d.dsp.tallyLost = 0 ∧ d.fld .dspTallyProd 0 0 15 0 = (prod + 1) % 2 ^ size ∧
          d.mem.word (pa / 2) = Word.plain 0xF000 ∧ d.mem.word (pa / 2 + 1) = Word.zero ∧
          d.mem.word (pa / 2 + 2) = Word.plain (BitVec.ofNat 16 (n / 65536)) ∧
          d.mem.word (pa / 2 + 3) = Word.plain (BitVec.ofNat 16 n) ∧
          (∀ wa, wa < pa / 2 ∨ pa / 2 + 4 ≤ wa → d.mem.word wa = d0.mem.word wa)))

/-- R92, R125, R126 and R129: START puts an OFF thread READY at its PC with the register values of R110; RESUME continues a HELD thread
at its restart point and SKIP past the unit there, or past the repeated word of a repeat, which ends; KILL makes a thread OFF and
abandons its lock; a word of the record of a thread that is OFF, HELD or has STOP set takes the written value, and of any other thread
the write is logged; a write of a word marked RO changes nothing. R410 and R411: DBG.THR_CMD sets and clears the STOP flag of a thread,
DBG.GROUP of every thread of the masked hearths; a STOP halts a thread at its restart point with `DBG.STOPPED` and `ERR.IRQ_PEND.DBG`
set, and so does a breakpoint at a READY thread's PC. -/
def Obligations.ThreadAndDebugCommands : Prop :=
  (∀ (r : ReqArg) (h : Fin 16) (i : Fin 128) (pc : BitVec 15) (word : Fin 32) (v : W32) (n gen : Nat) (s : State),
      let g := h.val * 128 + i.val
      let t := s.dev.thr g
      let back (t : Thread) : Thread := { t with st := .ready, cause := 0, wait := .none }
      let off (t : Thread) : Thread := { t with
        st := .off, cause := 0, wait := .none, ctxH := Word.zero, ctxL := Word.zero, staged := [], stagedName := 0,
        bindName := 0, rep := .none, hc := 0, inTrap := false, locks := [], wdog := 0, wdDue := false,
        step := false, yielded := false, boost := false }
      let w := (s.dev.progWord h t.pc.toNat).toNat
      let makes (c : Instr) (t' : Thread) : Prop := Reaches c s (fun d =>
        d.thr g = t' ∧ (∀ x, x ≠ g → d.thr x = s.dev.thr x) ∧ d.mem = s.dev.mem ∧ d.dsp = s.dev.dsp)
      (Opens s.dev r .hthThrCmd h 0 →
        (t.st = .off → s.dev.domOn (domHearth h) = true → (s.dev.hth h).reset = 0 →
          makes (.start r h i pc) { Thread.init with st := .ready, pc := pc, stop := t.stop, stopped := t.stopped } ∧
          Reaches (.start r h i pc) s (fun d => ∀ c < 8, d.creg g c = (Word.zero, Word.zero))) ∧
        (t.st = .held → t.stop = false → makes (.resume r h i) (back t)) ∧
        (t.st = .held → t.stop = false → t.rep = .none → w / 256 ≠ 0x3F → w / 64 ≠ 0xE1 → w / 64 ≠ 0xE2 → w / 64 ≠ 0xDF →
          makes (.skip r h i) { back t with pc := t.pc + 1, hc := 0 }) ∧
        (t.st = .held → t.stop = false → makes (.skip r h i) { back t with
          rep := .none, hc := 0, pc := t.pc + BitVec.ofNat 15 (if t.rep = .none then s.dev.unitLen h t.pc.toNat else 1) }) ∧
        (t.st ≠ .off → Reaches (.kill r h i) s (fun d => d.thr g = off t)) ∧
        (t.st ≠ .off → t.task = none → t.locks = [(n, gen)] → s.dev.lck = ⟨Map.empty, [], []⟩ → s.dev.stagedFor g = none →
          Reaches (.kill r h i) s (fun d => d.lck.msgs = [.abandon n g gen] ∧ (∀ x, x ≠ g → d.thr x = s.dev.thr x) ∧
            d.thr g = off t))) ∧
      (Opens s.dev r .hthTsr h (i * 32 + word) →
        ((t.st = .off ∨ t.st = .held ∨ t.stop = true) →
          (word.val < 16 → bits v 17 16 = 0 → makes (.tsrWrite r h i word v) (t.set word (Word.plain (v.truncate 16)))) ∧
          (word.val < 16 → bits v 17 16 = 3 → makes (.tsrWrite r h i word v) (t.set word ⟨.poison, v.truncate 16⟩)) ∧
          (bits v 17 16 = 0 →
            (word.val = 16 → makes (.tsrWrite r h i word v) { t with pc := v.truncate 15 }) ∧
            (word.val = 17 → bits v 10 9 ≠ 3 → makes (.tsrWrite r h i word v) { t with
              fl := ⟨v.getLsbD 0, v.getLsbD 1, v.getLsbD 2, v.getLsbD 3, v.getLsbD 4, v.getLsbD 5⟩, inTrap := v.getLsbD 8,
              rep := if bits v 10 9 = 0 then .none else if bits v 10 9 = 1 then .repI else .repU }) ∧
            (word.val = 18 → makes (.tsrWrite r h i word v) { t with rc := v.truncate 16 }) ∧
            (word.val = 19 → makes (.tsrWrite r h i word v) { t with hc := v.truncate 16 }) ∧
            (word.val = 20 → makes (.tsrWrite r h i word v) { t with
              tcArmed := v.getLsbD 15, tcTick := s.dev.time.tick, tc := BitVec.ofNat 36 (bits v 3 0 * 2 ^ 32 + t.tc.toNat % 2 ^ 32) }) ∧
            (word.val = 21 → makes (.tsrWrite r h i word v) { t with
              tc := BitVec.ofNat 36 (t.tc.toNat / 2 ^ 32 * 2 ^ 32 + bits v 15 0 * 65536 + t.tc.toNat % 65536) }) ∧
            (word.val = 22 → makes (.tsrWrite r h i word v) { t with tc := BitVec.ofNat 36 (t.tc.toNat / 65536 * 65536 + bits v 15 0) }) ∧
            (word.val = 28 → makes (.tsrWrite r h i word v) { t with credit := (BitVec.ofNat 12 (bits v 11 0)).toInt }) ∧
            (word.val = 25 → makes (.tsrWrite r h i word v) { t with segh := v.truncate 16 }) ∧
            (word.val = 26 → makes (.tsrWrite r h i word v) { t with segl := v.truncate 16 }))) ∧
        (word.val = 23 ∨ word.val = 24 ∨ word.val = 27 ∨ 29 ≤ word.val → makes (.tsrWrite r h i word v) t) ∧
        (t.st = .ready → t.stop = false → word.val < 16 → LogClear s.dev 18 h → Reaches (.tsrWrite r h i word v) s (fun d =>
          d.eng = s.dev.eng ∧ (d.log.srcs.get ⟨none, none, 0⟩ (18 * 1024 + h)).first.isSome = true)))) ∧
  (∀ (r : ReqArg) (h : Fin 16) (i : Fin 128) (mask : W16) (k : Fin 8) (s : State),
      let g := h.val * 128 + i.val
      let t := s.dev.thr g
      let flags (stop stopped step : Bool) (t : Thread) : Thread := { t with stop := stop, stopped := stopped, step := step }
      let makes (c : Instr) (t' : Thread) : Prop := Reaches c s (fun d =>
        d.thr g = t' ∧ (∀ x, x ≠ g → d.thr x = s.dev.thr x) ∧ d.mem = s.dev.mem ∧ d.dsp = s.dev.dsp)
      let all (c : Instr) (f : Thread → Thread) : Prop := Reaches c s (fun d => d.mem = s.dev.mem ∧
        ∀ x < 2048, d.thr x = if mask.getLsbD (x / 128) then f (s.dev.thr x) else s.dev.thr x)
      let halts (c : Instr) : Prop := makes c (flags true true false t) ∧ Reaches c s (fun d =>
        d.bit .dbgStopped 0 0 h = true ∧ d.bit .errIrqPend 0 0 3 = true)
      let bp := s.dev.rd .dbgBp h k
      (Opens s.dev r .dbgThrCmd 0 0 → makes (.debugStop r h i) (flags true t.stopped false t) ∧
        makes (.debugRun r h i) (flags false false false { t with bkpt := none }) ∧
        makes (.debugStep r h i) (flags false false true { t with bkpt := none })) ∧
      (Opens s.dev r .dbgGroup 0 0 → all (.groupStop r mask) (fun t => flags true t.stopped false t) ∧
        all (.groupRun r mask) (fun t => flags false false false { t with bkpt := none })) ∧
      ((s.dev.engn (engineOf g)).repU = none →
        (t.wait = .none ∨ t.st ≠ .ready → t.stop = true → t.stopped = false → halts (.stopTakesEffect ⟨g, by omega⟩)) ∧
        (t.wait = .none → t.st = .ready → t.stop = false → t.step = false → t.rep = .none → bp.getLsbD 31 = true →
          (bp.getLsbD 30 = true ∨ bits bp 22 16 = i.val) → bits bp 14 0 = t.pc.toNat → halts (.breakpointMatch ⟨g, by omega⟩))))

/-- R112, R119, R127, R302 and R305: a thread that exceeds its watchdog limit is HELD with a fault of cause 7 in its hearth's report
queue, or waits for its response first; a spent quantum makes another patient thread current where one of higher credit or with a boost
qualifies, and else starts again; a rotation of the slot table adds the weights; the oldest report enters the empty mailbox; and a
hearth still long enough reports to its warden. (That the rotation which ends at a written slot table adds the old weights and mask is
log entry 42, DESIGN CHOICE.) -/
def Obligations.Supervision : Prop :=
  ∀ (g : Thr) (h e : Fin 16) (t u : Fin 8) (p : Report) (rest : List Report) (s : State),
    let x := s.dev.thr g
    let y := s.dev.engn (h.val * 16 + e.val)
    let th (k : Nat) := s.dev.thr ((h.val * 16 + e.val) * 8 + k)
    let limit := s.dev.fld .hthWdog (hearthOf g) 0 7 0 * 8192
    let q := s.dev.fld .hthPreempt h 0 7 0 * 256
    let rival (k : Nat) : Prop := k ≠ t.val ∧ s.dev.qualifies (h.val * 16 + e.val) k = true ∧
      ((th k).boost = true ∨ (th t).credit < (th k).credit)
    (g.val % 128 ≠ 0 → 0 < limit → limit < x.wdog → x.stop = false → x.task ≠ none →
      (x.st = .ready → x.wait = .none → x.rep = .none → x.step = false → (s.dev.engn (engineOf g)).repU = none →
        (s.dev.thr (hearthOf g * 128)).st ≠ .off → s.dev.stagedFor g = none →
        Reaches (.watchdogFault g) s (fun d => d.thr g = { x with st := .held, cause := 0, wait := .none, wdog := 0, wdDue := false } ∧
          (∀ k, k ≠ g.val → d.thr k = s.dev.thr k) ∧ (d.hth (hearthOf g)).repq.dropLast =
            (s.dev.hth (hearthOf g)).repq ∧ ∃ z, (d.hth (hearthOf g)).repq.getLast? = some z ∧ z.src = g ∧
            (z.words.getD 1 0).toNat / 4096 = 7 ∧ z.words.getD 2 0 = x.pc.zeroExtend 16)) ∧
      ((s.dev.thr (hearthOf g * 128)).st ≠ .off → EventOff s.dev 170 →
        (x.st = .ready ∧ x.wait = .none ∧ (s.dev.engn (engineOf g)).repU = none) ∨
          (x.st = .blocked ∧ x.cause ≠ 1 ∧ s.dev.grantOnWay g = false ∧ s.dev.lockDue g = false) →
        Reaches (.watchdogFault g) s (fun d => (d.thr g).st = .held ∧ (d.thr g).wdog = 0 ∧ (d.thr g).task = x.task ∧ d.mem = s.dev.mem)) ∧
      (x.st = .blocked → x.cause = 1 ∨ s.dev.grantOnWay g = true ∨ s.dev.lockDue g = true →
        Becomes (.watchdogFault g) s (s.dev.setThr g { x with wdDue := true }))) ∧
    (y.cur = some t.val → 0 < q → y.curSince + q ≤ s.dev.engclk → (th t).wait = .none → (th t).stop = false → y.repU = none →
      (rival u → Reaches (.preemption h e) s (fun d => d.ctr .hthPreempts h = s.dev.ctr .hthPreempts h + 1 ∧
        d.eng.threads = s.dev.eng.threads ∧ (∀ k, k ≠ h.val * 16 + e.val → d.engn k = s.dev.engn k) ∧
        ∃ c < 8, c ≠ t.val ∧ s.dev.qualifies (h.val * 16 + e.val) c = true ∧
          d.engn (h.val * 16 + e.val) = { y with cur := some c, curSince := s.dev.engclk })) ∧
      ((∀ k < 8, ¬ rival k) → Becomes (.preemption h e) s (s.dev.setEngn (h.val * 16 + e.val) { y with curSince := s.dev.engclk }))) ∧
    Reaches (.slotRotationEnd h e) s (fun d => d.mem = s.dev.mem ∧
      (d.engn (h.val * 16 + e.val)).slotLo = s.dev.rd .hthSlotLo h e ∧
      (d.engn (h.val * 16 + e.val)).slotHi = s.dev.rd .hthSlotHi h e ∧
      (d.engn (h.val * 16 + e.val)).swift = (s.dev.rd .hthSwift h e).truncate 8 ∧
      ∀ k < 8, d.thr ((h.val * 16 + e.val) * 8 + k) = { th k with
        yielded := false, credit := if (th k).st = .ready ∧ y.isSwift k = false then
          max (-2048) (min 2047 ((th k).credit + y.weight k)) else (th k).credit }) ∧
    ((s.dev.hth h).repq = p :: rest → s.dev.flue (h.val * 256) = [] → Reaches (.reportToMailbox h) s (fun d =>
      d.hth h = { s.dev.hth h with repq := rest } ∧ d.flue (h.val * 256) = [⟨p.words.map Word.plain, none⟩] ∧
      (∀ f, f ≠ h.val * 256 → d.flue f = s.dev.flue f) ∧ d.eng.threads = s.dev.eng.threads)) ∧
    (s.dev.isStill h = true → 4096 ≤ (s.dev.hth h).still → (s.dev.hth h).stillRep = false →
      (s.dev.canReceive h = true → Becomes (.stillnessReport h) s (s.dev.setHth h { s.dev.hth h with
        stillRep := true, repq := (s.dev.hth h).repq ++ [⟨s.dev.stillReport h, 2048 + h.val⟩] })) ∧
      (EventOff s.dev 170 → Reaches (.stillnessReport h) s (fun d => (d.hth h).stillRep = true ∧ d.mem = s.dev.mem ∧ d.eng.threads = s.dev.eng.threads)))

/-- R3, R5, R48, R50, R390, R407–R409 and R428, over the whole register layout and for every requester: a write leaves in each field
what its access code says: RW the value written; LCK the same until the set-up lock of the block is set; RO and RCL what they held; W1C
and W1P bits as their codes say; a bit of TOP.SETUP_LOCK once set stays set. A protected field (LCK under its lock, or one that another
condition protects) and a field written with a reserved value keep theirs, and what that differs from is logged once. Where the write of
the register starts nothing more (RegKind.starts), that is its whole effect. A write that a rule ignores as a whole, one to an offset
that no block defines, and one before START or into a domain without power are logged and change nothing else. A read answers the fields
as they stand, W1P reading 0; the RCL fields of UART.DATA go with their byte; a read of a 64-bit counter's low half latches its high
half, and CLR_ERR clears the error counters of its blocks. A bad SPI transaction counts. (The values that are reserved are Dev.reserved,
the other conditions that protect a field Dev.shielded.) -/
def Obligations.SetupAccesses : Prop :=
  ∀ (r : ReqArg) (off : BitVec 24) (v : W32) (mask : BitVec 20) (k : RegKind) (ck : CtrKind) (i j : Nat) (b0 : W8) (q8 : List W8) (s : State),
    let d0 := s.dev
    let q := asReq r
    let n := off.toNat
    let goes (q : Req) : Prop := d0.reaches q = true ∧ d0.mayTouch q n = true ∧ d0.setupOn n = true
    let stays (q : Req) : Prop := d0.reaches q = true ∧ (d0.mayTouch q n = false ∨ d0.setupOn n = false)
    let w := v &&& d0.significant k i j
    let cur := d0.rd k i j
    let seen := (d0.derived k i j).getD cur
    let put (f : Field) : Nat := bits w f.hi f.lo
    let shut (f : Field) : Bool := (f.acc == .lck && d0.bit .topSetupLock 0 0 (blockOf n)) || d0.shielded k i cur f
    -- what field f holds after the write
    let after (f : Field) : Nat :=
      let c := bits cur f.hi f.lo
      match f.acc with
      | .ro => c
      | .rcl => c
      | .w1p => 0
      | .w1c => c &&& (put f ^^^ (2 ^ (f.hi + 1 - f.lo) - 1))
      | .w1s => c ||| put f
      | .rw => if shut f || d0.reserved k i j w cur f then c else put f
      | .lck => if shut f || d0.reserved k i j w cur f then c else put f
    let told := (k.fields i j).any (fun f => (f.acc == .rw || f.acc == .lck) &&
      (if shut f then put f != bits seen f.hi f.lo else d0.reserved k i j w cur f))
    let clear : Prop := LogClear d0 (blockOf n) (instOf n)
    let rejected (d : Dev) (q : Req) : Dev := d.recorded 0 (blockOf n) 0x01 (instOf n) (BitVec.ofNat 16 (n / 65536)) (BitVec.ofNat 16 n) q.word
    let answers (x : W32) (q : Req) : Dev := { d0 with answers := d0.answers.set 0 q.word.toNat x }
    let writes (c : Instr) (q : Req) : Prop :=
      (stays q ∨ (goes q ∧ regAt n = .none) → clear → Becomes c s (rejected d0 q)) ∧
      (goes q → regAt n = .reg k i j → d0.refusedWrite k i w = true → k.starts = false → clear → Becomes c s (rejected d0 q)) ∧
      (goes q → regAt n = .reg k i j → d0.refusedWrite k i w = false → k.starts = false → (told = true → clear) → Reaches c s (fun d =>
        (∀ f ∈ k.fields i j, bits (d.rd k i j) f.hi f.lo = after f) ∧
        d = if told then rejected (d0.wr k i j (d.rd k i j)) q else d0.wr k i j (d.rd k i j)))
    let reads (c : Instr) (q : Req) : Prop :=
      (stays q ∨ (goes q ∧ regAt n = .none) → Becomes c s (answers 0 q)) ∧
      (goes q → regAt n = .reg k i j → k.readsMore = false → Reaches c s (fun d =>
        d = answers (d.answers.get 0 q.word.toNat) q ∧
        ∀ f ∈ k.fields i j, bits (d.answers.get 0 q.word.toNat) f.hi f.lo = if f.acc == .w1p then 0 else bits seen f.hi f.lo)) ∧
      (goes q → regAt n = .reg .uartData i 0 → d0.loc.uartRx.get [] i = b0 :: q8 → Becomes c s { answers (BitVec.ofNat 32 (256 + b0.toNat)) q with
        loc := { d0.loc with uartRx := d0.loc.uartRx.set [] i q8 } }) ∧
      (goes q → regAt n = .reg .uartData i 0 → d0.loc.uartRx.get [] i = [] → Becomes c s (answers 0 q)) ∧
      (goes q → regAt n = .ctr ck i j false → ck.desc.width = 64 → Reaches c s (fun d =>
        d.answers.get 0 q.word.toNat = (d0.ctr ck i j).truncate 32 ∧ d.ctrs = d0.ctrs ∧ d.regs = d0.regs ∧ d.mem = d0.mem ∧
        (d.latchOf q).ctrHi = ((d0.ctr ck i j) >>> (32 : Nat)).truncate 32))
    (n = k.off i j → ∀ f ∈ k.fields i j, bits (d0.merge k i j w cur seen).1 f.hi f.lo = after f) ∧
    writes (.setupWrite r off v) q ∧ writes (.spiWrite off v) .spi ∧ writes (.dbgacc true off v) .jtag ∧
    reads (.counterLowRead r off) q ∧ reads (.spiRead off) .spi ∧ reads (.dbgacc false off v) .jtag ∧
    (Opens d0 r .errClrErr 0 0 → regAt (ck.off i j) = .ctr ck i j false → Reaches (.clrErr r mask) s (fun d => d.mem = d0.mem ∧
      d.ctr ck i j = if ck.desc.width = 32 ∧ mask.getLsbD ck.desc.block = true then 0 else d0.ctr ck i j)) ∧
    (d0.top.inReset = false → (d0.ctr .spiErr).toNat < 0xFFFFFFFE → Reaches .spiBadTransaction s (fun d =>
      d.ctr .spiErr = d0.ctr .spiErr + 1 ∧ d.regs = d0.regs ∧ d.log = d0.log ∧ d.mem = d0.mem))

/-- R245 and R247–R250: SET and STEP wait, with BUSY, for a TICKCLK, which loads the time or, over its advance at the rate of that
TICKCLK, adds to it; a read of NOW_LO latches the time's other parts; TXTS.POP removes the oldest timestamp; a TS_IO input captures the
time of a selected edge, unless a capture is still held, and an output pin rises at START + k × PERIOD, the first such time not yet
passed, and falls after WIDTH. (That SET and STEP values are sampled at the write is log entry 20, DESIGN CHOICE; that SET loads its
value with fraction 0 in place of the edge's advance log entry 40, DEDUCED; that an edge of TS_IO is met within its TICKCLK log entry
24, DEDUCED.) -/
def Obligations.TimeKeeping : Prop :=
  ∀ (r : ReqArg) (v : W64) (p : Fin 32) (x : W16 × W64) (rest : List (W16 × W64)) (n : Fin 4) (sub : Fin 10) (k : Nat) (s : State),
    let d0 := s.dev
    let t := d0.time
    let q := asReq r
    let from_ := d0.chm.tsNext.get 0 n
    let period := (d0.rd .tsioPeriod n).toNat
    let rise := (d0.rd .tsioStartHi n ++ d0.rd .tsioStartLo n).toNat + k * period
    let cap := t.ns + BitVec.ofNat 64 sub
    let advanced : Int := (t.ns.toNat + 10) * 2 ^ 32 + t.frac.toNat + (d0.rd .timeRate).toInt
    let now (d : Dev) (ns : W64) (frac : W32) : Prop := d.time.ns = ns ∧ d.time.frac = frac ∧ d.time.setPend = none ∧
      d.time.stepPend = none ∧ d.bit .timeCmd 0 0 8 = false
    (Opens d0 r .timeCmd 0 0 →
      Reaches (.set r) s (fun d => d.time = { t with setPend := some (d0.rd .timeSetHi ++ d0.rd .timeSetLo) } ∧
        d.bit .timeCmd 0 0 8 = true ∧ d.mem = d0.mem) ∧
      Reaches (.step r) s (fun d => d.time = { t with stepPend := some (d0.rd .timeStepHi ++ d0.rd .timeStepLo) } ∧
        d.bit .timeCmd 0 0 8 = true ∧ d.mem = d0.mem)) ∧
    (d0.top.inReset = false → t.setPend = some v → t.stepPend = none → Reaches .timeChangeApply s (fun d => now d v 0)) ∧
    (d0.top.inReset = false → t.setPend = none → t.stepPend = some v →
      Reaches .timeChangeApply s (fun d => now d (BitVec.ofInt 64 (advanced / 2 ^ 32) + v) (BitVec.ofInt 32 advanced))) ∧
    (Opens d0 r .timeNowLo 0 0 → Reaches (.nowLoRead r) s (fun d => d.answers.get 0 q.word.toNat = t.ns.truncate 32 ∧
      (d.latchOf q).timeHi = (t.ns >>> (32 : Nat)).truncate 32 ∧ (d.latchOf q).timeFrac = t.frac >>> (16 : Nat) ∧ d.time = t)) ∧
    (Opens d0 r .timeTxtsPop p 0 → d0.chm.txts.get [] p = x :: rest → Reaches (.txtsPop r p) s (fun d =>
      d.chm.txts.get [] p = rest ∧ (∀ o, o ≠ p.val → d.chm.txts.get [] o = d0.chm.txts.get [] o))) ∧
    (d0.fld .tsioCtrl n 0 2 0 = 1 → d0.bit .tsioCtrl n 0 16 = false →
      (d0.bit .tsioCtrl n 0 8 = false → EventOff d0 (128 + n) → Reaches (.tsIoCapture n true sub) s (fun d =>
        d.rd .tsioCapHi n = (cap >>> (32 : Nat)).truncate 32 ∧ d.rd .tsioCapLo n = cap.truncate 32 ∧
        d.bit .tsioCtrl n 0 8 = true ∧ d.bit .tsioCtrl n 0 16 = true ∧ d = { d0 with regs := d.regs })) ∧
      (d0.bit .tsioCtrl n 0 8 = true → Reaches (.tsIoCapture n true sub) s (fun d => d.rd .tsioCapHi n = d0.rd .tsioCapHi n ∧
        d.rd .tsioCapLo n = d0.rd .tsioCapLo n ∧ d.bit .tsioCtrl n 0 9 = true))) ∧
    (d0.fld .tsioCtrl n 0 2 0 = 4 → (0 < period ∨ k = 0) →
      (d0.bit .tsioCtrl n 0 16 = false → from_ ≤ rise → (k = 0 ∨ rise < from_ + period) → rise ≤ t.ns.toNat → Reaches (.tsIoOutputEdge n) s (fun d =>
        d.bit .tsioCtrl n 0 16 = true ∧ d.chm = { d0.chm with tsNext := d.chm.tsNext, tsRose := d.chm.tsRose } ∧ d.chm.tsNext.get 0 n = rise + 1 ∧
        d.chm.tsRose.get none n = some rise)) ∧
      (d0.bit .tsioCtrl n 0 16 = true → d0.chm.tsRose.get none n = some rise → rise + (d0.rd .tsioWidth n).toNat ≤ t.ns.toNat →
        Becomes (.tsIoOutputEdge n) s (d0.setBit .tsioCtrl n 0 16 false)))

/-- R401, R404, R405, R412 and R427: the log writer stores the eight words of the waiting record at PROD and advances it; PROGRAM of a
fuse word is BUSY and refused without VDD_OTP, and its end sets the fuse bits that are 1 in DATA; a temperature sample is shown, and
sets ALARM at the threshold. -/
def Obligations.LogAndFuses : Prop :=
  ∀ (r : LogRec) (key word : Nat) (w : Fin 32) (vdd : Bool) (v : W32) (since : Nat) (temp : BitVec 11) (s : State),
    let d0 := s.dev
    let prod := d0.fld .errLogProd 0 0 15 0 % 2 ^ d0.fld .errLogCfg 0 0 8 4
    let pa := d0.fld .errLogBaseHi 0 0 3 0 * 2 ^ 32 + (d0.rd .errLogBaseLo).toNat / 16 * 16 + prod * 16
    let ns := r.time.toNat
    let ws : List W16 := [BitVec.ofNat 16 (r.sev * 16384 + r.block * 256 + r.code),
      BitVec.ofNat 16 ((if r.coal then 32768 else 0) + r.inst % 1024), r.d2, r.d3, r.d4,
      BitVec.ofNat 16 (ns / 2 ^ 32), BitVec.ofNat 16 (ns / 65536), BitVec.ofNat 16 ns]
    let th := (BitVec.ofNat 11 (d0.fld .topTempAlarm 0 0 10 0)).toInt
    (d0.logRoom = true → d0.log.lost = Map.empty → d0.log.nextAt ≤ d0.fabclk → d0.log.srcs = ⟨[(key, ⟨some r, none, 0⟩)]⟩ → r.sev < 4 → EventOff d0 169 →
      pa < 0x2000000 → d0.domOn (domGran (pa / 0x400000)) = true → Reaches .logWrite s (fun d =>
        (∀ n < 8, d.mem.word (pa / 2 + n) = Word.plain (ws.getD n 0)) ∧
        (∀ wa, wa < pa / 2 ∨ pa / 2 + 8 ≤ wa → d.mem.word wa = d0.mem.word wa) ∧
        d.fld .errLogProd 0 0 15 0 = (prod + 1) % 2 ^ d0.fld .errLogCfg 0 0 8 4 ∧
        d.log.srcs.get ⟨none, none, 0⟩ key = ⟨none, none, 0⟩ ∧
        (d0.fld .errIrqEn 0 0 5 4 ≤ r.sev → d.bit .errIrqPend 0 0 0 = true))) ∧
    (d0.bit .dbgCtrl 0 0 31 = true → d0.top.inReset = false → d0.top.otpBusy = none →
      ((s.fuses.get 0 16).getLsbD 1 = false ∨ 16 ≤ w.val → vdd = true → Reaches (.otpProgram w vdd) s (fun d =>
        d.bit .dbgOtpCmd 0 0 30 = true ∧ d.top.otpBusy = some (d0.time.tick, w.val, d0.rd .dbgOtpData))) ∧
      (((s.fuses.get 0 16).getLsbD 1 = true ∧ w.val < 16) ∨ vdd = false → Reaches (.otpProgram w vdd) s (fun d =>
        d.bit .dbgOtpCmd 0 0 29 = true ∧ d.top.otpBusy = none))) ∧
    (d0.top.otpBusy = some (since, word, v) → since + 10000 ≤ d0.time.tick → word ≤ 16 →
      exec .otpProgramDone s = .next { s with
        fuses := s.fuses.set 0 word (s.fuses.get 0 word ||| v),
        dev := { d0.setBit .dbgOtpCmd 0 0 30 false with top := { d0.top with otpBusy := none } } }) ∧
    (th ≤ temp.toInt → d0.bit .topTempAlarm 0 0 31 = true → d0.top.tempArmed = true → EventOff d0 171 →
      Reaches (.tempSample temp) s (fun d => d.fld .topTemp 0 0 10 0 = temp.toNat ∧ d.bit .topTemp 0 0 31 = true ∧
        d.top = { d0.top with tempArmed := false, tempCross := some d0.time.tick } ∧ d.mem = d0.mem)) ∧
    (th - 8 ≤ temp.toInt → temp.toInt < th → Becomes (.tempSample temp) s
      { d0.setFld .topTemp 0 0 10 0 temp.toNat with top := { d0.top with tempCross := none } })

/-- R176–R184: an instruction of a kindler within its budget acts on the kindler's k registers, cursor, field vector, PM and header
slots, counts one step and goes on at the next word or at its target; `KEND` and a failed step end the parse, whose result goes over to
the stones, here at once. -/
def Obligations.KindlerSteps : Prop :=
  ∀ (m : Fin 4) (n : Fin 32) (a b : Fin 8) (imm : W16) (t : BitVec 12) (op : Fin 7) (scale : Fin 4) (i8 : W8) (slot : Fin 12)
    (bit : Fin 31) (mask : BitVec 31) (word : Fin 44) (i : Fin 6) (sh : Fin 8) (width : Fin 16) (code : BitVec 6) (f : Bool)
    (fr : MillFrame) (rest : List MillFrame) (k : Kindler) (s : State),
    let x := s.dev.mill m
    let goes (c : Instr) (k' : Kindler) : Prop := Reaches c s (fun d =>
      d.mill m = { x with frames := { fr with kindler := some (n.val, { k' with steps := k.steps + 1 }) } :: rest } ∧
      d.ctr .kndSteps m = s.dev.ctr .kndSteps m + 1 ∧ d.prt = s.dev.prt ∧ d.mem = s.dev.mem ∧ d.regs = s.dev.regs)
    let ends (c : Instr) (code : Nat) : Prop := Reaches c s (fun d => d.ctr .kndFrames m = s.dev.ctr .kndFrames m + 1 ∧
      ∃ z, (d.mill m).frames.head? = some z ∧ z.rx = fr.rx ∧ z.kindler = none ∧ z.handed = some s.dev.time.tick ∧
        z.parse = some ⟨k.fv ++ [BitVec.ofNat 16 fr.rx.src, BitVec.ofNat 16 fr.rx.bytes.length, fr.rx.status,
          BitVec.ofNat 16 (code * 1024 + (k.steps + 1))], k.pm, k.hdrs, code, false, k.steps + 1⟩)
    let reg (n : Nat) : W16 := k.k.getD n 0
    let next : Kindler := { k with pc := k.pc + 1 }
    let branch (c : Bool) : Kindler := { k with pc := if c then t else k.pc + 1 }
    let alu (y : W16) : W16 := ([y, reg a + y, reg a - y, reg a &&& y, reg a ||| y, reg a <<< (y.toNat % 16),
      reg a >>> (y.toNat % 16)] : List W16).getD op 0
    let cur := k.cursor + i8.toNat + (if f then (reg a).toNat * 2 ^ scale.val % 65536 else 0)
    let first := k.cursor + i8.toNat
    let byte (j : Nat) : Nat := (((fr.rx.bytes[first + j]?).map Prod.fst).getD 0).toNat
    let field := BitVec.ofNat 16 ((byte 0 * 65536 + byte 1 * 256 + byte 2) / 2 ^ (23 - sh.val - width.val) % 2 ^ (width.val + 1))
    let info : W16 := ([BitVec.ofNat 16 fr.rx.src, BitVec.ofNat 16 fr.rx.bytes.length, fr.rx.status, fr.rx.meta3, fr.rx.meta4,
      fr.rx.meta5] : List W16).getD i 0
    x.frames = fr :: rest → fr.kindler = some (n.val, k) → (∀ y ∈ rest, ∀ z ∈ y.kindler, z.1 ≠ n.val) →
    k.steps < s.dev.fld .kndCtrl m 0 14 8 →
      goes (.kbeq m n a imm t) (branch (reg a == imm)) ∧ goes (.kbne m n a imm t) (branch (reg a != imm)) ∧
      goes (.kblo m n a imm t) (branch (decide (reg a < imm))) ∧ goes (.kbhs m n a imm t) (branch (decide (imm ≤ reg a))) ∧
      goes (.kbset m n a imm t) (branch (reg a &&& imm != 0)) ∧ goes (.kjmp m n t) { k with pc := t } ∧
      (op.val < 5 ∨ imm.toNat < 16 → goes (.kalui m n op a imm) { next with k := k.k.set a (alu imm) }) ∧
      goes (.kalu m n op a b) { next with k := k.k.set a (alu (reg b)) } ∧
      (cur % 65536 ≤ 511 → goes (.kadv m n f a scale i8) { next with cursor := cur % 65536 }) ∧
      goes (.khdr m n slot bit f) { next with
        hdrs := k.hdrs.set slot (BitVec.ofNat 16 (0x8000 + k.cursor)),
        pm := if f then k.pm ||| BitVec.ofNat 32 (2 ^ bit.val) else k.pm } ∧
      goes (.kpm m n mask) { next with pm := k.pm ||| mask.zeroExtend 32 } ∧
      goes (.ksto m n word f a imm) { next with fv := k.fv.set word (if f then imm else reg a) } ∧
      goes (.kmeta m n a i) { next with k := k.k.set a info } ∧
      ((∀ y ∈ (s.dev.rxWindow fr.rx).1, y.2 = false) → first + (sh.val + width.val + 8) / 8 ≤ min fr.rx.bytes.length 256 →
        goes (.kext m n (BitVec.ofNat 6 word) i8 sh width) { next with fv := k.fv.set word field } ∧
        goes (.kext m n (BitVec.ofNat 6 (48 + a)) i8 sh width) { next with k := k.k.set a field }) ∧
      (fr.handed = none → ends (.kendAccept m n) 0 ∧ (16 ≤ code.toNat → ends (.kendFail m n code) code.toNat) ∧
        (511 < cur % 65536 → ends (.kadv m n f a scale i8) 3))

/-- R166, R175, R176 and R180: a mill that is open takes the oldest frame of the next source it serves and starts its lowest idle
kindler at the source's entry; a legal kindling word is stored at PROG_ADDR, which advances with AUTO_INC. -/
def Obligations.MillEntryAndPrograms : Prop :=
  ∀ (r : ReqArg) (m : Fin 4) (src : Nat) (e : RxEntry) (rest : List RxEntry) (lo : W32) (s : State),
    let x := s.dev.mill m
    let ent := s.dev.rd .kndEntry m src
    let a := s.dev.fld .kndProgAddr m 0 11 0
    let w := s.dev.fld .kndProgHi m 0 3 0 * 2 ^ 32 + lo.toNat
    let start : Kindler := ⟨0, List.replicate 8 0, List.replicate 44 0, 0, List.replicate 12 0, 0, ent.truncate 12⟩
    (s.dev.millOpen m = true → s.dev.nextSource m = some src → s.dev.prt.rxq.get [] src = e :: rest → x.frames = [] →
      ent.getLsbD 31 = true → Reaches (.millEntry m) s (fun d => d.prt.rxq.get [] src = rest ∧
        (∀ o, o ≠ src → d.prt.rxq.get [] o = s.dev.prt.rxq.get [] o) ∧ d.mem = s.dev.mem ∧
        (d.mill m).frames = [⟨e, some (0, start), none, none, 0, false⟩] ∧ (d.mill m).lastSrc = src)) ∧
    (Opens s.dev r .kndProgLo m 0 → kindWord w = true → Reaches (.progStoreWrite r m lo) s (fun d =>
      d.mil.prog.get 0 (m * 4096 + a) = BitVec.ofNat 36 w ∧
      (∀ k, k ≠ m.val * 4096 + a → d.mil.prog.get 0 k = s.dev.mil.prog.get 0 k) ∧
      d.fld .kndProgAddr m 0 11 0 = (if s.dev.bit .kndProgAddr m 0 31 then (a + 1) % 4096 else a)))

/-- R198–R200: each command of an update port that is not BUSY starts: BUSY holds until its status is final, the command is kept with
its stone, bank and CLR, and no table changes, but that TCAM_WRITE makes its entry invalid. R190, R191, R198, R199, R201, R204, R205 and
R217: UPDATE_DONE of a legal command changes its table as the staging registers say, INSERT, MODIFY and TCAM_WRITE storing the block as
it was staged, and shows status OK with no moves; BUSY ends. -/
def Obligations.TableUpdates : Prop :=
  (∀ (r : ReqArg) (m : Fin 4) (stone : Fin 8) (bank clr : Bool) (s : State),
      let d0 := s.dev
      let x := d0.mill m
      let i := d0.fld .milUpdIdx m 0 15 0
      let starts (c : Instr) (u : Update) : Prop := Reaches c s (fun d => d.bit .milUpdStat m 0 31 = true ∧ d.mem = d0.mem ∧
        d.mill m = { x with upd := some u })
      Opens d0 r .milUpdCmd m 0 → d0.bit .milUpdStat m 0 31 = false →
        starts (.insert r m stone bank) ⟨1, stone, bank, false⟩ ∧ starts (.delete r m stone bank) ⟨2, stone, bank, false⟩ ∧
        starts (.modify r m stone bank) ⟨3, stone, bank, false⟩ ∧ starts (.lookup r m stone bank) ⟨4, stone, bank, false⟩ ∧
        Reaches (.tcamWrite r m) s (fun d => d.bit .milUpdStat m 0 31 = true ∧ d.mem = d0.mem ∧
          d.mill m = { x with upd := some ⟨5, 0, false, false⟩, tcam := (d.mill m).tcam } ∧
          (i < 8192 → (d.mill m).tcam.get none i = (x.tcam.get none i).map (fun t => { t with valid := false })) ∧
          (∀ n, n ≠ i → (d.mill m).tcam.get none n = x.tcam.get none n)) ∧
        starts (.tcamDisable r m) ⟨6, 0, false, false⟩ ∧ starts (.missWrite r m stone bank) ⟨7, stone, bank, false⟩ ∧
        starts (.psetWrite r m) ⟨8, 0, false, false⟩ ∧ starts (.streamWrite r m) ⟨9, 0, false, false⟩ ∧
        starts (.sfWrite r m) ⟨10, 0, false, false⟩ ∧ starts (.sgWrite r m) ⟨11, 0, false, false⟩ ∧
        starts (.fmWrite r m) ⟨12, 0, false, false⟩ ∧ starts (.rcvWrite r m) ⟨13, 0, false, false⟩ ∧
        starts (.cntRead r m clr) ⟨14, 0, false, clr⟩) ∧
  (∀ (m : Fin 4) (bk j : Nat) (u : Update) (s : State),
      let d0 := s.dev
      let x := d0.mill m
      let i := d0.fld .milUpdIdx m 0 15 0
      let sub := d0.fld .milUpdIdx m 0 21 16
      let w (k : Nat) : W32 := d0.rd .milUpdData m k
      let raw := d0.staged16 .milUpdData m 16
      let key20 := d0.staged16 .milUpdKey m 20
      let key := d0.updKey m u.stone
      let t := d0.table m u.stone u.bank
      let holds (d : Dev) (a : Nat) (ws : List W16) : Prop := ∀ k < ws.length, d.hashWord m (a + k) = ws.getD k 0
      let ends (P : Dev → Prop) : Prop := Reaches (.updateDone m) s (fun d => (d.mill m).upd = none ∧ d.mem = d0.mem ∧
        d.fld .milUpdStat m 0 3 0 = 0 ∧ d.fld .milUpdStat m 0 12 8 = 0 ∧ d.bit .milUpdStat m 0 31 = false ∧ P d)
      let count (d : Dev) (a : Nat) : Nat := (d.hashWords m a 4).foldl (fun n (w : W16) => n * 65536 + w.toNat) 0
      x.upd = some u →
        (d0.stoneKind m u.stone = 0 →
          (u.op = 1 → d0.findKey m t key = none → d0.freePlace m t (d0.bucketsOf m t key).1 = some j → t.words = key.length →
            ends (fun d => holds d (t.place (d0.bucketsOf m t key).1 j) key ∧ holds d (t.block (d0.bucketsOf m t key).1 j) raw)) ∧
          (d0.findKey m t key = some (bk, j) →
            (u.op = 2 → ends (fun d => d.placeValid m t bk j = false)) ∧
            (u.op = 3 → ends (fun d => holds d (t.block bk j) raw)) ∧
            (u.op = 4 → ends (fun d => d.staged16 .milUpdData m 16 = d0.hashWords m (t.block bk j) 16)))) ∧
        (u.op = 7 → u.stone < 8 → ends (fun d => holds d (missBlock u.stone u.bank) raw)) ∧
        (i < 8192 → (u.op = 5 → ends (fun d =>
            (d.mill m).tcam.get none i = some ⟨true, key20, d0.staged16 .milUpdMask m 20⟩ ∧ holds d (tcamBlock i) raw)) ∧
          (u.op = 6 → ends (fun d => (d.mill m).tcam.get none i =
            (x.tcam.get none i).map (fun t => { t with valid := false })))) ∧
        (u.op = 8 → i < 4096 → ends (fun d =>
          holds d (0x3C000 * 8 + i * 2) [((w 0) >>> (16 : Nat)).truncate 16, (w 0).truncate 16])) ∧
        (u.op = 9 → i < 512 → bits (w 0) 9 0 ≠ 1 → bits (w 0) 9 0 ≤ 1000 →
          ends (fun d => (d.mill m).streams.get 0 i = bits (w 0) 9 0)) ∧
        (u.op = 10 → i < 512 → ends (fun d => (d.mill m).filters.get (0, 0) i = (w 0, w 1 &&& 0x3FF))) ∧
        (u.op = 11 → i < 128 → sub < 32 → w 0 ≠ 0 → ends (fun d => (d.gate m i).admin.get (0, 0) sub = (w 0, w 1))) ∧
        (u.op = 12 → i < 1024 → ends (fun d => (d.mill m).meters.get Meter.init i =
          ⟨[w 0, w 1, w 2, w 3, w 4], bits (w 2) 23 0 * 1024, bits (w 3) 23 0 * 1024, d0.time.ns, false⟩)) ∧
        (u.op = 13 → m = 0 → i < 512 → 2 ≤ bits (w 0) 29 23 → bits (w 0) 29 23 ≤ 64 → bits (w 0) 15 0 ≠ 0 → bits (w 1) 13 8 ≤ 47 →
          ends (fun d => (d.recov i).d0 = w 0 ∧ (d.recov i).d1 = w 1 ∧ (d.recov i).takeAny = true)) ∧
        (u.op = 14 → d0.fld .milUpdIdx m 0 23 22 = 0 → i < 32768 → ends (fun d =>
          (d.rd .milUpdData m 0).toNat * 2 ^ 32 + (d.rd .milUpdData m 1).toNat = count d0 ((0x30000 + i) * 8) ∧
          (d.rd .milUpdData m 2).toNat * 2 ^ 32 + (d.rd .milUpdData m 3).toNat = count d0 ((0x30000 + i) * 8 + 4) ∧
          count d ((0x30000 + i) * 8) = (if u.clr then 0 else count d0 ((0x30000 + i) * 8)))))

/-- R196, R197, R204, R205, R212, R214 and R215: 96 MILLCLK after hand-over a malformed frame is admitted under MALF, and a frame that
no stone decided is dropped and its buffer freed; gossip and the LOST record enter the mill's ring at PROD; old filter entries go; a
committed gate list takes over at its instant; and a recovery instance without frames takes any number again. (That a malformed frame
counts in no other class is log entry 42, DEDUCED; the stone, bank and zero words of the LOST record are log entry 48, DESIGN CHOICE.)
-/
def Obligations.MillEvents : Prop :=
  ∀ (m : Fin 4) (fr : MillFrame) (frs : List MillFrame) (p : Parse) (at0 n b gen : Nat) (ws : List W16) (e : Sighted) (out : List Sighted) (rest : List Gossip)
    (gate : Fin 128) (t : Nat) (l : GateList) (i : Fin 512) (s : State),
    let d0 := s.dev
    let x := d0.mill m
    let tick := d0.time.tick
    let size := 2 ^ d0.fld .milGossipCfg m 0 8 4
    let prod := d0.fld .milGossipProd m 0 15 0 % size
    let pa := d0.fld .milGossipBaseHi m 0 3 0 * 2 ^ 32 + (d0.rd .milGossipBaseLo m).toNat / 16 * 16 + prod * 16
    let writes (c : Instr) (ws : List W16) (x' : Mill) : Prop := Reaches c s (fun d => d.mill m = x' ∧
      (∀ n < 8, d.mem.word (pa / 2 + n) = Word.plain (ws.getD n 0)) ∧
      (∀ wa, wa < pa / 2 ∨ pa / 2 + 8 ≤ wa → d.mem.word wa = d0.mem.word wa) ∧
      d.fld .milGossipProd m 0 15 0 = (prod + 1) % size)
    (x.frames = fr :: frs → fr.handed = some at0 → at0 + 8 ≤ tick → fr.parse = some p → fr.rx.buf = some (n, b, gen) →
      d0.mem.ecc = Map.empty →
      (p.code ≠ 0 → d0.fld .milMalf m 0 1 0 = 1 → (d0.ctr .milMalformed m).toNat < 0xFFFFFFFE → Reaches (.verdictComplete m) s (fun d => (d.mill m).frames = frs ∧
        d.ctr .milMalformed m = d0.ctr .milMalformed m + 1 ∧ d.ctr .milHost m = d0.ctr .milHost m ∧ d.mem = d0.mem ∧ ∃ y, (d.mill m).banked.getLast? = some y ∧
          y.words.getD 7 Word.zero = Word.plain (BitVec.ofNat 16 (0x4000 + d0.fld .milMalf m 0 25 16)) ∧
          y.words.getD 2 Word.zero = ⟨.handle, BitVec.ofNat 16 (n * 4096 + gen % 4096)⟩ ∧
          y.words.getD 3 Word.zero = ⟨.handle, BitVec.ofNat 16 b⟩ ∧ y.dom = none ∧ y.window = (d0.rxWindow fr.rx).1.take 256)) ∧
      (p.code = 0 → (∀ k < 8, d0.stoneEn m k = false) → d0.learnStone m = none → d0.fld .milCtrl m 0 9 8 = 0 →
        (d0.ctr .milUndecided m).toNat < 0xFFFFFFFE → Reaches (.verdictComplete m) s (fun d => (d.mill m).frames = frs ∧ (d.mill m).banked = x.banked ∧
          d.ctr .milUndecided m = d0.ctr .milUndecided m + 1 ∧ d.ctr .milDrop m = d0.ctr .milDrop m + 1 ∧
          (d.buf n b).gen = ((d0.buf n b).gen + 1) % 4096))) ∧
    (pa < 0x2000000 → d0.domOn (domGran (pa / 0x400000)) = true → EventOff d0 (64 + m) →
      (x.gossip = .sighting ws e out :: rest → ws.length = 8 → d0.gossipTakes m = true →
        writes (.gossipRecord m) ws { x with gossip := rest }) ∧
      (0 < x.gossipLost → x.gossip = [] → d0.gossipTakes m = true → writes (.gossipLostRecord m)
        [gossipHead 15 m (d0.bit .milBank m 0 (d0.fld .milLearn m 0 30 28)) (d0.fld .milLearn m 0 30 28), 0, BitVec.ofNat 16 (x.gossipLost / 65536), BitVec.ofNat 16 x.gossipLost, 0, 0, 0, 0]
        { x with gossipLost := 0 })) ∧
    Becomes (.filterAgeOut m) s (d0.setMill m { x with
      seen := x.seen.filter (fun e => decide (tick - e.at_ ≤ d0.fld .milLearn m 0 15 8 * 1600)) }) ∧
    ((d0.gate m gate).next = some (t, l) → t ≤ d0.time.ns.toNat → Becomes (.qciGateChange m gate) s
      (d0.setGate m gate { d0.gate m gate with prev := (d0.gate m gate).oper, oper := some l, operAt := t, next := none })) ∧
    ((d0.recov i).d0.getLsbD 31 = true → (d0.recov i).takeAny = false → (d0.recov i).counts.length = 7 →
      (d0.recov i).since + bits (d0.recov i).d0 15 0 * 100000 ≤ tick → Reaches (.rcvTimeout i) s (fun d =>
        (d.recov i).takeAny = true ∧ (d.recov i).hist = [] ∧ d.mil.mills = d0.mil.mills ∧
        (d.recov i).counts.getD 6 0 = (d0.recov i).counts.getD 6 0 + 1 ∧ (∀ k, k ≠ i.val → d.recov k = d0.recov k)))

/-- R150, R151, R225–R229, R242 and R262: a retirement frees the head of a domain, whose released frame takes the enqueue stage; the
staged frame joins the queue or the ring of its one destination; a copy that ends for a thread has filled a new buffer, whose handle the
thread gets; RESET of a sequence generator makes its number 0. -/
def Obligations.QueuesAndCopies : Prop :=
  ∀ (r : ReqArg) (i : Fin 512) (n dom q ring : Nat) (rest : List Nat) (f : RelFrame) (k gen idx len dofs g pr : Nat) (x : Stage)
    (j : CopyJob) (js : List CopyJob) (s : State),
    let d0 := s.dev
    let t := d0.tkt n
    let p := d0.qPort q
    let src := d0.bufAddr j.srcPool j.srcIdx + j.dofs
    let dst := d0.bufAddr j.dstPool j.dstIdx + 16 + d0.poolPad j.dstPool
    let retires (d : Dev) : Prop := d.mem = d0.mem ∧ d.rel.doms.get [] dom = rest ∧ d.rel.freed = d0.rel.freed ++ [n] ∧
      d.tkt n = { t with st := .free, epoch := (t.epoch + 1) % 8, frame := none, dom := 0, minted := 0 }
    (Opens d0 r .chmGen i 0 → Reaches (.genReset r i) s (fun d => d.fld .chmGen i 0 15 0 = 0 ∧
      d.bit .chmGen i 0 31 = d0.bit .chmGen i 0 31 ∧ d.chm = d0.chm ∧ d.mem = d0.mem)) ∧
    (d0.bit .relCtrl 0 0 0 = true → d0.rel.doms = ⟨[(dom, n :: rest)]⟩ → t.dom = dom → n ∉ rest →
      (t.st = .skipped → Reaches .ticketRetire s (fun d => retires d ∧ d.chm = d0.chm ∧
        d.ctr .relSkipped = d0.ctr .relSkipped + 1)) ∧
      (t.st = .released → t.frame = some f → d0.stageFree = true → handleOf f.hH f.hL = some (k, gen, idx) →
        d0.bufCurrent k gen idx = true → (d0.head k idx).1 = some (len, dofs) → d0.mem.ecc = Map.empty → Reaches .ticketRetire s (fun d => retires d ∧
          d.chm = { d0.chm with stage := some ⟨f, k, idx, gen, len, dofs, none, none, 0, false⟩ } ∧
          d.ctr .relReleased = d0.ctr .relReleased + 1))) ∧
    (d0.chm.stage = some x → x.orig = none → x.left = 0 → d0.bit .chmQmap x.frame.queue.toNat 0 17 = false →
      (d0.destinations x.frame = [.queue p q] → d0.qEn q = true → d0.fld .chmQlimit q 0 15 0 = 0 → d0.chm.entries < 131072 →
        d0.portDown p = false → Reaches .enqueue s (fun d => d.chm.stage = none ∧ d.chm.entries = d0.chm.entries + 1 ∧
          (d.chmq q).frames = (d0.chmq q).frames ++ [⟨x.pool, x.idx, x.gen, x.len, x.dofs, none⟩] ∧
          (∀ o, o ≠ q → d.chmq o = d0.chmq o) ∧ d.ctr .chmEnq p = d0.ctr .chmEnq p + 1 ∧ d.mem = d0.mem)) ∧
      (d0.destinations x.frame = [.ring ring] → d0.ringEn ring = true → d0.ringKind ring = 2 →
        (d0.ring ring).rxq.length < d0.fld .lnkRingAux ring 0 15 0 → Reaches .enqueue s (fun d => d.chm.stage = none ∧
          (d.ring ring).rxq = (d0.ring ring).rxq ++ [⟨x.pool, x.idx, x.gen⟩] ∧ (∀ o, o ≠ ring → d.ring o = d0.ring o) ∧
          d.mem = d0.mem))) ∧
    (d0.bpm.copies = j :: js → d0.bpm.copyWait = [] → j.who = .thread g pr → WaitsFor d0 g (.copy pr j.id) → 2 * pr + 1 < 16 →
      d0.mem.ecc = Map.empty → d0.copyReach j = true → j.dstPool < 8 → dst + j.len ≤ 0x1A00000 → src + j.len ≤ 0x1A00000 → 16 ≤ j.len →
      d0.fld .bpmStateBase 0 0 24 21 = 13 → (src + j.len ≤ dst - 32 ∨ dst + j.len ≤ src) →
      (∀ k < j.len, (d0.mem.word ((src + k) / 2)).tag = .plain) → (d0.mem.word ((dst + j.len - 1) / 2)).isRef = false →
      Reaches .copyComplete s (fun d => d.mem.bytes dst j.len = d0.mem.bytes src j.len ∧ d.bpm.copies = js ∧
        d.mem.word ((dst - 16 - d0.poolPad j.dstPool) / 2) = Word.plain (BitVec.ofNat 16 j.len) ∧
        (d.thr g).st = .ready ∧ (d.thr g).fl = flagsZ false ∧
        (d.thr g).get (2 * pr) = ⟨.handle, BitVec.ofNat 16 (j.dstPool * 4096 + j.dstGen % 4096)⟩ ∧
        (d.thr g).get (2 * pr + 1) = ⟨.handle, BitVec.ofNat 16 j.dstIdx⟩ ∧ (∀ o, o ≠ g → d.thr o = d0.thr o)))

/-- R235–R239: a legal entry is stored in the port's admin bank; CONFIG_CHANGE fixes the change time, at the base time or at the first
start of a cycle at least 1 µs away; CANCEL drops the change; at its time the admin list becomes the operational list; and the entry
that holds now sets the gates. -/
def Obligations.GateLists : Prop :=
  ∀ (r : ReqArg) (lo : W32) (p : Fin 32) (i : Nat) (s : State),
    let d0 := s.dev
    let now := d0.time.ns.toNat
    let ap := d0.fld .chmGclAddr 0 0 20 16
    let idx := d0.fld .chmGclAddr 0 0 9 0
    let bank (q : Nat) : Bool := d0.chm.bank.get false q
    let key (q : Nat) (b : Bool) (n : Nat) : Nat := (q * 2 + (if b then 1 else 0)) * 1024 + n
    let base := (d0.rd .chmAdminBaseHi p).toNat * 2 ^ 32 + (d0.rd .chmAdminBaseLo p).toNat
    let cycle := (d0.rd .chmAdminCycle p).toNat
    let chg := (d0.rd .chmChgTimeHi p).toNat * 2 ^ 32 + (d0.rd .chmChgTimeLo p).toNat
    let at_ := if now + 1000 ≤ base then base else base + (now + 1000 - base + cycle - 1) / cycle * cycle
    let len := d0.fld .chmGateCtrl p 0 26 16
    let opCycle : Int := (d0.rd .chmOperCycle p).toNat
    let opBase : Int := ((d0.rd .chmOperBaseHi p).toNat * 2 ^ 32 + (d0.rd .chmOperBaseLo p).toNat : Nat)
    let pos := (((now : Int) - opBase).emod opCycle).toNat
    let entry (n : Nat) : W64 := d0.chm.gcl.get 0 (key p (bank p) n)
    let starts (n : Nat) : Nat := ((List.range n).map (fun k => (entry k).toNat % 2 ^ 32)).foldl (· + ·) 0
    (Opens d0 r .chmGclDataLo 0 0 → d0.bit .chmGclAddr 0 0 12 = false → d0.bit .chmGateCtrl ap 0 28 = false →
      d0.fld .chmGclDataHi 0 0 23 22 ≠ 3 → 40 ≤ lo.toNat → Reaches (.gclDataWrite r lo) s (fun d =>
        d.chm = { d0.chm with gcl := d0.chm.gcl.set 0 (key ap (!bank ap) idx) ((d0.rd .chmGclDataHi &&& 0xFFC00000) ++ lo) } ∧
        d.fld .chmGclAddr 0 0 9 0 = (if d0.bit .chmGclAddr 0 0 31 then (idx + 1) % 1024 else idx) ∧ d.mem = d0.mem)) ∧
    (Opens d0 r .chmGateCtrl p 0 →
      (d0.bit .chmGateCtrl p 0 28 = false → 0 < cycle → at_ < 2 ^ 64 → Reaches (.configChange r p) s (fun d =>
        (d.rd .chmChgTimeHi p).toNat * 2 ^ 32 + (d.rd .chmChgTimeLo p).toNat = at_ ∧ d.bit .chmGateCtrl p 0 28 = true ∧
        d.chm = d0.chm ∧ d.mem = d0.mem)) ∧
      (d0.bit .chmGateCtrl p 0 28 = true → now < chg → Reaches (.cancelGateChange r p) s (fun d =>
        d.bit .chmGateCtrl p 0 28 = false ∧ d.chm = d0.chm ∧ d.mem = d0.mem))) ∧
    (d0.bit .chmGateCtrl p 0 28 = true → chg ≤ now → d0.txOf p 0 = none → d0.txOf p 1 = none →
      Reaches (.gateListSwap p) s (fun d => d.bit .chmGateCtrl p 0 28 = false ∧ d.chm.bank.get false p = !bank p ∧
        d.fld .chmGateCtrl p 0 26 16 = d0.fld .chmGateCtrl p 0 10 0 ∧ d.rd .chmOperCycle p = d0.rd .chmAdminCycle p ∧
        d.rd .chmOperBaseHi p = d0.rd .chmAdminBaseHi p ∧ d.rd .chmOperBaseLo p = d0.rd .chmAdminBaseLo p ∧
        d.chm.gcl = d0.chm.gcl ∧ d.chm.queues = d0.chm.queues ∧ d.chm.tx = d0.chm.tx ∧ d.mem = d0.mem)) ∧
    (d0.bit .chmGateCtrl p 0 28 = false → d0.bit .chmGateCtrl p 0 31 = true → i < len → 0 < opCycle → d0.txOf p 0 = none →
      d0.txOf p 1 = none → starts i ≤ pos → pos < starts (i + 1) ∨ i + 1 = len → Reaches (.gateEntryStart p) s (fun d =>
        d.chm.gates.get 0xFF p = (entry i >>> (56 : Nat)).truncate 8 ∧ (∀ q, q ≠ p.val → d.chm.gates.get 0xFF q =
          d0.chm.gates.get 0xFF q) ∧ d.chm.tx = d0.chm.tx ∧ d.chm.queues = d0.chm.queues ∧ d.regs = d0.regs ∧ d.mem = d0.mem))

/-- R165, R230–R234, R240, R241, R243 and R244: a MAC begins the frame at the head of the only queue that may send, with its FCS behind
it; a frame that ends is counted and its buffer freed; hold ends the fragment of the preemptable frame at a permitted point and its end
lets it go on; verification succeeds with an answer and makes up to three attempts; and a change of the link is reported, its fall
aborting what is sent. (Where a fragment may be cut and what it holds is log entry 50, PRESUMED from IEEE 802.3br; the instant of a hold
log entry 24; the timestamp taken when the frame is chosen log entry 23, DEDUCED.) -/
def Obligations.Transmission : Prop :=
  ∀ (p : Fin 32) (q : Nat) (f : QFrame) (rest : List QFrame) (x : TxFrame) (pm lock lf rf : Bool) (sub : Fin 10) (speed : BitVec 3)
    (rate : Nat) (s : State),
    let d0 := s.dev
    let c := d0.qClass q
    let y := d0.chmq q
    let a := d0.bufAddr f.pool f.idx + f.dofs
    let bs := d0.mem.bytes a f.len
    let body := bs ++ List.replicate (60 - f.len) 0
    let mac : Nat := if pm then 1 else 0
    let tries := d0.chm.tries.get 0 p
    let quantum := d0.fld .chmQburst q 0 31 24 * 64
    let charge := f.len + d0.fld .chmPctrl p 0 15 8
    (d0.portDown p = false → d0.txOf p 0 = none → d0.txOf p 1 = none → d0.preActive p = false → d0.bit .chmGateCtrl p 0 31 = false →
      d0.portQueues p = [q] → y.frames = f :: rest → d0.paused p c = false → d0.bit .chmCbs p c 31 = false →
      d0.fld .chmQrate q 0 21 0 = 0 → d0.chm.turn.get 0 (p * 8 + c) ≠ q + 1 → charge ≤ y.deficit + quantum →
      d0.fld .msecPortCtrl p 0 1 0 = 0 → d0.fld .chmQmap q 0 19 18 = 0 → f.seqNo = none → d0.mem.ecc = Map.empty →
      (∀ k < f.len, (d0.mem.word ((a + k) / 2)).tag = .plain ∧ d0.inStateArea (a + k) = false) → 14 ≤ f.len →
      Reaches (.txStart p false sub) s (fun d =>
        d.txOf p 0 = some ⟨f.pool, f.idx, f.gen, q, c, body ++ Crypto.fcs body, false, false, d0.nsNow + sub, 0, false, false⟩ ∧
        d.chmq q = { y with frames := rest, deficit := if rest = [] then 0 else y.deficit + quantum - charge } ∧
        (∀ o, o ≠ q → d.chmq o = d0.chmq o) ∧ d.chm.entries = d0.chm.entries - 1 ∧ d.mem = d0.mem ∧ d.regs = d0.regs)) ∧
    (d0.txOf p mac = some x → x.preempted = false → x.cut = false → (pm = true → d0.txOf p 0 = none) →
      (pm = false → d0.txOf p 1 = none) → (d0.buf x.pool x.idx).gen = x.gen → Reaches (.txEnd p pm) s (fun d =>
        d.txOf p mac = none ∧ d.ctr .prtTxFrames p = d0.ctr .prtTxFrames p + 1 ∧
        d.ctr .prtTxBytes p = d0.ctr .prtTxBytes p + BitVec.ofNat 64 x.line.length ∧
        (d.buf x.pool x.idx).gen = (x.gen + 1) % 4096 ∧ d.chm.queues = d0.chm.queues ∧ d.mem = d0.mem)) ∧
    (d0.preActive p = true → d0.bit .chmGateCtrl p 0 31 = true → d0.chm.hold.get false p = false → d0.holdWanted p d0.holdTime = some true →
      d0.txOf p 1 = some x → x.preempted = false → (d0.ctr .chmHold p).toNat < 0xFFFFFFFE → Reaches (.holdAssert p) s (fun d =>
        d.chm.hold.get false p = true ∧ d.ctr .chmHold p = d0.ctr .chmHold p + 1 ∧
        (d0.canCut p x = true → d.ctr .chmPreemptFrags p = d0.ctr .chmPreemptFrags p + 1 ∧
          d.txOf p 1 = some { x with preempted := true, cut := true, sent := x.sent + d0.fragSent p x, due := false }) ∧
        (d0.canCut p x = false → d.txOf p 1 = some x) ∧
        d.chm.queues = d0.chm.queues ∧ d.regs = d0.regs ∧ d.mem = d0.mem)) ∧
    (d0.chm.hold.get false p = true → d0.bit .chmGateCtrl p 0 31 = false → d0.txOf p 0 = none → d0.txOf p 1 = some { x with preempted := true } →
      d0.portQueues p = [] → Reaches (.holdWithdraw p) s (fun d => d.chm.hold.get false p = false ∧
        d.txOf p 1 = some { x with preempted := false, since := d0.nsNow } ∧ d.chm.queues = d0.chm.queues ∧ d.ctrs = d0.ctrs ∧ d.regs = d0.regs)) ∧
    (d0.fld .chmPreempt p 0 29 27 = 1 →
      (d0.portLink p = true → Becomes (.respondMpacket p) s (d0.setFld .chmPreempt p 0 29 27 2)) ∧
      (d0.fld .chmPreempt p 0 15 8 * 100000 ≤ d0.time.tick - d0.chm.verSince.get 0 p →
        (3 ≤ tries → Becomes (.preemptVerifyTimeout p) s (d0.setFld .chmPreempt p 0 29 27 3)) ∧
        (tries < 3 → Becomes (.preemptVerifyTimeout p) s { d0 with chm := { d0.chm with
          tries := d0.chm.tries.set 0 p (tries + 1), verSince := d0.chm.verSince.set 0 p d0.time.tick } }))) ∧
    (d0.domOn (domPortq (p.val / 4)) = true → speed.toNat < 5 → d0.rateInUse p speed.toNat = some rate → EventOff d0 p →
      (d0.bit .prtStatus p 0 0 = false → d0.fld .prtMode p 0 2 0 ≠ 0 → d0.prt.downUntil.get 0 p ≤ d0.time.tick →
        Reaches (.portLinkChange p true true lf rf speed) s (fun d => d.bit .prtStatus p 0 0 = true ∧ d.bit .prtStatus p 0 8 = true ∧
          d.fld .prtStatus p 0 6 4 = rate ∧ d.bit .prtStatus p 0 1 = lf ∧ d.bit .prtStatus p 0 2 = rf ∧
          d.bit .prtStatus p 0 7 = true ∧ d.chm.queues = d0.chm.queues ∧ d.chm.tx = d0.chm.tx ∧ d.mem = d0.mem)) ∧
      (d0.bit .prtStatus p 0 0 = true → d0.txOf p mac = some x → d0.bit .chmPctrl p 0 31 = false → EventOff d0 170 →
        Reaches (.portLinkChange p false lock lf rf speed) s (fun d => d.bit .prtStatus p 0 0 = false ∧
          d.bit .prtStatus p 0 8 = true ∧ d.txOf p 0 = none ∧ d.txOf p 1 = none ∧ d.chm.queues = d0.chm.queues ∧ d.mem = d0.mem)))

/-- R8, R157–R165, R252, R257–R260 and R265: with LINK 0 a port receives nothing; a frame, reassembled when it came in fragments, that
passes the checks of station 1 is counted, takes a buffer of the smallest pool that fits, with its head and bytes in memory, and waits
for its mill; one that fails is counted under its error and leaves nothing; a MAC control frame stops the MAC or its priorities, until
the stop runs out; a due PFC frame is sent; and a mode change drops the link. (Reassembly by SMD values, fragment counts and mCRC is log
entry 50, PRESUMED from IEEE 802.3br.) -/
def Obligations.PortEvents : Prop :=
  ∀ (r : ReqArg) (p : Fin 32) (bytes whole : List W8) (x : RxInfo) (f : MacControl) (n : Fin 8) (pool t : Nat) (v : W32) (s : State),
    let d0 := s.dev
    let len := whole.length
    let bs := whole.take (len - 4)
    let maxlen := d0.fld .prtRxctrl p 0 13 0
    let rate := d0.portRate p
    let tick := d0.time.tick
    let stop (q : W16) : Option Nat := if q = 0 then none else some (tick + (q.toNat * 51200 + rate - 1) / rate)
    let time (k : Nat) : W16 := f.times.getD k 0
    let prios := d0.fld .bpmLlCfg p 0 15 8 &&& d0.fld .prtFc p 0 7 0
    let type := (bs.getD 12 0).toNat * 256 + (bs.getD 13 0).toNat
    let ts := d0.timeAgo x.ago.toNat + ((d0.rd .prtTsAdj p).truncate 16 : W16).signExtend 64
    let since := d0.firstByte x.ago
    let counts (d : Dev) (m : Nat) : Prop := d.ctr .prtRxFrames p = d0.ctr .prtRxFrames p + 1 ∧
      d.ctr .prtRxBytes p = d0.ctr .prtRxBytes p + BitVec.ofNat 64 m
    let drops (k : CtrKind) : Prop := (d0.ctr k p).toNat < 0xFFFFFFFE → Reaches (.portRxFrame p bytes x) s (fun d =>
      d = { d0 with ctrs := d.ctrs, prt := { d0.prt with left := d.prt.left } } ∧ d.ctr k p = d0.ctr k p + 1)
    (d0.portLink p = false → d0.cutByMode p x = false → Becomes (.portRxFrame p bytes x) s d0) ∧
    (d0.portLink p = true → x.frags = [] ∨ d0.bit .prtRxctrl p 0 18 = true →
      (d0.noRoom p (d0.firstByte x.ago) = true → drops .prtRxOverrun) ∧
      (d0.noRoom p (d0.firstByte x.ago) = false →
        (arrived x bytes = none → drops .prtRxFragErr) ∧
        (arrived x bytes = some whole → len < 64 → drops .prtRxRunt) ∧
        (arrived x bytes = some whole → 64 ≤ len → maxlen < len → drops .prtRxOversize) ∧
        (arrived x bytes = some whole → 64 ≤ len → len ≤ maxlen →
          (Crypto.fcs bs ≠ whole.drop (len - 4) → drops .prtRxFcsErr) ∧
          (Crypto.fcs bs = whole.drop (len - 4) →
            (x.pcsErr = true → drops .prtRxPcsErr) ∧
            (x.pcsErr = false → type ≠ 0x8808 → d0.fld .msecPortCtrl p 0 1 0 = 0 → d0.fld .bpmLlCfg p 0 15 8 = 0 →
              FirstFit d0 (len - 4) pool → PoolHas d0 pool → Reaches (.portRxFrame p bytes x) s (fun d => counts d len ∧
                ∃ i < d0.poolCount pool, (d.buf pool i).alloc = true ∧ d.poolFree pool = d0.poolFree pool - 1 ∧
                  d.mem.bytes (d0.bufAddr pool i + 16 + d0.poolPad pool) (bs.length / 2 * 2) = bs.take (bs.length / 2 * 2) ∧
                  d.mem.word (d0.bufAddr pool i / 2) = Word.plain (BitVec.ofNat 16 bs.length) ∧
                  d.mem.word (d0.bufAddr pool i / 2 + 1) = Word.plain (BitVec.ofNat 16 (16 + d0.poolPad pool)) ∧
                  d.mem.word (d0.bufAddr pool i / 2 + 2) = Word.plain (BitVec.ofNat 16 p) ∧
                  d.prt = { d0.prt with left := d.prt.left, rxq := d0.prt.rxq.set [] p (d0.prt.rxq.get [] p ++
                    [⟨bs.map (·, false), p, len, since, ts, 0, if x.frags = [] then 0 else 1, 0, 0, some (pool, i, (d0.buf pool i).gen)⟩]) })))))) ∧
    (d0.portLink p = true →
      (d0.noRoom p (tick - d0.quantaTicks p 1) = true → (d0.ctr .prtRxOverrun p).toNat < 0xFFFFFFFE →
        Becomes (.macControlFrame p f) s { d0 with ctrs := d0.ctrs.set 0 (CtrKind.off .prtRxOverrun p 0) (d0.ctr .prtRxOverrun p + 1) }) ∧
      (d0.noRoom p (tick - d0.quantaTicks p 1) = false → Reaches (.macControlFrame p f) s (fun d => counts d 64 ∧ d.ctr .prtRxPause p = d0.ctr .prtRxPause p + 1 ∧ d.mem = d0.mem ∧
        d.prt.pause.get none p = (if f.op = 1 ∧ d0.bit .prtRxctrl p 0 16 = true then stop (time 0) else d0.prt.pause.get none p) ∧
        (∀ k < 8, d.prt.pfc.get none (p * 8 + k) = if f.op = 0x101 ∧ d0.bit .prtRxctrl p 0 17 = true ∧ f.prios.getLsbD k = true
          then stop (time k) else d0.prt.pfc.get none (p * 8 + k)))) ∧
      (d0.bit .prtRxctrl p 0 18 = true → Becomes (.verifyMpacket p) s { d0 with prt := { d0.prt with
        responds := d0.prt.responds.upd 0 p (· + 1) } }) ∧
      (0 < prios → d0.bpm.pfcDue.get 0 p = 1 → Reaches (.pfcTx p) s (fun d => d.bpm.pfcDue.get 0 p = 0 ∧ d.mem = d0.mem ∧
        d.prt = { d0.prt with pfcSent := d0.prt.pfcSent.set (0, 0) p (BitVec.ofNat 8 prios, BitVec.ofNat 16 (d0.fld .prtFc p 0 31 16)) } ∧
        d.ctr .prtTxPause p = d0.ctr .prtTxPause p + 1))) ∧
    (t ≤ tick →
      (d0.prt.pause.get none p = some t → Becomes (.pauseExpiry p none) s { d0 with prt := { d0.prt with
        pause := d0.prt.pause.set none p none } }) ∧
      (d0.prt.pfc.get none (p * 8 + n) = some t → Becomes (.pauseExpiry p (some n)) s { d0 with prt := { d0.prt with
        pfc := d0.prt.pfc.set none (p * 8 + n) none } })) ∧
    (Opens d0 r .prtMode p 0 → d0.bit .topSetupLock 0 0 4 = false → p.val < 24 → bits v 2 0 ≤ 3 → bits v 6 4 ≤ 3 → bits v 9 8 = 0 →
      v &&& 0x1377 ≠ d0.rd .prtMode p → d0.portLink p = true → EventOff d0 p → Reaches (.portModeChange r p v) s (fun d =>
        d.rd .prtMode p = v &&& 0x1377 ∧ d.portLink p = false ∧ d.bit .prtStatus p 0 8 = true ∧
        d.prt = { d0.prt with downUntil := d0.prt.downUntil.set 0 p (tick + 1000), cut := d0.prt.cut.set 0 p (tick + 1000) } ∧ d.mem = d0.mem))

/-- R167 and R173: COMMIT_SC and COMMIT_SA store the selected channel's and association's words, the key registers reading zero
afterwards; READ shows the stored words but the key; MSEC_CMD_DONE ends BUSY. -/
def Obligations.MacsecCommands : Prop :=
  ∀ (r : ReqArg) (s : State),
    let d0 := s.dev
    let sc := (d0.fld .msecSel 0 0 12 8 * 2 + d0.fld .msecSel 0 0 7 7) * 32 + d0.fld .msecSel 0 0 6 2
    let sa := sc * 4 + d0.fld .msecSel 0 0 1 0
    let key := (List.range 8).foldl (fun a i => a * 2 ^ 32 + (d0.rd .msecSaKey i).toNat) 0
    let salt := (List.range 3).foldl (fun a i => a * 2 ^ 32 + (d0.rd .msecSaSalt i).toNat) 0
    let c := d0.prt.scs.get ⟨0, 0⟩ sc
    let x := d0.prt.sas.get ⟨0, 0, 0, 0, 0, false, false⟩ sa
    let same (d : Dev) : Prop := d = { d0 with regs := d.regs, prt := d.prt } ∧ d.bit .msecCmd 0 0 8 = true
    Becomes .msecCmdDone s (d0.setBit .msecCmd 0 0 8 false) ∧
    (Opens d0 r .msecCmd 0 0 →
      Reaches (.commitSc r) s (fun d => same d ∧ d.prt = { d0.prt with
        scs := d0.prt.scs.set ⟨0, 0⟩ sc ⟨d0.rd .msecSciHi ++ d0.rd .msecSciLo, d0.rd .msecScCtrl⟩ }) ∧
      Reaches (.commitSa r) s (fun d => same d ∧ (∀ i < 8, d.rd .msecSaKey i = 0) ∧ d.prt = { d0.prt with
        sas := d0.prt.sas.set ⟨0, 0, 0, 0, 0, false, false⟩ sa
          ⟨d0.rd .msecSaCtrl, key, salt, d0.rd .msecSaSsci, d0.rd .msecSaPnHi ++ d0.rd .msecSaPnLo, false, false⟩ }) ∧
      Reaches (.msecRead r) s (fun d => same d ∧ (∀ i < 8, d.rd .msecSaKey i = 0) ∧ d.prt = d0.prt ∧
        d.rd .msecSciHi ++ d.rd .msecSciLo = c.sci ∧ d.rd .msecScCtrl = c.ctrl ∧ d.rd .msecSaCtrl = x.ctrl ∧
        d.rd .msecSaSsci = x.ssci ∧ d.rd .msecSaPnHi ++ d.rd .msecSaPnLo = x.pn ∧
        (∀ i < 3, d.rd .msecSaSalt i = BitVec.ofNat 32 (x.salt / 2 ^ (32 * (2 - i))))))

/-- R275–R281: a range command stores its fields and is BUSY; at its end a dirty line of the range is in memory after CLEAN and
CLEAN_INVAL, is out of the cache after INVAL and CLEAN_INVAL, and a line that LOCK names is in a locked way; an accepted writeback of
the victim buffer is in memory. (The lines named hold no error of their check bits, and lie in no region that is being filled.) -/
def Obligations.CacheRanges : Prop :=
  ∀ (r : ReqArg) (h : Fin 16) (all force evt : Bool) (la k : Nat) (l : Line) (rest : List Line) (s : State),
    let d0 := s.dev
    let cmd := d0.rd .hthRngCmd h
    let bit (b : Bool) (n : Nat) : Nat := if b then 2 ^ n else 0
    let starts (c : Instr) (op : Nat) : Prop := Reaches c s (fun d => d.eng = d0.eng ∧ d.mem = d0.mem ∧
      d.rd .hthRngCmd h = BitVec.ofNat 32 (bit evt 9 + bit all 8 + bit force 4 + op) ∧ d.bit .hthRngStat h 0 31 = true ∧
      d.fld .hthRngStat h 0 25 0 = (if all then 256 else d0.fld .hthRngLen h 0 25 0) ∧
      d.ctr .hthRngSkipped h = 0 ∧ d.ctr .hthRngLockFail h = 0)
    let wrote (d : Dev) (x : Line) : Prop := (∀ n < 32, d.mem.word (x.addr * 32 + n) = x.get n) ∧
      (∀ wa, wa < x.addr * 32 ∨ x.addr * 32 + 32 ≤ wa → d.mem.word wa = d0.mem.word wa)
    let ends (P : Dev → Prop) : Prop := Reaches (.rangeDone h) s (fun d => P d ∧ d.bit .hthRngStat h 0 31 = false ∧
      d.bit .hthRngStat h 0 29 = true ∧ d.fld .hthRngStat h 0 25 0 = 0)
    let stored (x : Line) : Prop := d0.memOk (x.addr * 64) = true ∧ d0.tagged (x.addr * 64) = true ∧
      d0.filling (x.addr * 64) = false ∧ x.whole = true ∧ x.err = Map.empty
    (Opens d0 r .hthRngCmd h 0 → d0.bit .hthRngStat h 0 31 = false → all = true ∨ 0 < (d0.rd .hthRngLen h).toNat →
      starts (.rangeClean r h all force evt) 1 ∧ starts (.rangeInval r h all force evt) 2 ∧
      starts (.rangeCleanInval r h all force evt) 3 ∧ (all = false → starts (.rangeLock r h all force evt) 4)) ∧
    (d0.bit .hthRngStat h 0 31 = true → cmd.getLsbD 8 = false → cmd.getLsbD 9 = false → d0.fld .hthRngLen h 0 25 0 = 1 →
      d0.fld .hthRngBaseHi h 0 3 0 * 2 ^ 26 + (d0.rd .hthRngBaseLo h).toNat / 64 = la → (d0.hth h).victim = [] →
      (d0.hth h).fetches = [] → d0.filling (la * 64) = false →
      (d0.cacheFind h la = some (k, l) → l.addr = la → l.dirty = true → stored l →
        d0.bit .hthCacheLock h 0 (k % 8) = false →
        (bits cmd 2 0 = 1 → ends (fun d => wrote d l ∧
          (d.hth h).cache.get none k = some { l with dirty := false, clean := false })) ∧
        (bits cmd 2 0 = 2 → ends (fun d => d.mem = d0.mem ∧ (d.hth h).cache.get none k = none)) ∧
        (bits cmd 2 0 = 3 → ends (fun d => wrote d l ∧ (d.hth h).cache.get none k = none))) ∧
      (bits cmd 2 0 = 4 → d0.cacheFind h la = some (k, l) → l.addr = la → d0.bit .hthCacheLock h 0 (k % 8) = false →
        (∃ w < 8, d0.bit .hthCacheLock h 0 w = true ∧ (d0.hth h).cache.get none (la % 256 * 8 + w) = none) →
        ends (fun d => d.mem = d0.mem ∧ (d.hth h).cache.get none k = none ∧
          ∃ w < 8, d0.bit .hthCacheLock h 0 w = true ∧ (d.hth h).cache.get none (la % 256 * 8 + w) = some l))) ∧
    ((d0.hth h).victim = l :: rest → stored l → d0.cacheFind h l.addr = none → Reaches (.victimWritebackDone h) s (fun d =>
      wrote d l ∧ d.regs = d0.regs ∧ d.hth h = { d0.hth h with victim := match rest with
        | [] => []
        | x :: xs => { x with issued := true } :: xs }))

/-- R40, R285–R288: EN of a channel that breaks no rule is stored with its fields; training that succeeds makes the channel READY, and a
failed one sets TRAIN_FAIL and is logged; tracking changes nothing (log entry 26, DEDUCED); INIT of an enabled region clears INIT_DONE,
and at its end the region, and the shadow of a tagged one, read PLAIN zero with no error in their check bits, and the rest of memory
reads as before, where no store waited for it. (No channel of the bellows is paused for power.) R253, R254, R297 and R298: EN of a legal
pool starts the initialisation of its buffers, after which all are free with generation 0; an invalidation is BUSY until every walk that
it passed has ended, and then its targets hold no entry that it names. -/
def Obligations.MemoryChannelsPoolsAndInvalidations : Prop :=
  (∀ (r : ReqArg) (c : Fin 4) (v : W32) (restored kind : Bool) (n : Fin 16) (s : State),
      let d0 := s.dev
      let base := d0.fld .memRegBase n 0 9 0 * 2 ^ 25
      let size := d0.fld .memRegSize n 0 9 0 * 2 ^ 25
      let shadow := d0.fld .memRegShadow n 0 12 0 * 2 ^ 22
      let filled (wa : Nat) : Prop := (base ≤ wa ∧ wa < base + size) ∨
        (d0.bit .memRegCtrl n 0 30 = true ∧ shadow ≤ wa ∧ wa < shadow + size / 8)
      let trains : Prop := d0.bit .memMcCfg c 0 31 = true ∧ d0.domFull (domMc c) = true ∧ d0.bit .memMcStatus c 0 31 = false ∧
        d0.bit .memMcStatus c 0 30 = false ∧ ∀ n < 64, d0.blwCause n ≠ 3 ∧ (d0.bch n).pausing ≠ 3
      Becomes (.trackingRun c) s d0 ∧
      (Opens d0 r .memMcCfg c 0 → d0.bit .topSetupLock 0 0 14 = false → (∀ m < 4, d0.bit .memMcCfg m 0 31 = false) →
        bits v 9 8 = 0 → bits v 3 0 ∈ [1, 2, 4, 8] → 4 ≤ bits v 23 16 → bits v 23 16 + bits v 3 0 ≤ 36 →
        Reaches (.mcEnable r c v) s (fun d => d.rd .memMcCfg c = (v ||| 0x80000000) &&& 0x80FF031F ∧
          d = { d0 with regs := d.regs })) ∧
      (trains →
        (LogClear d0 14 c → Becomes (.memTrainingDone c false restored) s
          ((d0.setBit .memMcStatus c 0 30 true).recorded 2 14 0x0A c 0 0 0)) ∧
        Reaches (.memTrainingDone c true false) s (fun d => d.bit .memMcStatus c 0 31 = true ∧ d.bit .memMcStatus c 0 30 = false ∧
          d.bit .memMcStatus c 0 29 = false ∧ d.eng = d0.eng ∧ d.ctrs = d0.ctrs)) ∧
      (Opens d0 r .memRegCtrl n 0 → d0.bit .memRegCtrl n 0 31 = true → Reaches (.regionInit r n true kind) s (fun d =>
        d.bit .memRegCtrl n 0 28 = false ∧ d.bit .memRegCtrl n 0 31 = true ∧
        d.mem = { d0.mem with init := d0.mem.init.set false n true })) ∧
      (d0.mem.init.get false n = true → d0.mem.held = [] → Reaches (.regionInitDone n) s (fun d => d.bit .memRegCtrl n 0 28 = true ∧
        d.mem.init.get false n = false ∧ (∀ wa, filled wa → d.mem.word wa = Word.zero ∧ d.mem.ecc.get 0 (wa / 4) = 0) ∧
        (∀ wa, ¬ filled wa → d.mem.word wa = d0.mem.word wa)))) ∧
  (∀ (r : ReqArg) (n : Fin 8) (pad : W8) (x : Fin 32) (evt : Bool) (s : State),
      let d0 := s.dev
      let base := d0.fld .bpmPoolBaseHi n 0 3 0 * 2 ^ 32 + (d0.rd .bpmPoolBaseLo n).toNat / 64 * 64
      let count := d0.fld .bpmPoolCount n 0 16 0
      let bit (b : Bool) (n : Nat) : Nat := if b then 2 ^ n else 0
      let cmd := d0.rd .mmuTlbiCmd
      let tgt := d0.rd .mmuTlbiTgt
      let va := d0.fld .mmuTlbiVaHi 0 0 3 0 * 2 ^ 32 + (d0.rd .mmuTlbiVaLo).toNat / 65536 * 65536
      let named (e : TlbEntry) : Bool := bits cmd 1 0 == 1 || (bits cmd 1 0 == 2 && e.ctx == bits cmd 12 8) ||
        (bits cmd 1 0 == 3 && e.ctx == bits cmd 12 8 && (if e.block then e.vnum == va / 2 ^ 25 else e.vnum == va / 65536))
      let starts (c : Instr) (op x : Nat) : Prop := Reaches c s (fun d => d.mmu = { d0.mmu with tlbi := true } ∧
        d.rd .mmuTlbiCmd = BitVec.ofNat 32 (x * 256 + bit evt 7 + op) ∧ d.bit .mmuTlbiStat 0 0 31 = true ∧
        (∀ h, d.hth h = d0.hth h) ∧ d.mem = d0.mem)
      (Opens d0 r .bpmPoolCfg n 0 → d0.bit .topSetupLock 0 0 10 = false → d0.bit .bpmPoolCfg n 0 31 = false → pad.toNat % 2 = 0 →
        1 ≤ count → count ≤ 65536 → 0x8000000 ≤ base →
        base + count * [96, 192, 384, 768, 1536, 3072, 9216, 16384].getD n 0 ≤ 0x9000000 →
        Reaches (.poolEnable r n pad) s (fun d => d.bit .bpmPoolCfg n 0 31 = true ∧ d.fld .bpmPoolCfg n 0 7 0 = pad.toNat ∧
          d.bpm = { d0.bpm with init := d0.bpm.init.set false n true } ∧ d.mem = d0.mem)) ∧
      (d0.bpm.init.get false n = true → Reaches (.poolReady n) s (fun d => d.bit .bpmPoolStat n 0 31 = true ∧
        d.poolFree n = count ∧ (∀ i < 65536, d.buf n i = Buf.init) ∧
        (∀ m < 8, m ≠ n.val → ∀ i < 65536, d.buf m i = d0.buf m i) ∧ d.mem = d0.mem)) ∧
      (Opens d0 r .mmuTlbiCmd 0 0 → d0.bit .mmuTlbiStat 0 0 31 = false →
        starts (.tlbiAll r evt) 1 0 ∧ starts (.tlbiContext r x evt) 2 x ∧ starts (.tlbiAddress r x evt) 3 x) ∧
      (d0.mmu.tlbi = true → d0.staleLeft = false → EventOff d0 160 → Reaches .tlbiDone s (fun d =>
        d.mmu.tlbi = false ∧ d.bit .mmuTlbiStat 0 0 31 = false ∧ d.bit .mmuTlbiStat 0 0 30 = true ∧ d.mem = d0.mem ∧
        d.mmu.blwTlb = (if tgt.getLsbD 16 then d0.mmu.blwTlb.filter (!named ·) else d0.mmu.blwTlb) ∧
        (∀ h < 16, d.hth h = { d0.hth h with
          tlb := if tgt.getLsbD h then (d0.hth h).tlb.filter (!named ·) else (d0.hth h).tlb }))))

/-- R307, R317, R319 and R322: TAIL is stored modulo the ring's size and sets an idle channel going; PAUSE of a channel with no burst on
its way makes it PAUSED with cause COMMAND; RESUME lets it go on; ABORT ends its descriptor at its position; RESET stops it at once. -/
def Obligations.BellowsCommands : Prop :=
  ∀ (r : ReqArg) (n : Fin 64) (v : W16) (s : State),
    let d0 := s.dev
    let c := d0.bch n
    let st := d0.fld .blwStat n 0 31 29
    let cause := d0.fld .blwStat n 0 28 27
    let slots := 2 ^ d0.fld .blwCfg n 0 31 28
    let head := d0.fld .blwHead n 0 15 0 % slots
    let tail := d0.fld .blwTail n 0 15 0 % slots
    let others (d : Dev) : Prop := d.mem = d0.mem ∧ d.ctrs = d0.ctrs ∧ (∀ m, m ≠ n.val → d.bch m = d0.bch m)
    let stands (d : Dev) (x : Nat) : Prop := d.fld .blwStat n 0 31 29 = x ∧ others d
    (Opens d0 r .blwTail n 0 → d0.bit .blwCfg n 0 3 = false → Reaches (.blwTailWrite r n v) s (fun d => others d ∧
      d.fld .blwTail n 0 15 0 = v.toNat % slots ∧ d.bch n = c ∧
      (st = 1 → d.fld .blwStat n 0 31 29 = if head ≠ v.toNat % slots ∨ c.desc.isSome then 2 else 1))) ∧
    (Opens d0 r .blwCmd n 0 →
      (st = 1 ∨ (st = 2 ∧ c.bursts = [] ∧ c.pausing = 0) → Reaches (.blwPause r n) s (fun d => stands d 3 ∧
        d.fld .blwStat n 0 28 27 = 1)) ∧
      (st = 2 → c.bursts ≠ [] → c.pausing = 0 → Reaches (.blwPause r n) s (fun d => stands d 2 ∧
        d.bch n = { c with pausing := 1 })) ∧
      ((st = 3 ∧ cause ≠ 3) ∨ st = 4 → Reaches (.blwResume r n) s (fun d => d.bch n = c ∧
        stands d (if head ≠ tail ∨ c.desc.isSome then 2 else 1) ∧ d.fld .blwStat n 0 28 27 = 0)) ∧
      (st = 3 ∨ (st = 2 ∧ c.elem < c.count) → c.desc.isSome → Reaches (.blwAbort r n) s (fun d => stands d 2 ∧
        d.bch n = { c with
          bursts := [], itemTag := none, walk := none, pausing := 0, ending := some (if st = 3 ∧ cause = 2 then 7 else 8) })) ∧
      Reaches (.blwReset r n) s (fun d => stands d 0 ∧ d.bit .blwCfg n 0 0 = false ∧
        d.bch n = { BlwCh.init with nextAt := c.nextAt } ∧ d.fld .blwHead n 0 15 0 = d0.fld .blwHead n 0 15 0))

/-- R308–R318: a running channel takes the descriptor at HEAD, or ends it with status 1 where it names no element; the read engine
starts a burst up to the next 512-byte boundary of the destination from tagged words; a burst that completes is in memory and counted;
and a descriptor that has moved everything, or met an error, stores its completion words and lets the channel go on or halt. -/
def Obligations.BellowsTransfers : Prop :=
  ∀ (n : Fin 64) (ws item : List Word) (b : Burst) (rest : List Burst) (s : State),
    let d0 := s.dev
    let c := d0.bch n
    let st := d0.fld .blwStat n 0 31 29
    let slots := 2 ^ d0.fld .blwCfg n 0 31 28
    let head := d0.fld .blwHead n 0 15 0 % slots
    let tail := d0.fld .blwTail n 0 15 0 % slots
    let slot := d0.fld .blwRingHi n 0 3 0 * 2 ^ 32 + (d0.rd .blwRingLo n).toNat / 32 * 32 + head * 32
    let v (k : Nat) : Nat := ((ws.getD k Word.zero).v).toNat
    let i (k : Nat) : Nat := ((item.getD k Word.zero).v).toNat
    let src := i 0 * 2 ^ 32 + i 1 * 2 ^ 16 + i 2 + c.ofs
    let dst := i 3 * 2 ^ 32 + i 4 * 2 ^ 16 + i 5 + c.ofs
    let total := i 6 * 65536 + i 7
    let len := min (512 - dst % 512) (total - c.ofs)
    let share := d0.fld .blwCfg n 0 23 16 + 1
    let status := c.ending.getD 0
    (st = 2 → c.desc = none → c.pausing = 0 → head ≠ tail → InGranary d0 slot 10 → d0.mem.ecc = Map.empty →
      ws = (List.range 5).map (fun k => d0.mem.word (slot / 2 + k)) → (∀ w ∈ ws, w.tag = .plain) →
      (v 0 / 4096 = 1 ∨ v 0 / 4096 = 2 → v 0 / 32 % 8 = 0 → v 1 ≠ 0 → v 2 < 16 → v 4 % 16 = 0 →
        Reaches (.descriptorStart n) s (fun d => d.mem = d0.mem ∧ d.rd .blwPosElem n = 0 ∧ d.rd .blwPosOfs n = 0 ∧
          d.bch n = { BlwCh.init with desc := some (ws.map Word.v), nextAt := c.nextAt })) ∧
      (v 1 = 0 → Reaches (.descriptorStart n) s (fun d => d.mem = d0.mem ∧ (d.bch n).ending = some 1))) ∧
    (d0.blwPick = some n.val → c.desc = some (ws.map Word.v) → v 0 / 4096 = 1 → v 0 / 256 % 16 = 0 → c.item = some item →
      item.length = 8 → (∀ w ∈ item, w.tag = .plain) → i 0 = 0 → i 3 = 0 → total ≠ 0 → c.ofs < total → c.total + total ≤ 2 ^ 32 →
      (i 2 + i 5 + i 7) % 2 = 0 → i 2 % 2 = 0 → i 5 % 2 = 0 → c.ofs % 2 = 0 → InGranary d0 src len → d0.mem.ecc = Map.empty → InGranary d0 dst len →
      src % 65536 + len ≤ 65536 → Reaches .burstStart s (fun d => d.mem = d0.mem ∧
        d.bch n = { c with
          bursts := c.bursts ++ [⟨c.elem, c.ofs, len, dst,
            some ((List.range (len / 2)).map (fun k => d0.mem.word (src / 2 + k))), [], true, [], [], none⟩],
          nextAt := max c.nextAt d0.fabclk + (len * 4096 + share * 1024 - 1) / (share * 1024),
          elem := if c.ofs + len = total then c.elem + 1 else c.elem,
          ofs := if c.ofs + len = total then 0 else c.ofs + len,
          item := if c.ofs + len = total then none else some item,
          total := if c.ofs + len = total then c.total + total else c.total })) ∧
    (c.bursts = b :: rest → b.ready = true → b.failed = none → b.words = some ws → ws.length = b.len / 2 → b.dst % 2 = 0 →
      InGranary d0 b.dst (b.len + 2) → c.pausing = 0 → Reaches (.burstComplete n) s (fun d =>
        (∀ k < b.len / 2, d.mem.word (b.dst / 2 + k) = ws.getD k Word.zero) ∧
        (∀ wa, wa < b.dst / 2 ∨ b.dst / 2 + b.len / 2 ≤ wa → d.mem.word wa = d0.mem.word wa) ∧
        d.bch n = { c with bursts := rest } ∧ d.ctr .blwBytes n = d0.ctr .blwBytes n + BitVec.ofNat 64 b.len ∧
        d.fld .blwPosElem n 0 15 0 = b.elem % 65536 ∧ d.rd .blwPosOfs n = BitVec.ofNat 32 (b.ofs + b.len))) ∧
    (st = 2 → c.desc = some (ws.map Word.v) → c.feed = none → c.bursts = [] → c.pausing = 0 → c.ending.isSome ∨ c.count ≤ c.elem →
      v 0 / 1024 % 2 = 0 → InGranary d0 slot 32 → (d0.ctr .blwErrors).toNat < 0xFFFFFFFE → Reaches (.descriptorComplete n) s (fun d =>
        d.mem.word (slot / 2 + 12) = Word.plain (BitVec.ofNat 16 (0x8000 + status)) ∧
        d.mem.word (slot / 2 + 13) = Word.plain ((d0.rd .blwPosElem n).truncate 16) ∧
        (d.mem.word (slot / 2 + 14)).v ++ (d.mem.word (slot / 2 + 15)).v = d0.rd .blwPosOfs n ∧
        (∀ wa, wa < slot / 2 + 12 ∨ slot / 2 + 16 ≤ wa → d.mem.word wa = d0.mem.word wa) ∧
        d.fld .blwHead n 0 15 0 = (head + 1) % slots ∧ d.fld .blwStat n 0 7 0 = status % 256 ∧
        d.ctr .blwDescs = d0.ctr .blwDescs + 1 ∧ d.ctr .blwErrors = d0.ctr .blwErrors + (if status = 0 then 0 else 1) ∧
        d.bch n = { BlwCh.init with nextAt := c.nextAt } ∧
        d.fld .blwStat n 0 31 29 = (if status ≠ 0 ∧ d0.bit .blwCfg n 0 1 = true then 4
          else if (head + 1) % slots ≠ tail then 2 else 1)))

/-- R340 and R341: COMMIT puts the key words, 128 or 256 bits of them, into the selected slot and clears them, ERASE empties the slot,
and both leave BUSY set, while which neither does anything; COMMIT of a pattern stores its words under the selected number, READ loads
them. R141: the flow table's entry at INDEX is emptied at once, and a clear of all entries or of a hearth's starts. (That the slot takes
its key at the write while BUSY stays set is log entry 46, DESIGN CHOICE.) -/
def Obligations.KeysPatternsAndFlows : Prop :=
  ∀ (r : ReqArg) (h : Fin 16) (s : State),
    let d0 := s.dev
    let x := d0.hth h
    let slot := d0.fld .hthKeySel h 0 4 0
    let big := d0.bit .hthKeySel h 0 8
    let key := (List.range (if big then 8 else 4)).foldl (fun a i => a * 2 ^ 32 + (d0.rd .hthKey h i).toNat) 0
    let n := d0.fld .hthPatSel h 0 9 0
    let others (d : Dev) : Prop := d.mem = d0.mem ∧ d.ctrs = d0.ctrs ∧ d.dsp = d0.dsp ∧ (∀ g, d.thr g = d0.thr g) ∧
      (∀ y, y ≠ h.val → d.hth y = d0.hth y)
    let busy (d : Dev) : Bool := d.bit .hthKeyCmd h 0 8
    let kept (d : Dev) : Prop := d.hth h = x ∧ busy d = true ∧ ∀ i < 8, d.rd .hthKey h i = d0.rd .hthKey h i
    (Opens d0 r .hthKeyCmd h 0 → busy d0 = true →
      Reaches (.keyCommit r h) s kept ∧ Reaches (.keyErase r h) s kept) ∧
    (Opens d0 r .hthKeyCmd h 0 → busy d0 = false →
      Reaches (.keyCommit r h) s (fun d => others d ∧ busy d = true ∧ (∀ i < 8, d.rd .hthKey h i = 0) ∧
        d.hth h = { x with keys := x.keys.set none slot (some ⟨key, big⟩) }) ∧
      Reaches (.keyErase r h) s (fun d => others d ∧ busy d = true ∧
        d.hth h = { x with keys := x.keys.set none slot none })) ∧
    (Opens d0 r .hthPatCmd h 0 →
      Reaches (.patternCommit r h) s (fun d => others d ∧ d.hth h = { x with
        pats := x.pats.set none n (some ⟨d0.rd .hthPatCfg h, (List.range 8).map (fun i => d0.rd .hthPatData h i)⟩) }) ∧
      Reaches (.patternRead r h) s (fun d => others d ∧ d.hth h = x ∧
        d.rd .hthPatCfg h = ((x.pats.get none n).map Pattern.cfg).getD 0 ∧
        (∀ i < 8, d.rd .hthPatData h i = (((x.pats.get none n).map Pattern.data).getD []).getD i 0))) ∧
    (Opens d0 r .dspFlowCmd 0 0 → d0.dsp.flowClear = none →
      Reaches (.flowInval r) s (fun d => d = { d0 with
        regs := d.regs, dsp := { d0.dsp with flow := d0.dsp.flow.set 0 (d0.fld .dspFlowSel 0 0 15 0) 0 } }) ∧
      Reaches (.flowClrAll r) s (fun d => d.bit .dspFlowCmd 0 0 31 = true ∧ d = { d0 with
        regs := d.regs, dsp := { d0.dsp with flowClear := some none } }) ∧
      Reaches (.flowClrHearth r h) s (fun d => d.bit .dspFlowCmd 0 0 31 = true ∧ d = { d0 with
        regs := d.regs, dsp := { d0.dsp with flowClear := some (some h.val) } }))

/-- R343–R345: EN = 1 starts full training in DETECT; each state, when it has done its work, gives way to the next, CREDIT sending the
device's credits and ACTIVE clearing the count of failures; a state that fails or runs past its limit, which it no longer completes,
leads back to DETECT, and from RETRAIN the link goes down to DETECT with CHG set; RETRAIN and the card's request start a fast retrain of
an ACTIVE link, which is logged. (That a failed training starts again at DETECT, that the record shows LNK.STATUS after the change and
that CREDIT_INIT is queued on entering CREDIT are log entry 30, DEDUCED.) -/
def Obligations.LinkTraining : Prop :=
  ∀ (r : ReqArg) (maxw : BitVec 2) (lanes : BitVec 4) (x : Flit) (s : State),
    let d0 := s.dev
    let l := d0.lnk
    let st := d0.fld .lnkStatus 0 0 27 24
    let width := lnkWidth lanes (d0.fld .lnkCtrl 0 0 29 28)
    let enters (d : Dev) (x : Nat) : Prop := d.fld .lnkStatus 0 0 27 24 = x ∧ d.bit .lnkStatus 0 0 31 = decide (x = 6) ∧
      d.lnk.since = d0.time.tick ∧ d.mem = d0.mem ∧ d.eng = d0.eng
    let logged (d : Dev) : Prop := d.log = (d0.recorded 1 15 0x0B 0 (hi16 (d.rd .lnkStatus)) 0 0).log
    let limit := [0, 1000, 2000, 1000, 5000, 1000, 0, 100].getD st 0
    (Opens d0 r .lnkCtrl 0 0 →
      (d0.bit .topSetupLock 0 0 15 = false → d0.bit .lnkCtrl 0 0 31 = false → maxw.toNat < 3 → Reaches (.linkEnable r maxw) s (fun d =>
        enters d 1 ∧ d.lnk = { l with fails := 0, since := d0.time.tick } ∧ d.fld .lnkCtrl 0 0 29 28 = maxw.toNat)) ∧
      (st = 6 → d0.domOn domLink = true → LogClear d0 15 0 → d0.fld .lnkCtrl 0 0 29 28 < 3 → Reaches (.retrain r) s (fun d => enters d 7 ∧ logged d ∧
        d.lnk = { l with since := d0.time.tick })) ∧
      (st = 0 → d0.bit .lnkCtrl 0 0 31 = true → Reaches (.retrain r) s (fun d => enters d 1 ∧
        d.lnk = { l with fails := 0, since := d0.time.tick }))) ∧
    (st = 6 → d0.domOn domLink = true → InPlace d0 x 0 6 3 → flitLast x = true → flitNum x 0 1 = 3 → LogClear d0 15 0 →
      Reaches (.retrainReq x) s (fun d => enters d 7 ∧ logged d ∧ d.ctr .lnkFlitsRx = d0.ctr .lnkFlitsRx + 1 ∧
        d.lnk = { l with expect := (l.expect + 1) % 4096, nakSent := false, ackDue := true, since := d0.time.tick })) ∧
    (d0.domOn domLink = true → l.since + limit * 100 < d0.time.tick → Becomes (.trainingStateDone lanes) s d0) ∧
    (d0.domOn domLink = true → d0.time.tick ≤ l.since + limit * 100 →
      (st = 1 ∨ st = 2 ∧ width.isSome → Reaches (.trainingStateDone lanes) s (fun d => enters d (st + 1) ∧
        d.lnk = { l with since := d0.time.tick })) ∧
      (st = 3 ∧ width.isSome → Reaches (.trainingStateDone lanes) s (fun d => enters d 4 ∧
        d.lnk = { l with since := d0.time.tick } ∧ width = some (d.fld .lnkStatus 0 0 29 28))) ∧
      (st = 4 → Reaches (.trainingStateDone lanes) s (fun d => enters d 5 ∧ d.lnk = { l with
        since := d0.time.tick, waiting := [(.lctl 1 0 256, 3), (.lctl 1 1 64, 3), (.lctl 1 2 512, 3)] ++ l.waiting })) ∧
      (st = 5 → Reaches (.trainingStateDone lanes) s (fun d => enters d 6 ∧ d.lnk.fails = 0)) ∧
      (st = 7 ∧ width.isSome → Reaches (.trainingStateDone lanes) s (fun d => enters d 6 ∧ d.lnk.fails = l.fails ∧
        width = some (d.fld .lnkStatus 0 0 29 28))) ∧
      (st = 2 ∨ st = 3 → width = none → l.fails < 2 → Reaches (.trainingStateDone lanes) s (fun d => enters d 1 ∧
        d.lnk.fails = l.fails + 1 ∧ d.lnk.replay = [] ∧ d.lnk.nextSeq = 0))) ∧
    (d0.domOn domLink = true →
      (l.since + limit * 100 ≤ d0.time.tick →
        (0 < st → st < 6 → l.fails < 2 → Reaches .trainingTimeout s (fun d => enters d 1 ∧ d.lnk.fails = l.fails + 1 ∧
          d.lnk.replay = [] ∧ d.lnk.nextSeq = 0)) ∧
        (0 < st → st < 6 → 2 ≤ l.fails → d0.cplPending = [] → l.reads = Map.empty → EventOff d0 161 → LogClear d0 15 0 → Reaches .trainingTimeout s (fun d =>
          enters d 0 ∧ d.bit .lnkStatus 0 0 30 = true ∧ d.lnk.replay = [] ∧
          d.log = (d0.recorded 2 15 0x0C 0 (hi16 (d.rd .lnkStatus)) 0 0).log)) ∧
        (st = 7 → d0.cplPending = [] → l.reads = Map.empty → EventOff d0 161 → Reaches .trainingTimeout s (fun d => enters d 1 ∧
          d.bit .lnkStatus 0 0 30 = true ∧ d.lnk.replay = [] ∧ d.lnk.nextSeq = 0))))

/-- R346–R348, R350 and R351: every flit that the device forms has a good CRC-32C over its first 352 bits, and its fields say what it
was formed of: its TYPE and CT, its sequence number with SV (none for a NOP), ACK with AV and NAK, and the returned credits. (The order
of a flit's bits and the NOP's L are log entry 54, DESIGN CHOICE.) R351–R353: a tick of a link whose flits flow sends what is to be
resent and then what waits, while credits and the replay buffer allow; the first of its flits carries the acknowledgement or NAK of E −
1 that is owed; with nothing else to send, what is owed goes out in a NOP. (The record of the flits sent is the model's own, log entry
54; that credits are returned in the flits sent log entry 30, DEDUCED.) R350–R355, R368 and R369: a flit in its place moves E on, is
counted and is to be acknowledged; CREDIT_INIT and CREDIT_RESET set the credits of a type; an acknowledgement frees the kept flits up to
its number, and a NAK has the rest resent; a flit with a bad CRC is counted, owed one NAK and not accepted; the replay buffer is to be
resent once its oldest flit has waited too long, in one pass whatever asks for it (R370); interrupts go out as MSI flits, at once or
when their vector's limit is reached. -/
def Obligations.LinkFlitsAreExchanged : Prop :=
  (∀ (f : TxFlit) (ack : Option (Fin 4096)) (nak : Bool) (typ : Fin 4) (count : Fin 16384),
      let a := ack.map Fin.val
      let tells (x : Flit) (type ct : Nat) : Prop := flitGood x = true ∧ flitType x = type ∧ flitCt x = ct ∧ flitRetType x = typ ∧
        flitRetCount x = count ∧ flitAck x = a.getD 0 ∧ flitAv x = a.isSome ∧ flitNak x = nak ∧ flitRsv x = 0
      (f.ct < 4 → f.seq < 4096 → f.body.fields.2.2.2.1 < 256 → f.body.fields.2.2.2.2 < 2 ^ 288 →
        let x := laneFlit (some f) a nak (typ, count)
        tells x f.body.fields.1 f.ct ∧ flitSv x = true ∧ flitSeq x = f.seq ∧ flitW x = f.body.fields.2.1 ∧
          flitLast x = f.body.fields.2.2.1 ∧ flitTag x = f.body.fields.2.2.2.1 ∧ flitBits x 32 288 = f.body.fields.2.2.2.2) ∧
      (let x := laneFlit none a nak (typ, count)
       tells x 0 3 ∧ flitSv x = false)) ∧
  (∀ (b : FlitBody) (ct : Fin 3) (rest : List (FlitBody × Nat)) (d : Dev),
      let l := d.lnk
      let owed := if l.ackDue ∨ l.nakDue then some ((l.expect + 4095) % 4096) else none
      let sent : TxFlit := ⟨l.nextSeq, b, ct, d.time.tick, 0⟩
      (d.lnkFlows = true → l.again = false → l.waiting = [] → l.rxSpent = Map.empty → l.ackDue = true ∨ l.nakDue = true → l.sinceNop < 1024 →
        d.lnkTick = { d with lnk := { l with
          laneOut := [laneFlit none owed l.nakDue (3, 0)], ackDue := false, nakDue := false, sinceNop := 0 } }) ∧
      (d.linkUp = true → l.again = false → l.waiting = [(b, ct.val)] → 0 < l.txCredit.get 0 ct → l.replay.length < 512 → l.sinceNop < 1023 →
        l.rxSpent = Map.empty →
        d.lnkTick = { d.count .lnkFlitsTx with lnk := { l with
          waiting := [], replay := l.replay ++ [sent], nextSeq := (l.nextSeq + 1) % 4096,
          txCredit := l.txCredit.set 0 ct (l.txCredit.get 0 ct - 1), laneOut := [laneFlit (some sent) owed l.nakDue (3, 0)],
          ackDue := false, nakDue := false, sinceNop := l.sinceNop + 1 } }) ∧
      (d.linkUp = true → l.again = false → l.waiting = (b, ct.val) :: rest → l.txCredit.get 0 ct = 0 →
        d.lnkTick.lnk.waiting = l.waiting ∧ d.lnkTick.lnk.replay = l.replay)) ∧
  (∀ (r : ReqArg) (f : Flit) (v : W8) (pre rest : List TxFlit) (x : TxFlit) (s : State),
      let d0 := s.dev
      let l := d0.lnk
      let moved : LnkSt := { l with expect := (l.expect + 1) % 4096, nakSent := false, ackDue := true }
      let taken (d : Dev) (y : LnkSt) : Prop := d = { d0 with ctrs := d.ctrs, lnk := y } ∧
        d.ctr .lnkFlitsRx = d0.ctr .lnkFlitsRx + 1
      let window := d0.time.tick / 100000
      let violations := (if l.violWin = window then l.viol else 0) + 1
      let vec := l.vecs.get ⟨0, 0⟩ v.toNat
      (d0.linkUp = true →
        (InPlace d0 f 0 6 3 → flitLast f = true → flitNum f 1 1 < 3 →
          (flitNum f 0 1 = 1 → Reaches (.creditInit f) s (fun d =>
            taken d { moved with txCredit := l.txCredit.set 0 (flitNum f 1 1) (flitNum f 2 2) })) ∧
          (flitNum f 0 1 = 2 → Reaches (.creditReset f) s (fun d =>
            taken d { moved with txCredit := l.txCredit.set 0 (flitNum f 1 1) 0 }))) ∧
        (flitGood f = true → flitType f = 0 → flitCt f = 3 → flitRsv f = 0 → flitAv f = true → flitRetType f ≠ 3 →
          l.replay = pre ++ x :: rest → x.seq = flitAck f → (∀ y ∈ pre, y.seq ≠ flitAck f) →
          (flitNak f = false → Becomes (.nopFlit f) s { d0 with lnk := { l with
            replay := rest, txCredit := l.txCredit.upd 0 (flitRetType f) (· + flitRetCount f) } }) ∧
          (flitNak f = true → l.again = true → Becomes (.nopFlit f) s { d0 with lnk := { l with
            replay := rest, txCredit := l.txCredit.upd 0 (flitRetType f) (· + flitRetCount f) } }) ∧
          (flitNak f = true → l.again = false → rest ≠ [] → (∀ y ∈ rest, y.passes < 3) → (d0.ctr .lnkReplays).toNat < 0xFFFFFFFE →
            Reaches (.nopFlit f) s (fun d => d.ctr .lnkReplays = d0.ctr .lnkReplays + 1 ∧ d = { d0 with ctrs := d.ctrs, lnk := { l with
              replay := rest.map (fun y => { y with since := d0.time.tick, passes := y.passes + 1 }), again := true,
              txCredit := l.txCredit.upd 0 (flitRetType f) (· + flitRetCount f) } }))) ∧
        (flitGood f = false → violations ≤ d0.fld .lnkCtrl 0 0 7 0 → (d0.ctr .lnkCrcErr).toNat < 0xFFFFFFFE →
          Reaches (.badCrcFlit f) s (fun d => d.ctr .lnkCrcErr = d0.ctr .lnkCrcErr + 1 ∧ d = { d0 with
            ctrs := d.ctrs, lnk := { l with
              nakSent := true, nakDue := l.nakDue || !l.nakSent, viol := violations, violWin := window } })) ∧
        (l.again = true → Becomes .replayTimeout s d0) ∧
        (l.replay = x :: rest → l.again = false → x.since + d0.fld .lnkTimers 0 0 31 24 * 10 ≤ d0.time.tick → x.passes < 3 →
          (d0.ctr .lnkReplays).toNat < 0xFFFFFFFE → Reaches .replayTimeout s (fun d =>
            d.ctr .lnkReplays = d0.ctr .lnkReplays + 1 ∧ d = { d0 with ctrs := d.ctrs, lnk := { l with
              replay := (x :: rest).map (fun y => { y with since := d0.time.tick, passes := y.passes + 1 }), again := true } }))) ∧
      (Opens d0 r .lnkMsiSend 0 0 → Reaches (.msiSend r v) s (fun d => d = { d0 with
        regs := d.regs, lnk := { l with waiting := l.waiting ++ [(.msi v.toNat, 0)] } })) ∧
      (0 < vec.pending → d0.fld .lnkVec v.toNat 0 7 0 ≤ vec.pending ∨ vec.since + d0.fld .lnkVec v.toNat 0 25 16 * 100 ≤ d0.time.tick →
        Becomes (.msiModerationSend v) s { d0 with lnk := { l with
          vecs := l.vecs.set ⟨0, 0⟩ v.toNat ⟨0, 0⟩, waiting := l.waiting ++ [(.msi v.toNat, 0)] } }))

/-- R354 and R356: the host's writes and reads of BAR0 are set-up accesses, and anything else there is counted and a read answered UR; a
completion gives the load that waits for its tag its word, and a read that no completion answers in time fails: its thread's load faults
with BUS, subcode 5. -/
def Obligations.HostAccesses : Prop :=
  ∀ (f x : Flit) (tag : W8) (g : Thr) (a : Reg) (p : PairN) (pa since : Nat) (addr : W64) (s : State),
    let d0 := s.dev
    let l := d0.lnk
    let t := d0.thr g
    let at_ := flitNum f 0 8
    let len := flitNum f 8 2
    let good := len = 4 ∧ at_ % 4 = 0 ∧ at_ < 0x1000000
    let bar := (d0.ctr .lnkBarErr).toNat < 0xFFFFFFFE
    -- the device after `n` flits of credit type `ct` in their places
    let took (n ct : Nat) : Dev := { (if n = 1 then d0.count .lnkFlitsRx else (d0.count .lnkFlitsRx).count .lnkFlitsRx) with
      lnk := { l with expect := (l.expect + n) % 4096, nakSent := false, ackDue := true,
                      rxSpent := l.rxSpent.set 0 ct (l.rxSpent.get 0 ct + n) } }
    let counted (d c : Dev) : Prop := d = { c with ctrs := d.ctrs } ∧ d.ctr .lnkBarErr = d0.ctr .lnkBarErr + 1
    -- a DATA flit with all the data of its header
    let whole (ct : Nat) (need : Nat) : Prop := InPlace d0 x 1 4 ct ∧ flitLast x = true ∧ 0 < need ∧
      need ≤ (if flitW x then 32 else 36) ∧ ∀ w ∈ flitWords x, w.isRef = false
    let w (k : Nat) : Word := (flitWords x).getD k Word.zero
    let swap (y : W16) : W16 := (y.truncate 8 : W8) ++ ((y >>> (8 : Nat)).truncate 8 : W8)
    let value := ((took 1 1).setupRead .host at_).1
    let open_ := l.reads.get none tag.toNat = some ⟨.thread g, addr, 2, since⟩
    (d0.linkUp = true →
      (InPlace d0 f 0 1 0 → flitLast f = false → whole 0 len → l.rxSpent.get 0 0 + 2 ≤ 256 →
        (good → (w 0).tag = .plain → (w 1).tag = .plain → Becomes (.cardMwr [f, x]) s
          ((took 2 0).setupWrite .host at_ (swap (w 1).v ++ swap (w 0).v))) ∧
        (¬ good → bar → Reaches (.cardMwr [f, x]) s (fun d => counted d (took 2 0)))) ∧
      (InPlace d0 f 0 2 1 → flitLast f = true → l.rxSpent.get 0 1 + 1 ≤ 64 →
        (good → Reaches (.cardMrd f) s (fun d => d.mem = ((took 1 1).setupRead .host at_).2.mem ∧
          d.lnk.waiting = l.waiting ++ [(.cpl 0 4 (flitTag f), 2),
            (.data false true [Word.plain (swap (lo16 value)), Word.plain (swap (hi16 value))], 2)])) ∧
        (¬ good → bar → Reaches (.cardMrd f) s (fun d =>
          counted d { took 1 1 with lnk := { (took 1 1).lnk with waiting := l.waiting ++ [(.cpl 1 0 (flitTag f), 2)] } }))) ∧
      (InPlace d0 f 0 3 2 → flitLast f = false → flitNum f 0 1 = 0 → flitNum f 1 2 = 2 → flitTag f = tag.toNat → whole 2 2 → open_ →
        WaitsFor d0 g (.host (.ld g [] a p false) tag.toNat pa []) → l.rxSpent.get 0 2 + 2 ≤ 512 →
        (d0.ctr .lnkPoisonRx).toNat < 0xFFFFFFFE → Reaches (.hostCpl [f, x]) s (fun d => d.mem = d0.mem ∧
          d.lnk.reads.get none tag.toNat = none ∧ d.thr g = { t.set a (w 0) with
            st := .ready, cause := 0, wait := .none, pc := t.pc + BitVec.ofNat 15 t.ulen }))) ∧
    (d0.domOn domLink = true →
      (open_ → since + d0.fld .lnkTimers 0 0 15 0 * 100 ≤ d0.time.tick → (d0.ctr .lnkCplTmo).toNat < 0xFFFFFFFE →
        WaitsFor d0 g (.host (.ld g [] a p false) tag.toNat pa []) → t.ulen = 1 → g.val % 128 ≠ 0 →
        (d0.thr (hearthOf g * 128)).st ≠ .off → Reaches (.cplTimeout tag) s (fun d =>
          d.ctr .lnkCplTmo = d0.ctr .lnkCplTmo + 1 ∧ d.mem = d0.mem ∧ d.lnk = { l with reads := l.reads.set none tag.toNat none } ∧
          (d.thr g).st = .held ∧ (d.thr g).w = t.w ∧ (d.thr g).pc = t.pc ∧
          ∃ z, (d.hth (hearthOf g)).repq.getLast? = some z ∧ z.src = g ∧ (z.words.getD 1 0).toNat / 256 = 0x65)))

/-- R359, R360 and R367: EN = 1 starts a ring at slot 0 in phase 1 with no error; EN = 0 gives up the descriptors not started; a good
doorbell moves PROD and fetches descriptors up to it, one to a ring that is not enabled is counted, and a bad index stops the ring. -/
def Obligations.RingControl : Prop :=
  ∀ (r : ReqArg) (n : Fin 1024) (v : W32) (s : State),
    let d0 := s.dev
    let l := d0.lnk
    let x := d0.ring n
    let slots := 2 ^ d0.fld .lnkRingCfg n 0 27 23
    let prod := d0.fld .lnkRingIdx n 0 31 16
    let cons := d0.fld .lnkRingIdx n 0 15 0
    let i := bits v 25 10
    let on := d0.bit .lnkRingCfg n 0 31
    (Opens d0 r .lnkRingCfg n 0 → x.xfer = none →
      (on = false → 1 ≤ bits v 30 28 → bits v 30 28 ≤ 4 → 6 ≤ bits v 27 23 → bits v 27 23 ≤ 16 → Reaches (.ringEnable r n v) s (fun d =>
        d.bit .lnkRingCfg n 0 31 = true ∧ d.fld .lnkRingCfg n 0 30 28 = bits v 30 28 ∧ d.fld .lnkRingCfg n 0 27 23 = bits v 27 23 ∧
        d.rd .lnkRingIdx n = 0 ∧ d.bit .lnkRingStat n 0 31 = false ∧ d = { d0 with
          regs := d.regs, lnk := { l with rings := l.rings.set Ring.init n ⟨true, [], x.dbLogged, [], none, none⟩ } })) ∧
      (on = true → x.rxq = [] → Reaches (.ringDisable r n) s (fun d => d.bit .lnkRingCfg n 0 31 = false ∧
        d.ring n = { x with fetched := [] } ∧ d.rd .lnkRingIdx n = d0.rd .lnkRingIdx n ∧ d.mem = d0.mem ∧ d.ctrs = d0.ctrs))) ∧
    (Opens d0 r .lnkDoorbell 0 0 → bits v 31 26 = 0 →
      (on = false → x.dbLogged = true → (d0.ctr .lnkDbErr).toNat < 0xFFFFFFFE → Reaches (.doorbell r n v) s (fun d =>
        d.ctr .lnkDbErr = d0.ctr .lnkDbErr + 1 ∧ d = { d0 with regs := d.regs, ctrs := d.ctrs })) ∧
      (on = true → d0.bit .lnkRingStat n 0 31 = false → i < slots → cons < slots → prod < slots →
        (prod + slots - cons) % slots ≤ (i + slots - cons) % slots →
        (d0.fld .lnkRingCfg n 0 30 28 = 4 → Reaches (.doorbell r n v) s (fun d => d.fld .lnkRingIdx n 0 31 16 = i ∧
          d.fld .lnkRingIdx n 0 15 0 = cons ∧ d.lnk = l ∧ d.ctrs = d0.ctrs)) ∧
        (d0.fld .lnkRingCfg n 0 30 28 ≠ 4 → d0.linkUp = true → l.reads = Map.empty →
          x.fetched.length ≤ min 8 ((i + slots - cons) % slots) → Reaches (.doorbell r n v) s (fun d =>
            d.fld .lnkRingIdx n 0 31 16 = i ∧ d.fld .lnkRingIdx n 0 15 0 = cons ∧ d.ctrs = d0.ctrs ∧ d.ring n = { x with
              fetched := x.fetched ++ List.replicate (min 8 ((i + slots - cons) % slots) - x.fetched.length) none }))) ∧
      (on = true → d0.bit .lnkRingStat n 0 31 = false → slots ≤ i → (d0.ctr .lnkDbErr).toNat < 0xFFFFFFFE → l.evtq.length < 16 →
        EventOff d0 162 → Reaches (.doorbell r n v) s (fun d => d.bit .lnkRingStat n 0 31 = true ∧
          d.fld .lnkRingStat n 0 23 16 = 0x0A ∧ d.fld .lnkRingIdx n 0 31 16 = prod ∧ d.ctr .lnkDbErr = d0.ctr .lnkDbErr + 1 ∧
          (d.lnk.evtq.getLastD []).take 3 = [0x4000, BitVec.ofNat 16 n, 0x0A])))

/-- R359–R364: the descriptor at CONS of a TX ring that passes its checks, and that of an RX ring with a frame queued, starts a transfer
on the ring's bellows channel, which carries it as one COPY element between the frame's buffer and the host window; a descriptor of
another OP is completed with status 1 and CONS moves on. (That the channel carries a transfer as one COPY element is log entry 54,
DEDUCED.) R362–R364 and R367: a transfer of a ring that has moved its bytes is completed with status 0 and its frame handed to its mill,
in its turn, or its buffer freed; one that failed, or whose bellows descriptor ended with an error, is completed with HOST_ERR or POISON
and counted in DROPS. (That a completion which is not OK counts in DROPS is log entry 31, DEDUCED.) R365 and R366: a record of a POST
ring becomes a task or is refused, with its completion; the oldest host event entry is written to the host event ring with the time, and
completed. -/
def Obligations.RingTransfers : Prop :=
  (∀ (n : Fin 1024) (ws : List Word) (rest : List (Option (List Word))) (f : RxFrame) (q : List RxFrame) (pool len host : Nat) (s : State),
      let d0 := s.dev
      let l := d0.lnk
      let x := d0.ring n
      let cons := d0.fld .lnkRingIdx n 0 15 0
      let prod := d0.fld .lnkRingIdx n 0 31 16
      let slots := 2 ^ d0.fld .lnkRingCfg n 0 27 23
      let next := (cons + 1) % slots
      let swap (y : W16) : W16 := (y.truncate 8 : W8) ++ ((y >>> (8 : Nat)).truncate 8 : W8)
      let le (y : W32) : List Word := [Word.plain (swap (y.truncate 16)), Word.plain (swap ((y >>> (16 : Nat)).truncate 16))]
      let field (k : Nat) : W32 := swap (ws.getD (2 * k + 1) Word.zero).v ++ swap (ws.getD (2 * k) Word.zero).v
      let addr : W64 := field 3 ++ field 2
      let size := bits (field 0) 14 0
      let now := d0.time.ns.truncate 32
      let slotAt := BitVec.ofNat 64 ((d0.rd .lnkRingCplHi n).toNat * 2 ^ 32 + (d0.rd .lnkRingCplLo n).toNat + cons * 16)
      let entry (st low : Nat) (c1 c2 c3 : W32) : List (FlitBody × Nat) := [(.mwr slotAt 16, 0),
        (.data false true (le (BitVec.ofNat 32 ((if x.phase then 2 ^ 31 else 0) + st * 65536 + low)) ++ le c1 ++ le c2 ++ le c3), 0)]
      let moved (d : Dev) (drop : Nat) : Prop := d.fld .lnkRingIdx n 0 15 0 = next ∧ d.fld .lnkRingIdx n 0 31 16 = prod ∧
        d.fld .lnkRingStat n 0 15 0 = min (d0.fld .lnkRingStat n 0 15 0 + drop) 0xFFFF
      let ring' : Ring := { x with phase := if next = 0 then !x.phase else x.phase, fetched := rest }
      let runs (k : Nat) : Prop := d0.linkUp = true ∧ d0.bit .lnkRingCfg n 0 31 = true ∧ d0.fld .lnkRingCfg n 0 30 28 = k ∧
        d0.bit .lnkRingStat n 0 31 = false ∧ d0.bit .lnkRingCfg n 0 22 = false ∧ prod = (cons + x.fetched.length) % slots ∧
        x.fetched.length ≤ 8 ∧ 8 < slots ∧ cons < slots ∧ x.fetched = some ws :: rest ∧ x.stopDue = none
      let chan := d0.fld .lnkRingCfg n 0 21 16
      let c := d0.bch chan
      let places := 2 ^ d0.fld .blwCfg chan 0 31 28
      let tail := d0.fld .blwTail chan 0 15 0 % places
      let slot := d0.fld .blwRingHi chan 0 3 0 * 2 ^ 32 + (d0.rd .blwRingLo chan).toNat / 32 * 32 + tail * 32
      let free := d0.bit .blwCfg chan 0 3 = true ∧ d0.bit .blwCtrl 0 0 0 = true ∧ (d0.blwState chan = 1 ∨ d0.blwState chan = 2) ∧
        c.desc = none ∧ c.pausing = 0 ∧ d0.fld .blwHead chan 0 15 0 % places = tail ∧ InGranary d0 slot 32
      let half (a : Nat) : List Word := [a / 2 ^ 32, a / 65536, a].map (fun k => Word.plain (BitVec.ofNat 16 k))
      let feeds (d : Dev) (src dst k : Nat) (t : RingXfer) : Prop :=
        let desc := (d.bch chan).desc.getD []
        desc.take 2 = [0x1000, 1] ∧ desc.length = 5 ∧ (∀ k < 5, d.mem.word (slot / 2 + k) = Word.plain (desc.getD k 0)) ∧
        (∀ wa, wa < slot / 2 ∨ slot / 2 + 5 ≤ wa → d.mem.word wa = d0.mem.word wa) ∧
        d.fld .lnkRingIdx n 0 15 0 = cons ∧ d.blwState chan = 2 ∧ d.fld .blwTail chan 0 15 0 = (tail + 1) % places ∧
        d.fld .blwHead chan 0 15 0 = d0.fld .blwHead chan 0 15 0 ∧
        d.bch chan = { BlwCh.init with desc := some desc, nextAt := c.nextAt, feed := some n,
                                       item := some (half src ++ half dst ++ [BitVec.ofNat 16 (k / 65536), BitVec.ofNat 16 k].map Word.plain) } ∧
        d.lnk = { l with rings := l.rings.set Ring.init n { x with xfer := some t } }
      let valid (op lo hi : Nat) : Prop := (∀ w ∈ ws, w.tag = .plain) ∧ bits (field 0) 31 28 = op ∧ bits (field 0) 26 15 = 0 ∧
        bits (field 1) 31 16 = 0 ∧ (op = 1 ∨ field 1 = 0) ∧ (∀ k < 4, field (k + 4) = 0) ∧ d0.windowAddr addr size = some host ∧
        lo ≤ size ∧ size ≤ hi
      (runs 1 → x.xfer = none →
        (valid 1 14 16368 → FirstFit d0 size pool → PoolHas d0 pool → free → Reaches (.txDescriptor n) s (fun d =>
          ∃ i < d0.poolCount pool, (d0.buf pool i).alloc = false ∧ (d.buf pool i).alloc = true ∧
            feeds d host (d0.bufAddr pool i + 16 + d0.poolPad pool) size ⟨pool, i, (d0.buf pool i).gen, size, false, none⟩)) ∧
        (bits (field 0) 31 28 ≠ 1 → bits (field 0) 27 27 = 0 → Reaches (.txDescriptor n) s (fun d => moved d 1 ∧
          d.mem = d0.mem ∧ d.lnk = { l with
            waiting := l.waiting ++ entry 1 size 0 0 now, rings := l.rings.set Ring.init n ring' }))) ∧
      (runs 2 → x.xfer = none → x.rxq = f :: q → valid 2 64 16384 → free → d0.bufWaits f.pool f.idx = false → (d0.head f.pool f.idx).1 = some (len, 16) → d0.mem.ecc = Map.empty →
        Reaches (.rxRingDeliver n) s (fun d => feeds d (d0.bufAddr f.pool f.idx + 16) host (min len size) ⟨f.pool, f.idx, f.gen, len, false, none⟩))) ∧
  (∀ (n : Fin 1024) (ws : List Word) (rest : List (Option (List Word))) (f : RxFrame) (q : List RxFrame) (t : RingXfer) (s : State),
      let d0 := s.dev
      let l := d0.lnk
      let x := d0.ring n
      let cons := d0.fld .lnkRingIdx n 0 15 0
      let prod := d0.fld .lnkRingIdx n 0 31 16
      let slots := 2 ^ d0.fld .lnkRingCfg n 0 27 23
      let next := (cons + 1) % slots
      let swap (y : W16) : W16 := (y.truncate 8 : W8) ++ ((y >>> (8 : Nat)).truncate 8 : W8)
      let le (y : W32) : List Word := [Word.plain (swap (y.truncate 16)), Word.plain (swap ((y >>> (16 : Nat)).truncate 16))]
      let field (k : Nat) : W32 := swap (ws.getD (2 * k + 1) Word.zero).v ++ swap (ws.getD (2 * k) Word.zero).v
      let now := d0.time.ns.truncate 32
      let slotAt := BitVec.ofNat 64 ((d0.rd .lnkRingCplHi n).toNat * 2 ^ 32 + (d0.rd .lnkRingCplLo n).toNat + cons * 16)
      let entry (st low : Nat) (c1 c2 c3 : W32) : List (FlitBody × Nat) := [(.mwr slotAt 16, 0),
        (.data false true (le (BitVec.ofNat 32 ((if x.phase then 2 ^ 31 else 0) + st * 65536 + low)) ++ le c1 ++ le c2 ++ le c3), 0)]
      let moved (d : Dev) (drop : Nat) : Prop := d.fld .lnkRingIdx n 0 15 0 = next ∧ d.fld .lnkRingIdx n 0 31 16 = prod ∧
        d.fld .lnkRingStat n 0 15 0 = min (d0.fld .lnkRingStat n 0 15 0 + drop) 0xFFFF
      let ring' : Ring := { x with phase := if next = 0 then !x.phase else x.phase, fetched := rest }
      let runs (k : Nat) : Prop := d0.linkUp = true ∧ d0.bit .lnkRingCfg n 0 31 = true ∧ d0.fld .lnkRingCfg n 0 30 28 = k ∧
        d0.bit .lnkRingStat n 0 31 = false ∧ d0.bit .lnkRingCfg n 0 22 = false ∧ prod = (cons + x.fetched.length) % slots ∧
        x.fetched.length ≤ 8 ∧ 8 < slots ∧ cons < slots ∧ x.fetched = some ws :: rest ∧ x.stopDue = none
      let chan := d0.fld .lnkRingCfg n 0 21 16
      let c := d0.bch chan
      let v := d0.fld .lnkRingAux n 0 21 16
      let data := d0.bufAddr t.pool t.idx + 16 + d0.poolPad t.pool
      let places := 2 ^ d0.fld .blwCfg chan 0 31 28
      let head := d0.fld .blwHead chan 0 15 0 % places
      let slot := d0.fld .blwRingHi chan 0 3 0 * 2 ^ 32 + (d0.rd .blwRingLo chan).toNat / 32 * 32 + head * 32
      let base := d0.bufAddr t.pool t.idx
      let bad : Option Nat := if t.failed then some 6 else match t.done with | some 0 => none | some 6 => some 7 | some _ => some 6 | none => none
      -- the bellows has told of the descriptor's end, or has nothing more to move for it
      let settled := t.failed = false ∧ t.done = some 0 ∧ c.feed ≠ some n.val
      let carried := t.failed = false ∧ t.done = none ∧ c.feed = some n.val ∧ c.desc.isSome ∧ c.bursts = [] ∧ c.pausing = 0 ∧
        c.ending = none ∧ c.count ≤ c.elem ∧ c.flag 10 = false ∧ d0.blwState chan = 2 ∧ InGranary d0 slot 32 ∧
        (slot + 32 ≤ base ∨ base + 16 + d0.poolPad t.pool + t.len ≤ slot)
      let tells (d : Dev) : Prop := (d.mem.word (slot / 2 + 12)).v = 0x8000 ∧ d.fld .blwHead chan 0 15 0 = (head + 1) % places ∧
        d.ctr .blwDescs = d0.ctr .blwDescs + 1 ∧ d.fld .blwStat chan 0 7 0 = 0
      let buffer (a m : Nat) : Prop := InGranary d0 a m ∧ a % 2 = 0 ∧ m % 2 = 0 ∧ d0.mem.ecc = Map.empty ∧
        ∀ k < m / 2, (d0.mem.word (a / 2 + k)).tag = .plain
      let h (k : Nat) : W16 := (d0.mem.word (d0.bufAddr t.pool t.idx / 2 + k)).v
      let done (d : Dev) (r' : Ring) (st : Nat) (c1 c2 c3 : W32) : Prop := (d.bch chan).feed ≠ some n.val ∧ d.lnk = { l with
        reads := d.lnk.reads, turn := d.lnk.turn, waiting := l.waiting ++ entry st t.len c1 c2 c3, rings := l.rings.set Ring.init n r' }
      (x.xfer = some t → bits (field 0) 27 27 = 0 →
        (runs 1 → bad.isSome → (c.feed = some n.val → c.bursts ≠ []) → t.gen ≠ (d0.buf t.pool t.idx).gen → Reaches (.txDescriptor n) s (fun d => moved d 1 ∧
          d.mem = d0.mem ∧ done d { ring' with xfer := none } (bad.getD 0) 0 0 now)) ∧
        (runs 1 → (settled ∧ d0.vportTurn v = some n.val) ∨ (carried ∧ ∀ m, m ≠ n.val → (d0.ring m).xfer = none) → buffer data t.len → d0.bit .lnkVport v 0 31 = true → d0.poolPad t.pool % 2 = 0 →
          InGranary d0 (d0.bufAddr t.pool t.idx) 16 → Reaches (.txDescriptor n) s (fun d => moved d 0 ∧
            d.mem.bytes data t.len = d0.mem.bytes data t.len ∧
            d.mem.word (d0.bufAddr t.pool t.idx / 2) = Word.plain (BitVec.ofNat 16 t.len) ∧
            d.mem.word (d0.bufAddr t.pool t.idx / 2 + 2) = Word.plain (BitVec.ofNat 16 (64 + v)) ∧
            d.lnk.turn = l.turn.set 0 v ((n + 1) % 1024) ∧
            (∃ z, (d.prt.rxq.get [] (64 + v)).getLast? = some z ∧ z.bytes = (d0.mem.bytes data t.len).map (·, false) ∧
              z.meta4 = BitVec.ofNat 16 n ∧ z.meta5 = (field 1).truncate 16 ∧ z.buf = some (t.pool, t.idx, t.gen)) ∧ (carried → tells d) ∧
            done d { ring' with xfer := none } 0 0 0 now)) ∧
        (runs 2 → x.rxq = f :: q → settled ∨ carried → t.len ≤ bits (field 0) 14 0 → buffer (d0.bufAddr t.pool t.idx) 16 →
          t.gen = (d0.buf t.pool t.idx).gen → Reaches (.rxRingDeliver n) s (fun d => moved d 0 ∧
            (settled → d.mem = d0.mem) ∧ (carried → (∀ wa, wa < slot / 2 + 12 ∨ slot / 2 + 16 ≤ wa → d.mem.word wa = d0.mem.word wa) ∧ tells d) ∧
            (d.buf t.pool t.idx).gen = (t.gen + 1) % 4096 ∧
            done d { ring' with xfer := none, rxq := q } 0 (BitVec.ofNat 32 ((h 2).toNat % 256)) (h 6 ++ h 7) (h 4 ++ h 5))))) ∧
  (∀ (n : Fin 1024) (ws : List Word) (rest : List (Option (List Word))) (reason : Nat) (e8 : List W16) (eq : List (List W16)) (s : State),
      let d0 := s.dev
      let l := d0.lnk
      let x := d0.ring n
      let cons := d0.fld .lnkRingIdx n 0 15 0
      let prod := d0.fld .lnkRingIdx n 0 31 16
      let slots := 2 ^ d0.fld .lnkRingCfg n 0 27 23
      let next := (cons + 1) % slots
      let swap (y : W16) : W16 := (y.truncate 8 : W8) ++ ((y >>> (8 : Nat)).truncate 8 : W8)
      let le (y : W32) : List Word := [Word.plain (swap (y.truncate 16)), Word.plain (swap ((y >>> (16 : Nat)).truncate 16))]
      let now := d0.time.ns.truncate 32
      let slotAt := BitVec.ofNat 64 ((d0.rd .lnkRingCplHi n).toNat * 2 ^ 32 + (d0.rd .lnkRingCplLo n).toNat + cons * 16)
      let entry (st low : Nat) (c1 c2 c3 : W32) : List (FlitBody × Nat) := [(.mwr slotAt 16, 0),
        (.data false true (le (BitVec.ofNat 32 ((if x.phase then 2 ^ 31 else 0) + st * 65536 + low)) ++ le c1 ++ le c2 ++ le c3), 0)]
      let moved (d : Dev) (drop : Nat) : Prop := d.fld .lnkRingIdx n 0 15 0 = next ∧ d.fld .lnkRingIdx n 0 31 16 = prod ∧
        d.fld .lnkRingStat n 0 15 0 = min (d0.fld .lnkRingStat n 0 15 0 + drop) 0xFFFF
      let ring' : Ring := { x with phase := if next = 0 then !x.phase else x.phase, fetched := rest }
      let runs (k : Nat) : Prop := d0.linkUp = true ∧ d0.bit .lnkRingCfg n 0 31 = true ∧ d0.fld .lnkRingCfg n 0 30 28 = k ∧
        d0.bit .lnkRingStat n 0 31 = false ∧ d0.bit .lnkRingCfg n 0 22 = false ∧ prod = (cons + x.fetched.length) % slots ∧
        x.fetched.length ≤ 8 ∧ 8 < slots ∧ cons < slots ∧ x.fetched = some ws :: rest ∧ x.stopDue = none
      let vec := d0.fld .lnkRingCfg n 0 15 8
      (runs 3 →
        (d0.postRefusal ws none = none → d0.dsp.tasks = Map.empty → Reaches (.postDescriptor n) s (fun d => moved d 0 ∧
          ∃ slot k, d.task slot = some k ∧ k.words = ws ∧ d.lnk = { l with
            waiting := l.waiting ++ entry 0 32 (BitVec.ofNat 32 slot) (BitVec.ofNat 32 (d.slotGen slot % 4096)) now,
            rings := l.rings.set Ring.init n ring' })) ∧
        (d0.postRefusal ws none = some reason → (d0.ctr .dspPostRefused).toNat < 0xFFFFFFFE → Reaches (.postDescriptor n) s (fun d =>
          moved d 1 ∧ d.dsp = d0.dsp ∧ d.lnk = { l with
            waiting := l.waiting ++ entry 5 32 (BitVec.ofNat 32 reason) 0 now, rings := l.rings.set Ring.init n ring' }))) ∧
      (n.val = d0.fld .lnkCtrl 0 0 25 16 → d0.bit .lnkCtrl 0 0 15 = true → d0.linkUp = true → d0.bit .lnkRingCfg n 0 31 = true →
        d0.fld .lnkRingCfg n 0 30 28 = 4 → d0.bit .lnkRingStat n 0 31 = false → cons ≠ prod → x.fetched = [] → x.stopDue = none →
        l.evtLost = 0 → l.evtq = e8 :: eq → e8.length = 16 → 1 < d0.fld .lnkVec vec 0 7 0 → l.vecs = Map.empty →
        0 < d0.fld .lnkVec vec 0 25 16 → Reaches .hostEventEntry s (fun d => moved d 0 ∧ d.lnk = { l with
          evtq := eq, rings := l.rings.set Ring.init n { ring' with fetched := [] }, vecs := l.vecs.set ⟨0, 0⟩ vec ⟨1, d0.time.tick⟩,
          waiting := l.waiting ++ [(.mwr (BitVec.ofNat 64 ((d0.rd .lnkRingDescHi n).toNat * 2 ^ 32 + (d0.rd .lnkRingDescLo n).toNat +
            cons * 32)) 32, 0), (.data false true (e8.map Word.plain), 0)] ++
            entry 0 32 (BitVec.ofNat 32 ((e8.headD 0).toNat / 4096)) 0 now })))

/-- R371–R376, R8 and R9: the controller allocates a buffer when the length of a frame is known, frees it when the frame fails, and
hands a whole frame with its image and data to its mill, without a buffer too; a message of the transmit flue is taken into
transmission. (How the error counters move is the model's choice: log entry 50.) (RX_FRAMES counting a frame without a buffer, RX_NOBUF
counted at its completion and the transceiver mode at the announced length are log entry 32, DEDUCED.) -/
def Obligations.CanFrames : Prop :=
  ∀ (c : Fin 32) (f : CanFrame) (len p i g pool : Nat) (ago : W32) (eight : Bool) (m : FlueMsg) (rest : List FlueMsg) (s : State),
    let d0 := s.dev
    let x := d0.loc.can.get CanCtl.init c
    let on := d0.domOn domCan && x.on && decide (d0.fld .canStatus c 0 31 30 < 2)
    let enabled := f.fmt = 0 ∨ (f.fmt = 1 ∧ d0.bit .canCtrl c 0 30 = true) ∨ (f.fmt = 2 ∧ d0.bit .canCtrl c 0 29 = true)
    let fast := f.fmt = 2 ∧ d0.bit .canCtrl c 0 28 = true
    let flue := 4096 + d0.fld .canCtrl c 0 9 0
    let n := f.data.length
    let frameAt := d0.bufAddr p i + 16 + d0.poolPad p
    let errs := min (x.rxErrs + if eight then 8 else 1) 255
    let fewer := if 127 < x.rxErrs then 127 else x.rxErrs - 1
    let ctl (d : Dev) (y : CanCtl) : Prop := d.loc = { d0.loc with can := d0.loc.can.set CanCtl.init c y }
    let shows (d : Dev) (rec_ : Nat) : Prop := d.fld .canStatus c 0 23 16 = min x.txErrs 255 ∧ d.fld .canStatus c 0 7 0 = min rec_ 255
    let legal := (f.fmt = 0 → f.rtr = false ∧ n = min f.dlc.toNat 8) ∧ (f.fmt = 1 → n = dlcLen 1 f.dlc.toNat) ∧
      (f.fmt = 2 → 1 ≤ n ∧ n ≤ 2048)
    (on = true →
      (x.rx = none → len ≤ 2048 → FirstFit d0 (16 + len) pool → PoolHas d0 pool → enabled → Reaches (.canDlcReceived c f.fmt len) s (fun d =>
        d.mem = d0.mem ∧ ∃ k < d0.poolCount pool, (d0.buf pool k).alloc = false ∧ (d.buf pool k).alloc = true ∧
          ctl d { x with rx := some (some (pool, k, (d0.buf pool k).gen), len), mode := if fast then 2 else 0,
                         lastFast := if fast then 2 else x.lastFast })) ∧
      (¬ enabled → Becomes (.canDlcReceived c f.fmt len) s d0) ∧
      ((d0.ctr .canRxErr c).toNat < 0xFFFFFFFE →
        (x.rx = none → Reaches (.canRxError c eight) s (fun d => ctl d { x with mode := 0, rxErrs := errs } ∧ shows d errs ∧
          d = { d0 with ctrs := d.ctrs, loc := d.loc, regs := d.regs } ∧ d.ctr .canRxErr c = d0.ctr .canRxErr c + 1)) ∧
        (x.rx = some (some (p, i, g), len) → g = (d0.buf p i).gen → Reaches (.canRxError c eight) s (fun d => d.mem = d0.mem ∧
          ctl d { x with rx := none, mode := 0, rxErrs := errs } ∧ shows d errs ∧ d.ctr .canRxErr c = d0.ctr .canRxErr c + 1 ∧
          (d.buf p i).gen = (g + 1) % 4096)) ∧
        (x.rx = none → ¬ enabled → Reaches (.canRxFrame c f ago) s (fun d => d.ctr .canRxErr c = d0.ctr .canRxErr c + 1 ∧
          d.mem = d0.mem ∧ d.prt = d0.prt))) ∧
      (enabled → (d0.prt.rxq.get [] (32 + c)).length < 4 →
        (x.rx = some (some (p, i, g), n) → n % 2 = 0 → frameAt % 2 = 0 →
          d0.bufAddr p i % 2 = 0 → InGranary d0 (d0.bufAddr p i) (32 + d0.poolPad p + n) → Reaches (.canRxFrame c f ago) s (fun d =>
            ctl d { x with rx := none, mode := 0, drops := 0, rxErrs := fewer, lastFast := if fast then 2 else x.lastFast } ∧ shows d fewer ∧
            d.ctr .canRxFrames c = d0.ctr .canRxFrames c + 1 ∧
            (List.range 8).map (fun k => d.mem.word (frameAt / 2 + k)) = canImage c f ∧
            d.mem.word (frameAt / 2 + 2) = Word.plain (BitVec.ofNat 16 (if f.ide = true ∧ f.fmt ≠ 2 then f.id.toNat else f.id.toNat % 2048)) ∧
            d.mem.word (frameAt / 2 + 6) = Word.plain (BitVec.ofNat 16 n) ∧ d.mem.bytes (frameAt + 16) n = f.data ∧
            d.mem.word (d0.bufAddr p i / 2) = Word.plain (BitVec.ofNat 16 (16 + n)) ∧
            d.mem.word (d0.bufAddr p i / 2 + 2) = Word.plain (BitVec.ofNat 16 (32 + c)) ∧
            ∃ z, (d.prt.rxq.get [] (32 + c)).getLast? = some z ∧ z.buf = some (p, i, g) ∧ z.ts = d0.time.ns - ago.zeroExtend 64 ∧
              z.meta4 = BitVec.ofNat 16 (c + f.fmt.val * 256) ∧ z.meta5 = BitVec.ofNat 16 x.drops)) ∧
        (x.rx = some (none, n) → (d0.ctr .canRxNobuf c).toNat < 0xFFFFFFFE → Reaches (.canRxFrame c f ago) s (fun d => d.mem = d0.mem ∧
          ctl d { x with rx := none, mode := 0, drops := min (x.drops + 1) 0xFFFF, rxErrs := fewer,
                           lastFast := if fast then 2 else x.lastFast } ∧
          d.ctr .canRxFrames c = d0.ctr .canRxFrames c + 1 ∧ d.ctr .canRxNobuf c = d0.ctr .canRxNobuf c + 1 ∧
          ∃ z, (d.prt.rxq.get [] (32 + c)).getLast? = some z ∧ z.buf = none ∧ z.meta5 = BitVec.ofNat 16 x.drops))) ∧
      (x.tx = none → d0.bit .canCtrl c 0 31 = true → d0.bit .canCtrl c 0 24 = true → d0.bit .canCtrl c 0 25 = false → d0.flue flue = m :: rest → m.reader = none →
        m.words = [⟨.handle, BitVec.ofNat 16 (p * 4096 + g)⟩, ⟨.handle, BitVec.ofNat 16 i⟩] → p < 8 → g < 4096 → i < 65536 →
        d0.bufCurrent p g i = true → (d0.head p i).1 = some (16 + n, 16) → canImage c f = (List.range 8).map (fun k =>
          d0.mem.word (d0.bufAddr p i / 2 + 8 + k)) → d0.mem.ecc = Map.empty → InGranary d0 (d0.bufAddr p i) (32 + n) → d0.bufAddr p i % 2 = 0 →
        enabled → legal → Reaches (.canTxTake c) s (fun d => d.flue flue = rest ∧
          ctl d { x with tx := some ⟨p, i, g, 0, f.fmt == 2, true⟩ } ∧ d.mem = d0.mem ∧ d.bpm = d0.bpm ∧ d.ctrs = d0.ctrs)))

/-- R371, R373, R377 and R378: a frame sent is freed and counted, one that fails RETRY times is abandoned, one that lost arbitration is
repeated; a listening controller sends none; the transceiver has then left fast transmit mode; a controller takes the state that its
error counters give and sets its bit of EVT_PEND; bus-off is left by AUTO_REC or REC_GO; TX_FLUSH empties the transmit flue; and EN = 0
takes effect at bus idle. (How the error counters move is the model's choice: log entry 50.) (STATE 3 at bus-off with AUTO_REC, the
error-active end of a recovery and the transceiver mode after a frame are log entry 32, DEDUCED.) -/
def Obligations.CanOutcomes : Prop :=
  ∀ (r : ReqArg) (c : Fin 32) (p i g : Nat) (t : CanTx) (kept inData : Bool) (m : FlueMsg) (s : State),
    let d0 := s.dev
    let x := d0.loc.can.get CanCtl.init c
    let was := d0.fld .canStatus c 0 31 30
    let on := d0.domOn domCan && x.on
    let retry := d0.fld .canCtrl c 0 23 16
    let flue := 4096 + d0.fld .canCtrl c 0 9 0
    let ctl (d : Dev) (y : CanCtl) : Prop := d.loc = { d0.loc with can := d0.loc.can.set CanCtl.init c y }
    let freed (d : Dev) (k a h : Nat) : Prop := d.mem = d0.mem ∧ (d.buf k a).gen = (h + 1) % 4096
    -- the controller after a frame that used fast transmit mode, or not
    let left (fast : Bool) : CanCtl := if fast && d0.bit .canCtrl c 0 28 then { x with lastFast := 1, pwm := d0.rd .canPwm c, mode := 0 }
      else { x with mode := 0 }
    let errs := if kept then x.txErrs else x.txErrs + 8
    let gives : Nat := if 255 < x.txErrs then 2 else if 127 < x.txErrs ∨ 127 < x.rxErrs then 1 else 0
    (x.tx = some t → on = true → was < 2 → d0.bit .canCtrl c 0 25 = false →
      (t.gen = (d0.buf t.pool t.idx).gen → Reaches (.canTxSuccess c) s (fun d =>
        ctl d { left t.xl with tx := none, txErrs := x.txErrs - 1 } ∧ freed d t.pool t.idx t.gen ∧
        d.ctr .canTxFrames c = d0.ctr .canTxFrames c + 1)) ∧
      (retry ≠ 0 → retry ≤ t.fails + 1 → t.gen = (d0.buf t.pool t.idx).gen → (d0.ctr .canTxAbandon c).toNat < 0xFFFFFFFE →
        Reaches (.canTxFail c true kept inData) s (fun d => ctl d { left (t.xl && inData) with tx := none, txErrs := errs } ∧
          freed d t.pool t.idx t.gen ∧ d.ctr .canTxAbandon c = d0.ctr .canTxAbandon c + 1)) ∧
      (retry = 0 ∨ t.fails + 1 < retry → Reaches (.canTxFail c true kept inData) s (fun d =>
        ctl d { left (t.xl && inData) with tx := some { t with fails := t.fails + 1, going := false }, txErrs := errs } ∧
        d = { d0 with regs := d.regs, loc := d.loc })) ∧
      Becomes (.canTxFail c false kept inData) s { d0 with loc := { d0.loc with
        can := d0.loc.can.set CanCtl.init c { x with tx := some { t with going := false } } } }) ∧
    (x.tx = some t → d0.bit .canCtrl c 0 25 = true → Becomes (.canTxSuccess c) s d0 ∧ Becomes (.canTxFail c true kept inData) s d0) ∧
    (on = true → EventOff d0 163 →
      (was < 2 → gives = was → Becomes (.canStateChange c) s d0) ∧
      (was < 2 → gives < 2 → gives ≠ was → Reaches (.canStateChange c) s (fun d => d.fld .canStatus c 0 31 30 = gives ∧
        d.bit .canEvtPend 0 0 c = true ∧ d = { d0 with regs := d.regs })) ∧
      (was < 2 → gives = 2 → (d0.ctr .canBusoff c).toNat < 0xFFFFFFFE → Reaches (.canStateChange c) s (fun d =>
        d.fld .canStatus c 0 31 30 = (if d0.bit .canCtrl c 0 26 then 3 else 2) ∧ d.bit .canEvtPend 0 0 c = true ∧
        d.ctr .canBusoff c = d0.ctr .canBusoff c + 1 ∧ d.mem = d0.mem)) ∧
      (was = 3 → Reaches (.canStateChange c) s (fun d => d.rd .canStatus c &&& 0xC0FF00FF = 0 ∧ d.bit .canEvtPend 0 0 c = true ∧
        ctl d { x with txErrs := 0, rxErrs := 0 } ∧ d = { d0 with regs := d.regs, loc := d.loc }))) ∧
    (d0.bit .canCtrl c 0 31 = false → x.rx = none → x.tx.any CanTx.going = false → Becomes (.canDisable c) s { d0 with loc := { d0.loc with
      can := d0.loc.can.set CanCtl.init c { x with on := false, mode := 0 } } }) ∧
    (Opens d0 r .canCmd c 0 →
      (was = 2 → Reaches (.recGo r c) s (fun d => d.fld .canStatus c 0 31 30 = 3 ∧ d = { d0 with regs := d.regs })) ∧
      (d0.bit .canCtrl c 0 24 = true → d0.flue flue = [m] → (d0.ctr .canTxBad c).toNat < 0xFFFFFFFE →
        (m.words.length ≠ 2 → Reaches (.txFlush r c) s (fun d => d.flue flue = [] ∧ d.ctr .canTxBad c = d0.ctr .canTxBad c + 1 ∧
          d.bpm = d0.bpm ∧ d.loc = d0.loc ∧ d.mem = d0.mem)) ∧
        (m.words = [⟨.handle, BitVec.ofNat 16 (p * 4096 + g)⟩, ⟨.handle, BitVec.ofNat 16 i⟩] → p < 8 → g < 4096 → i < 65536 →
          d0.bufCurrent p g i = true → Reaches (.txFlush r c) s (fun d => d.flue flue = [] ∧ freed d p i g ∧ d.loc = d0.loc ∧
            d.ctr .canTxBad c = d0.ctr .canTxBad c + 1))))

/-- R380 and R382–R384: GO starts a transfer between flash and granary, whose end stores the flash's bytes or keeps the granary's; the
UARTs' FIFOs take and give their bytes in order, OVR telling of one lost; an enabled edge of an input sets its EDGE_PEND bit; and a
write of an MDIO command starts a frame, which ends with the PHY's data when it was a read. (That a read command of MDIO leaves OP =
0b10, one of the two read codes, is log entry 33, PRESUMED.) -/
def Obligations.LocalInterfaces : Prop :=
  ∀ (r : ReqArg) (dir : Bool) (len : W16) (data : Bytes) (a n : Nat) (u m : Fin 2) (b b0 : W8) (q : List W8) (pin : Fin 32)
    (level c45 : Bool) (prtad devad : BitVec 5) (v : W16) (w : W32) (s : State),
    let d0 := s.dev
    let o := d0.loc
    let rx := o.uartRx.get [] u
    let tx := o.uartTx.get [] u
    let put (f : LocSt → LocSt) : Dev := { d0 with loc := f o }
    let begins (d : Dev) (op : Nat) (data : W16) : Prop := d.bit .mdioCmd m 0 31 = true ∧
      d.loc = { o with mdio := o.mdio.set none m (some (d.rd .mdioCmd m)) } ∧ d = { d0 with regs := d.regs, loc := d.loc } ∧
      d.bit .mdioCmd m 0 30 = c45 ∧ d.fld .mdioCmd m 0 29 28 = op ∧ d.fld .mdioCmd m 0 27 23 = prtad.toNat ∧
      d.fld .mdioCmd m 0 22 18 = devad.toNat ∧ d.fld .mdioCmd m 0 15 0 = data.toNat
    (Opens d0 r .xspiCmd 0 0 → o.xspi = none → Reaches (.xspiGo r dir len) s (fun d => d.bit .xspiCmd 0 0 30 = true ∧
      d = { d0 with regs := d.regs, loc := { o with xspi := some (dir, d0.fld .xspiGran 0 0 24 0, len.toNat + 1) } })) ∧
    (o.xspi = some (dir, a, n) → a % 2 = 0 → n % 2 = 0 → InGranary d0 a n → d0.mem.ecc = Map.empty →
      (dir = false → data.length = n → Reaches (.xspiDone data) s (fun d => d.bit .xspiCmd 0 0 30 = false ∧
        d.mem.bytes a n = data ∧ d.loc = { o with xspi := none } ∧
        (∀ wa, wa < a / 2 ∨ a / 2 + n / 2 ≤ wa → d.mem.word wa = d0.mem.word wa))) ∧
      (dir = true → Reaches (.xspiDone data) s (fun d => d.bit .xspiCmd 0 0 30 = false ∧ d.mem = d0.mem ∧
        d.loc = { o with xspi := none, xspiOut := d0.mem.bytes a n }))) ∧
    (d0.bit .uartCtrl u 0 31 = true →
      (rx.length < 32 → EventOff d0 (165 + u) → Becomes (.uartRxByte u b) s (put (fun o => { o with
        uartRx := o.uartRx.set [] u (rx ++ [b]) }))) ∧
      (32 ≤ rx.length → Reaches (.uartRxByte u b) s (fun d => d.bit .uartStat u 0 31 = true ∧ d = { d0 with regs := d.regs })) ∧
      (tx = b0 :: q → Becomes (.uartTxByteSent u) s (put (fun o => { o with uartTx := o.uartTx.set [] u q })))) ∧
    (Opens d0 r .uartData u 0 →
      (rx = b0 :: q → Becomes (.uartDataRead r u) s { d0 with
        loc := { o with uartRx := o.uartRx.set [] u q }, answers := d0.answers.set 0 (asReq r).word.toNat (BitVec.ofNat 32 (256 + b0.toNat)) }) ∧
      (tx.length < 32 → Reaches (.uartDataWrite r u b) s (fun d => d = { d0 with
        regs := d.regs, loc := { o with uartTx := o.uartTx.set [] u (tx ++ [b]) } }))) ∧
    (d0.bit .gpioIn 0 0 pin ≠ level → d0.bit .gpioOe 0 0 pin = false → EventOff d0 167 → Reaches (.gpioEdge pin level) s (fun d =>
      d.bit .gpioIn 0 0 pin = level ∧ d = { d0 with regs := d.regs } ∧ d.bit .gpioEdgePend 0 0 pin =
        (d0.bit .gpioEdgePend 0 0 pin || (if level then d0.bit .gpioRiseEn 0 0 pin else d0.bit .gpioFallEn 0 0 pin)))) ∧
    (Opens d0 r .mdioCmd m 0 → d0.bit .mdioCmd m 0 31 = false →
      Reaches (.mdioAddress r m c45 prtad devad v) s (fun d => begins d 0 v) ∧
      Reaches (.mdioWrite r m c45 prtad devad v) s (fun d => begins d 1 v) ∧
      Reaches (.mdioRead r m c45 prtad devad) s (fun d => begins d 2 0)) ∧
    (o.mdio.get none m = some w → Reaches (.mdioDone m v) s (fun d => d.bit .mdioCmd m 0 31 = false ∧
      d = { d0 with regs := d.regs, loc := { o with mdio := o.mdio.set none m none } } ∧
      d.fld .mdioCmd m 0 15 0 = if 2 ≤ bits w 29 28 then v.toNat else d0.fld .mdioCmd m 0 15 0))

/-- R386–R389, R415 and R416: a power-on reset, and a drop of a supply, leave everything but the fuses at its reset value; a device
reset by RESET_N, TOP.RESET_CMD or a lost PLL lock or reference clears the same but keeps TOP.RESET_CAUSE, with its own bit set,
TOP.RESET_CTRL and the training store, and with KEEP_MEM, but for a lost lock or reference, the contents of trained channels. Each
leaves the threads OFF, the flues empty, the time 0 and the switchable domains off. The reset's end samples BOOT_SEL and the fuses.
(Cause bits that add up and REF_OK set at the release are log entry 35, DEDUCED; the fuses sampled at the release log entry 34,
DEDUCED.) -/
def Obligations.DeviceResets : Prop :=
  ∀ (r : ReqArg) (sel : BitVec 2) (s : State),
    let d0 := s.dev
    let cleared (d : Dev) : Prop := d = { Dev.init with time := d.time, mem := d.mem, top := d.top, regs := d.regs } ∧
      (∀ g, (d.thr g).st = .off) ∧ (∀ k, d.flue k = []) ∧ d.time.ns = 0 ∧ (∀ k < 40, d.domOn k = decide (k < 2)) ∧
      d.top.inReset = true ∧ d.top.boot = Dev.init.top.boot ∧ d.top.pwrq = []
    let powerOn (d : Dev) : Prop := cleared d ∧ d.rd .topResetCause = 1 ∧ d.rd .topResetCtrl = 0 ∧ d.mem = Dev.init.mem ∧
      d.top.fuseSeen.getLsbD 31 = (s.fuses.get 0 16).getLsbD 0 ∧ d.top.fuseSeen.getLsbD 30 = (s.fuses.get 0 16).getLsbD 1
    let device (d : Dev) (cause : Nat) (keeps : Bool) : Prop := cleared d ∧ d.rd .topResetCause = d0.rd .topResetCause ||| 1 <<< cause ∧
      d.rd .topResetCtrl = d0.rd .topResetCtrl ∧ d.top.saved = d0.top.saved ∧
      (keeps = true ∧ d0.bit .topResetCtrl 0 0 0 = true ∧ (∀ c < 4, d0.bit .memMcStatus c 0 31 = true) →
        ∀ k, d.mem.word (0x80000000 + k) = d0.mem.word (0x80000000 + k))
    Reaches .powerOnReset s powerOn ∧ Reaches .supplyDrop s powerOn ∧
    Becomes .powerOnResetEnd s { d0 with top := { d0.top with porHold := false } } ∧
    (d0.top.porHold = false → Reaches .resetNLow s (fun d => device d 1 true) ∧ Reaches .referenceLoss s (fun d => device d 4 false)) ∧
    (d0.bit .clkStatus 0 0 0 = true → Reaches .pllLockLoss s (fun d => device d 3 false)) ∧
    (Opens d0 r .topResetCmd 0 0 → Reaches (.resetCmdDevice r) s (fun d => device d 2 true)) ∧
    (d0.top.inReset = true → d0.top.porHold = false → Reaches (.resetRelease sel) s (fun d => d.bit .clkStatus 0 0 1 = true ∧
      d = { d0 with regs := d.regs, top := { d0.top with inReset := false, boot := { Dev.init.top.boot with
        phase := .pll, strap := sel.toNat, released := d0.time.tick, fuses := s.fuses, left := if sel = 3 then [1] else [] } } }))

/-- R281, R387 and R389: SOFT and HARD put the hearth into reset: its threads are OFF, its local flues, TLB and keys are gone, and a
hard one drops its write buffers and cache; at its end, or when HOLD is written 0, the warden starts at WARDEN_PC, unless HOLD keeps it.
(That HTH.STILL[10:9] is the status which a hearth reset clears is log entry 35, DEDUCED.) -/
def Obligations.HearthResets : Prop :=
  ∀ (r : ReqArg) (h : Fin 16) (hold : Bool) (s : State),
    let d0 := s.dev
    let was := (d0.hth h).reset
    let pc := BitVec.ofNat 15 (d0.fld .hthWardenPc h 0 14 0)
    let inReset (d : Dev) (kind : Nat) : Prop := (d.hth h).reset = kind ∧ (∀ i < 128, (d.thr (h.val * 128 + i)).st = .off) ∧
      (∀ k < 256, d.flue (h.val * 256 + k) = []) ∧ (d.hth h).tlb = [] ∧ (d.hth h).keys = Map.empty ∧
      (d.hth h).pats = (d0.hth h).pats ∧ d.bit .hthReset h 0 8 = hold ∧ d.rd .hthThrCmd h = 0 ∧ d.fld .hthStill h 0 10 9 = 0
    let runs (d : Dev) : Prop := (d.hth h).reset = 0 ∧ (d.thr (h.val * 128)).st = .ready ∧ (d.thr (h.val * 128)).pc = pc ∧
      (∀ x, x ≠ h.val * 128 → d.thr x = d0.thr x)
    (Opens d0 r .hthReset h 0 → was ≠ 2 →
      Reaches (.hearthSoftReset r h hold) s (fun d => inReset d 1 ∧ (TallyOff d0 → EventOff d0 170 → d.mem = d0.mem)) ∧
      Reaches (.hearthHardReset r h hold) s (fun d => inReset d 2 ∧ (∀ e < 16, (d.engn (h.val * 16 + e)).wb = []) ∧
        (d.hth h).cache = Map.empty ∧ (d.hth h).victim = [])) ∧
    (Opens d0 r .hthReset h 0 → was = 3 → d0.top.boot.phase = .done → Reaches (.hearthHoldRelease r h) s (fun d =>
      runs d ∧ d.mem = d0.mem)) ∧
    (was = 2 ∨ was = 1 → d0.top.pwrq.head?.all (fun q => q.on && d0.domState q.dom == 0) = true → (∀ e < 16, (d0.engn (h.val * 16 + e)).wb = []) → d0.mem.init = Map.empty →
      (d0.bit .hthReset h 0 8 = true → Reaches (.hearthResetEnd h) s (fun d => (d.hth h).reset = 3 ∧ ∀ x, d.thr x = d0.thr x)) ∧
      (d0.bit .hthReset h 0 8 = false → d0.top.boot.phase = .done → Reaches (.hearthResetEnd h) s runs))

/-- R398 and R399: a power request for a domain that is OFF waits for its wake, which fills the domain if CLEAR asked for it and ends
OK; a power-off drains the domain, which then is OFF and loses what it held, or stays ON with BUSY when the limit passes; it is refused
for a hearth that runs, and FORCE applies at once. (That a request for a domain that is ON already ends OK, that FORCE overrides a
refusal for hearths alone, and what a drain waits for are log entry 35, DEDUCED.) -/
def Obligations.PowerRequests : Prop :=
  ∀ (r : ReqArg) (dom : BitVec 6) (b : Bool) (n : Fin 40) (q : PwrReq) (t : Nat) (s : State),
    let d0 := s.dev
    let k := dom.toNat
    let st (x : Nat) : Nat := d0.fld .pwrDom x 0 31 30
    let ends (d : Dev) (x state result : Nat) : Prop := d.fld .pwrDom x 0 31 30 = state ∧ d.fld .pwrDom x 0 26 24 = result ∧
      d.top.pwrq = []
    let port (x : Nat) : Bool := decide (26 ≤ x ∧ x < 34)
    let hearth (x : Nat) : Bool := decide (x < 18)
    let late := 0 < d0.top.drain.get 0 n ∧ d0.top.drain.get 0 n - 1 + d0.fld .pwrDrainTimeout 0 0 15 0 * 100 < d0.time.tick
    EventOff d0 168 →
    (Opens d0 r .pwrCmd 0 0 → 2 ≤ k → k < 40 → d0.top.pwrq = [] →
      (st k = 0 → Reaches (.powerOnRequest r dom b) s (fun d => d = { d0 with
        regs := d.regs, top := { d0.top with pwrq := [⟨k, true, false, b⟩] } } ∧ d.fld .pwrDom k 0 31 30 = 0)) ∧
      (st k = 2 → Reaches (.powerOnRequest r dom b) s (fun d => ends d k 2 1 ∧ d.mem = d0.mem)) ∧
      (st k = 2 → d0.pwrRefused k b = true → Reaches (.powerOffRequest r dom b) s (fun d => ends d k 2 3 ∧ d.mem = d0.mem)) ∧
      (st k = 2 → hearth k = true → (d0.hth (k - 2)).reset = 0 → Reaches (.powerOffRequest r dom false) s (fun d => ends d k 2 3)) ∧
      (st k = 2 → d0.pwrRefused k false = false → Reaches (.powerOffRequest r dom false) s (fun d => d.fld .pwrDom k 0 31 30 = 3 ∧
        d.mem = d0.mem ∧ (k = 39 → ∀ c < 32, d.bit .canCtrl c 0 31 = false) ∧ d.top = { d0.top with drain := d0.top.drain.set 0 k (d0.time.tick + 1) })) ∧
      (st k = 2 → 18 ≤ k → k < 26 → d0.pwrRefused k true = false → Reaches (.powerOffRequest r dom true) s (fun d => ends d k 0 5 ∧
        ∀ m < 0x200000, (d.mem.word ((k - 18) * 0x200000 + m)).tag = .poison))) ∧
    (d0.top.pwrq = [q] → q.on = true → q.dom < 40 → st q.dom = 0 →
      (if port q.dom then d0.top.lastPort else d0.top.lastWake) ≤ d0.time.tick → Reaches .domainWake s (fun d =>
        d.fld .pwrDom q.dom 0 31 30 = 1 ∧ d.mem = d0.mem ∧ d.top = { d0.top with
          pwrq := [], fill := d0.top.fill.set false q.dom q.clear, woke := d0.top.woke.set 0 q.dom d0.time.tick,
          lastWake := if port q.dom then d0.top.lastWake else d0.time.tick + 200,
          lastPort := if port q.dom then d0.time.tick + 100 else d0.top.lastPort })) ∧
    (2 ≤ n.val → d0.top.pwrq = [] →
      (st n = 1 → d0.top.boot.phase = .done →
        (d0.top.fill.get false n = true → d0.top.woke.get 0 n + (if hearth n then 550 else if n.val < 26 then 6550 else 0) ≤ d0.time.tick) →
        Reaches (.domainOn n) s (fun d => ends d n 2 1 ∧
        (18 ≤ n.val → n.val < 26 → d0.top.fill.get false n = true → ∀ m < 0x200000,
          d.mem.word ((n.val - 18) * 0x200000 + m) = Word.zero) ∧ (d0.top.fill.get false n = false → d.mem = d0.mem))) ∧
      (st n = 3 → late → Becomes (.drainComplete n) s d0) ∧
      (st n = 3 → ¬ late → d0.blwDrained n = true → d0.inFlight n = false → (n.val = 39 → d0.canIdle = true) → n.val ≠ 38 → Reaches (.drainComplete n) s (fun d =>
        ends d n 0 1 ∧ (18 ≤ n.val → n.val < 26 → ∀ m < 0x200000, (d.mem.word ((n.val - 18) * 0x200000 + m)).tag = .poison) ∧
        (hearth n = true → ∀ x, hearthOf x = n.val - 2 → d.thr x = Thread.init))) ∧
      (st n = 3 → d0.top.drain.get 0 n = t + 1 → t + d0.fld .pwrDrainTimeout 0 0 15 0 * 100 ≤ d0.time.tick →
        Reaches (.drainTimeout n) s (fun d => ends d n 2 2 ∧ d.mem = d0.mem)))

/-- R390–R396: with the root PLL locked the sequencer requests its domains and turns to the strapped source; the header and the sections
are checked as they arrive, from the link and the flash or word by word from BOOT_DATA, and put in place; the image whose CRC holds is
started, and any failure leads to the fallback image or, with no source left, to FAILED with FAULT_N. (WAIT shown by a stream source, a
restart that forgets the sources still to try and the host image read by one read at a time are log entry 34, DEDUCED.) -/
def Obligations.Booting : Prop :=
  ∀ (r : ReqArg) (v : W32) (data : Bytes) (mask tag : Nat) (s : State),
    let d0 := s.dev
    let b := d0.top.boot
    let le (bs : Bytes) (o : Nat) : Nat := (List.range 4).foldl (fun a k => a + (bs.getD (o + k) 0).toNat * 256 ^ k) 0
    let shows (d : Dev) (state : Nat) : Prop := d.fld .topBootStatus 0 0 31 28 = state
    let fields (d : Dev) (y : BootSt) : Prop := d.top = { d0.top with boot := y }
    let fails (c : Instr) (code : Nat) : Prop :=
      (b.src = 0 → b.fallback = false → Reaches c s (fun d => d.fld .topBootStatus 0 0 3 0 = code ∧ shows d 1 ∧
        d.bit .topBootStatus 0 0 20 = true ∧ d.mem = d0.mem ∧ d.eng = d0.eng ∧ fields d { b with
          phase := .header, src := 0, fallback := true, bytes := [], pos := 0, setups := [], start := none, ended := false,
          since := d0.time.tick, reading := false, got := none })) ∧
      (b.src ≠ 0 ∨ b.fallback = true → b.left = [] → Reaches c s (fun d => d.fld .topBootStatus 0 0 3 0 = code ∧ shows d 7 ∧
        d.bit .errFault 0 0 2 = true ∧ d.mem = d0.mem ∧ d.eng = d0.eng ∧ d.top.boot.phase = .failed))
    let took (d : Dev) (y : BootSt) : Prop := fields d (if b.src = 0 then y else { y with
      reading := d.top.boot.reading, got := d.top.boot.got })
    let image := b.bytes.take (le b.bytes 8)
    let crcAt := image.length - 24
    let good := Crypto.crc32cRun 0xFFFFFFFF (image.take crcAt) ^^^ 0xFFFFFFFF = le image (crcAt + 16)
    let at_ : W64 := d0.rd .topBootSrcHi ++ d0.rd .topBootSrcLo + BitVec.ofNat 64 b.bytes.length
    let next (b : BootSt) : Nat := min 512 (le b.bytes 8 - b.bytes.length)
    let more := b.phase = .load ∧ b.bytes.length = b.pos ∧ 256 ≤ b.pos ∧ b.pos + data.length + 16 ≤ le b.bytes 8
    (d0.top.inReset = false → b.phase = .pll → d0.top.pwrq = [] → b.strap = 0 ∨ b.strap = 3 → d0.fld .pwrDom 18 0 31 30 = 0 →
      Reaches .rootPllLock s (fun d => d.bit .clkStatus 0 0 0 = true ∧ shows d 1 ∧ d.fld .topBootStatus 0 0 25 24 = 0 ∧
        d.top.boot.phase = .header ∧ d.top.pwrq.map PwrReq.dom = (List.range 8).map (18 + ·) ++ (List.range 16).map (2 + ·) ∧
        (∀ q ∈ d.top.pwrq, q.on = true ∧ q.clear = true))) ∧
    (Opens d0 r .topBootCmd 0 0 → d0.fld .topBootStatus 0 0 31 28 = 6 ∨ d0.fld .topBootStatus 0 0 31 28 = 7 →
      Reaches (.bootCmdGo r 2) s (fun d => shows d 6 ∧ d.fld .topBootStatus 0 0 25 24 = 2 ∧ d.mem = d0.mem ∧ fields d { b with
        phase := .header, src := 2, fallback := false, left := [], bytes := [], pos := 0, setups := [], start := none, ended := false,
        since := d0.time.tick, reading := false, got := none })) ∧
    (Opens d0 r .topBootData 0 0 → b.src = 2 → b.phase = .header → b.bytes.length + 4 < 256 → Reaches (.bootDataWrite r v) s (fun d =>
      d.mem = d0.mem ∧ fields d { b with
        since := d0.time.tick, bytes := b.bytes ++ (List.range 4).map (fun k => BitVec.ofNat 8 (v.toNat / 256 ^ k)) })) ∧
    (b.phase = .header → (b.src = 0 → fails (.bootSection []) 7) ∧ (b.src = 1 → b.got = some [] → fails (.bootSection data) 7)) ∧
    (b.phase = .load → b.src = 1 → b.reading = false → b.got = none → d0.linkUp = true → b.bytes.length < le b.bytes 8 → tag < 256 →
      d0.lnk.reads.get none tag = none → (∀ k < tag, d0.lnk.reads.get none k ≠ none) → Reaches (.bootSection data) s (fun d =>
        d.mem = d0.mem ∧ fields d { b with reading := true } ∧ d.lnk = { d0.lnk with
          waiting := d0.lnk.waiting ++ [(.mrd at_ (next b) tag, 1)],
          reads := d0.lnk.reads.set none tag (some ⟨.boot, at_, next b, d0.time.tick⟩) })) ∧
    (b.phase = .header → b.src = 0 → b.bytes = [] → data.length = 256 →
      (le data 0 = 0x4F580256 → le data 4 % 65536 = 1 → le data 4 / 131072 = 0 → le data 8 % 8 = 0 → 0x120 ≤ le data 8 →
        le data 8 ≤ 0x800000 → 5 ≤ le data 12 % 256 → le data 12 % 256 ≤ 250 → le data 12 / 256 % 256 < 3 → le data 12 / 2097152 % 8 = 0 →
        (∀ k < 256, (16 ≤ k ∧ k < 64) ∨ 160 ≤ k → data.getD k 0 = 0) → Reaches (.bootSection data) s (fun d => shows d 2 ∧
          d.mem = d0.mem ∧ fields d { b with bytes := data, phase := .load, pos := 256 })) ∧
      (le data 0 ≠ 0x4F580256 → fails (.bootSection data) 1)) ∧
    (more → b.src = 0 ∨ (b.src = 1 ∧ b.got = some data ∧ d0.linkUp = true) → data.length % 8 = 0 → le data 0 % 2 ^ 24 + 16 = data.length → le data 0 / 2 ^ 24 % 16 = 0 →
      (le data 0 / 2 ^ 28 = 1 → 16 < data.length → le data 4 % 8 = 0 → le data 8 = 0 → le data 12 = 0 →
        InGranary d0 (le data 4) (data.length - 16) → Reaches (.bootSection data) s (fun d =>
          d.mem.bytes (le data 4) (data.length - 16) = data.drop 16 ∧ took d { b with
            bytes := b.bytes ++ data, pos := b.pos + data.length })) ∧
      (le data 0 / 2 ^ 28 = 2 → le data 4 = 0 → le data 8 = 0 → le data 12 = 0 → Reaches (.bootSection data) s (fun d => d.mem = d0.mem ∧
        took d { b with bytes := b.bytes ++ data, pos := b.pos + data.length, setups := b.setups ++
          (List.range (data.length / 8 - 2)).map (fun k => (le data (16 + 8 * k), BitVec.ofNat 32 (le data (20 + 8 * k)))) })) ∧
      (le data 0 / 2 ^ 28 = 3 → data.length = 16 → le data 4 = 0 → le data 8 = 0 → le data 12 < 65536 → b.start = none →
        Reaches (.bootSection data) s (fun d => d.mem = d0.mem ∧ took d { b with
          bytes := b.bytes ++ data, pos := b.pos + 16, start := some (le data 12) }))) ∧
    (b.phase = .verify → d0.bootPowered = true → (b.fuses.get 0 16).getLsbD 0 = false →
      (good → b.setups = [] → b.start = some mask → Reaches .bootCheck s (fun d => shows d 5 ∧ d.top.boot.phase = .done ∧ d.mem = d0.mem ∧
        d.rd .topBootTime = BitVec.ofNat 32 ((d0.time.tick - b.released) / 100) ∧
        (∀ h < 16, if mask.testBit h = true ∧ d0.bit .hthReset h 0 8 = false ∧ d0.domOn (domHearth h) = true ∧ (d0.hth h).reset ≠ 0
          then (d.hth h).reset = 0 ∧ (d.thr (h * 128)).st = .ready ∧
            (d.thr (h * 128)).pc = BitVec.ofNat 15 (d0.fld .hthWardenPc h 0 14 0)
          else (d.hth h).reset = (d0.hth h).reset ∧ d.thr (h * 128) = d0.thr (h * 128)))) ∧
      (¬ good → fails .bootCheck 4)) ∧
    (d0.fld .topBootStatus 0 0 31 28 = 6 → b.since + 1000000000 ≤ d0.time.tick → fails .bootTimeout 8)

/-- R412: fuses are only ever set: whatever a step does, every fuse bit that was 1 stays 1. -/
def Obligations.FusesAreKept : Prop :=
  ∀ s t : State, step s = .next t → fusesKept s.fuses t.fuses

/-- The stored words keep their canonical form through every step: rising word addresses, and no entry equal to what its address reads
as when nothing is stored there (the model's own form of R42's memory). -/
def Obligations.MemoryKeepsItsForm : Prop :=
  ∀ s t : State, Memory.wf s.dev.mem = true → step s = .next t → Memory.wf t.dev.mem = true

/-- Every command answers a next state: in no state does one fault or stop the block, and none changes what waits behind it; a step
takes the front of the queue and leaves the rest. With no command waiting a step is one TICKCLK (the model's choice, log entry 2): the
tick advances, and out of reset, with no SET or STEP pending, device time advances by 10 ns and RATE, a signed fraction in 2^-32 ns
(R247); with no line fetch, no smithy operation, no copy that waits and no error of a structure's check bits under way, memory stays as
it is. -/
def Obligations.StepsComplete : Prop :=
  ((∀ (c : Instr) (s : State), ∃ t, exec c s = .next t ∧ t.pending = s.pending) ∧
    (∀ s : State, ∃ t, step s = .next t ∧ t.pending = s.pending.tail)) ∧
  (∀ s : State, s.pending = [] →
      let d0 := s.dev
      ∃ d, step s = .next { s with dev := d } ∧ d.time.tick = d0.time.tick + 1 ∧ 
        (EventOff d0 170 → d0.bpm.copyWait = [] → d0.damage = ⟨[], []⟩ → (∀ h < 16, (d0.hth h).fetches = [] ∧ ∀ x < 8, d0.unitOps h x = []) → d.mem = d0.mem) ∧
        (d0.top.inReset = true → d.time.ns = d0.time.ns ∧ d.time.frac = d0.time.frac) ∧
        (d0.top.inReset = false → d0.time.setPend = none → d0.time.stepPend = none →
          d.time.ns ++ d.time.frac = d0.time.ns ++ d0.time.frac + 42949672960 + (d0.rd .timeRate).signExtend 96))

/-- The reset state, as far as the spec gives it: no thread runs, the flues are empty and no lock is held (R387), device time is 0
(R247), only PD_AON and PD_TOP are on, registers read their reset values (here of each block), no counter has counted, no command waits;
and the memory has its canonical form. -/
def Obligations.ResetState : Prop :=
  let d := State.reset.dev
  State.reset.pending = [] ∧ (∀ g, (d.thr g).st = .off) ∧ (∀ k, d.flue k = []) ∧ d.lck.locks = Map.empty ∧ d.time.ns = 0 ∧
  (∀ k < 40, d.domOn k = decide (k < 2)) ∧ d.fld .topBootStatus 0 0 31 28 = 1 ∧ d.rd .topSetupLock = 0 ∧ d.rd .pwrDrainTimeout = 100 ∧
  d.rd .clkAutogate = 0xFF ∧ d.rd .lnkCtrl = 16 ∧ d.fld .lnkTimers 0 0 31 24 = 40 ∧ d.fld .lnkTimers 0 0 15 0 = 50 ∧
  (∀ c < 32, ∀ k < 3, d.rd .canBt c k = 0x134E1313) ∧ (∀ u < 2, d.fld .uartCtrl u 0 19 4 = 136) ∧ (∀ m < 2, d.rd .mdioDiv m = 10) ∧
  (∀ c k i, d.ctr c k i = 0) ∧ Memory.wf d.mem = true

/-- R27, R28, R38, R45, R46, R48, R91, R268, R293 and R299–R301: where loads and stores fault, and the record they send. A word of the
base pair that is a HANDLE or TICKET raises a tag fault, a POISON one a poison fault; a misaligned address an alignment fault; a store
through a page without W a translation fault; a reserved range, an absent LPDDR6 range, a disabled host window, a wrong attribute and a
store of less than a pair to the set-up space bus faults 1, 2, 3, 4 and 7. The thread is HELD at its unit with nothing written. (A task
staged for the thread, which R138 withdraws, is left out here and below.) R27, R28, R38, R71, R135 and R299–R301: an arithmetic
instruction raises a tag fault for an operand that is a HANDLE or TICKET, and BFREE a stale-handle fault for a handle whose buffer is no
longer current. The thread is HELD at its unit with nothing written, and the record names the operand. (Where both operands fault alike
the spec names no order, and the statement says nothing.) R291, R293, R294, R299 and R301: a walk whose entry may not be read, is
POISON, is malformed or is invalid, or whose page a store may not write, raises translation fault 6, 5, 4, 1, 2 or 3 of the one access
that waits for it: its thread is HELD with its record sent. (V[4] = 0 in word 1 of the record is log entry 13, DEDUCED.) -/
def Obligations.WardenHeldFaults : Prop :=
  (∀ (g : Thr) (exi : Exi) (a : Reg) (q p : PairN) (u : Bool) (e : TlbEntry) (s : State),
      let d0 := s.dev
      let t := d0.thr g
      let h := hearthOf g
      let ctx := d0.ctxOf h
      let hi := t.get (2 * p)
      let lo := t.get (2 * p + 1)
      -- an access of a size, whose stored operands are `ws`
      let checks (c : Instr) (size : Nat) (store : Bool) (ws : List Word) (form : Prop) : Prop :=
        let va := t.va p ((memDisp exi size).getD 0)
        let fault (cause sub : Nat) (x y z : Nat) : Prop :=
          Reaches c s (fun d => FaultSent d0 d g exi.length cause sub store (BitVec.ofNat 16 x) (BitVec.ofNat 16 y) (BitVec.ofNat 16 z))
        let at_ (cause sub : Nat) : Prop := fault cause sub (ctx * 256 + va / 2 ^ 32 % 16) (va / 65536) va
        let pa := e.pa va
        let reach := d0.translates ctx = true ∧ (d0.hth h).tlb.find? (fun x => x.covers ctx va) = some e
        (memDisp exi size).isSome = true → form → (∀ x < 4, d0.bit .dbgWp h x 31 = false) → (∀ w ∈ ws, w.tag = .plain) →
          (hi.isRef = true → lo.isRef = false → fault 1 0 (2 * p) 0 hi.v.toNat) ∧
          (hi.isRef = false → lo.isRef = true → fault 1 0 (2 * p + 1) 0 lo.v.toNat) ∧
          (hi.isPoison = true → lo.tag = .plain → fault 2 0 (2 * p) 0 hi.v.toNat) ∧
          (hi.tag = .plain → lo.isPoison = true → fault 2 0 (2 * p + 1) 0 lo.v.toNat) ∧
          (hi.tag = .plain → lo.tag = .plain → va % size ≠ 0 → at_ 3 0) ∧
          (hi.tag = .plain → lo.tag = .plain → va % size = 0 →
            (reach → store = true → e.w = false → at_ 4 3) ∧
            (d0.translates ctx = false →
              ((0x2000000 ≤ va ∧ va < 0x4000000) ∨ (0x9000000 ≤ va ∧ va < 0xC000000) → at_ 6 1) ∧
              (d0.region va = .absent → at_ 6 2) ∧
              (∀ w < 16, 0x900000000 + w * 0x70000000 ≤ va → va < 0x900000000 + (w + 1) * 0x70000000 →
                d0.bit .lnkHwinCtrl w 0 31 = false → at_ 6 3) ∧
              (0xE000000 ≤ va → va < 0xF000000 → store = true → size ≠ 4 → at_ 6 7)) ∧
            (reach → (store = true → e.w = true) →
              (0x8000000 ≤ pa → pa < 0x9000000 → e.attr ≠ .pkt → at_ 6 4) ∧
              (0xE000000 ≤ pa → pa < 0xF008000 → e.attr ≠ .uc → at_ 6 4)))
      g.val % 128 ≠ 0 → (d0.thr (h * 128)).st ≠ .off → d0.stagedFor g = none → Turn d0 g →
        checks (.ld g exi a p u) 2 false [] (u = true → a.val / 2 ≠ p.val) ∧
        checks (.ldp g exi q p u) 4 false [] (u = true → q ≠ p) ∧
        checks (.ldb g exi a p u) 1 false [] (u = true → a.val / 2 ≠ p.val) ∧
        checks (.st g exi a p u) 2 true [t.get a] True ∧
        checks (.stp g exi q p u) 4 true [t.get (2 * q), t.get (2 * q + 1)] True ∧
        checks (.stb g exi a p u) 1 true [t.get a] True) ∧
  (∀ (g : Thr) (exi : Exi) (a b : Reg) (p : PairN) (n : BitVec 4) (k gen i : Nat) (s : State),
      let d0 := s.dev
      let t := d0.thr g
      let fault (c : Instr) (m cause x : Nat) (y z : W16) : Prop :=
        Reaches c s (fun d => FaultSent d0 d g m cause 0 false (BitVec.ofNat 16 x) y z)
      let operands (c : Instr) : Prop :=
        ((t.get a).isRef = true → (t.get b).isRef = false ∨ a = b → fault c 0 1 a 0 (t.get a).v) ∧
        ((t.get a).isRef = false → (t.get b).isRef = true → fault c 0 1 b 0 (t.get b).v)
      let operand (c : Instr) (m : Nat) : Prop := (t.get a).isRef = true → fault c m 1 a 0 (t.get a).v
      g.val % 128 ≠ 0 → (d0.thr (hearthOf g * 128)).st ≠ .off → d0.stagedFor g = none → Turn d0 g →
        operands (.add g a b) ∧ operands (.adc g a b) ∧ operands (.sub g a b) ∧ operands (.sbc g a b) ∧ operands (.and g a b) ∧
        operands (.or g a b) ∧ operands (.xor g a b) ∧ operands (.shl g a b) ∧ operands (.shr g a b) ∧ operands (.sar g a b) ∧
        operands (.csum g a b) ∧ operands (.tst g a b) ∧ operands (.mul g a b) ∧ operands (.mulh g a b) ∧ operand (.not g a) 0 ∧
        operand (.shlImm g [] a n) 0 ∧ operand (.shrImm g [] a n) 0 ∧ operand (.sarImm g [] a n) 0 ∧ operand (.rol g [] a n) 0 ∧
        (exi.length ≤ 1 →
          operand (.addImm g exi a n) exi.length ∧ operand (.andImm g exi a n) exi.length ∧ operand (.orImm g exi a n) exi.length ∧
          operand (.xorImm g exi a n) exi.length) ∧
        (handleOf (t.get (2 * p)) (t.get (2 * p + 1)) = some (k, gen, i) → k < 8 → d0.bufCurrent k gen i = false →
          fault (.bfree g p) 0 5 (2 * p) (t.get (2 * p)).v (t.get (2 * p + 1)).v)) ∧
  (∀ (g : Thr) (exi : Exi) (a : Reg) (p : PairN) (u : Bool) (s : State),
      let d0 := s.dev
      let t := d0.thr g
      let h := hearthOf g
      let ctx := d0.ctxOf h
      let va := t.va p ((memDisp exi 2).getD 0)
      let access : Instr := if u then .st g exi a p false else .ld g exi a p false
      let e1 := d0.ctxRoot ctx + va / 2 ^ 25 % 2048 * 4
      let h1 := d0.mem.word (e1 / 2)
      let l1 := d0.mem.word (e1 / 2 + 1)
      let e2 := h1.v.toNat % 512 * 2 ^ 27 + l1.v.toNat * 2048 + va / 65536 % 512 * 4
      let h2 := d0.mem.word (e2 / 2)
      let l2 := d0.mem.word (e2 / 2 + 1)
      let ends (sub : Nat) : Prop := Reaches (.tableWalkDone ⟨g, by omega⟩) s (fun d =>
        (d.thr g).st = .held ∧ (d.thr g).w = t.w ∧ (d.thr g).fl = t.fl ∧ (d.thr g).pc = t.pc ∧ (d.hth h).tlb = [] ∧
        (∀ x, x ≠ g.val → d.thr x = d0.thr x) ∧ d.mem = d0.mem ∧ d.regs = d0.regs ∧
        ((d.hth h).repq.getLast?.map (fun z => (z.src, z.words))) = some (g.val, [BitVec.ofNat 16 (0x1000 + h * 256 + g % 128),
          BitVec.ofNat 16 (0x4000 + sub * 256 + (if u then 128 else 0) + (if t.inTrap then 32 else 0)), BitVec.ofNat 16 t.pc.toNat,
          (d0.progWord h (t.pc.toNat + exi.length)).zeroExtend 16, BitVec.ofNat 16 (ctx * 256 + va / 2 ^ 32 % 16),
          BitVec.ofNat 16 (va / 65536), BitVec.ofNat 16 va, 0]))
      g.val % 128 ≠ 0 → (d0.thr (h * 128)).st ≠ .off → d0.stagedFor g = none → WaitsFor d0 g (.walk access va false) → t.ulen = exi.length + 1 →
        (∀ x < 4, d0.bit .dbgWp h x 31 = false) → d0.translates ctx = true → (d0.hth h).tlb = [] → d0.joined h va = [g.val] →
        d0.smWalks h = [] → d0.walking h (va / 65536) = true → d0.mem.ecc = Map.empty →
          (0x4000000 ≤ e1 → e1 < 0xF008000 → ends 6) ∧
          (InGranary d0 e1 4 →
            (h1.isPoison = true ∨ l1.isPoison = true → ends 5) ∧
            (h1.isPoison = false → l1.isPoison = false → h1.isRef = true ∨ l1.isRef = true → ends 4) ∧
            (h1.tag = .plain → l1.tag = .plain →
              (h1.v.toNat / 16384 = 3 → ends 4) ∧
              (h1.v.toNat / 16384 = 0 → ends 1) ∧
              (h1.v.toNat / 16384 = 1 → h1.v.toNat / 512 % 32 = 0 → InGranary d0 e2 4 → h2.tag = .plain → l2.tag = .plain →
                (h2.v.toNat / 16384 = 0 → ends 2) ∧
                (h2.v.toNat / 16384 = 1 ∨ h2.v.toNat / 16384 = 3 → ends 4) ∧
                (h2.v.toNat / 16384 = 2 → h2.v.toNat / 4096 % 4 < 3 → h2.v.toNat / 16 % 128 = 0 → h2.v.toNat / 2048 % 2 = 0 →
                  u = true → ends 3)))))

/-- R59–R63 and R67–R69: an engine's 14-bit word is read by its form in bits [13:12]: register form with operation, a and b in four bits
each, immediate form with a and k (in the memory rows a base pair and U), branch form with an 8-bit displacement. An EXI before a
register or system word and an odd pair number are reserved encodings, which stand for the EMU trap. A thread's next unit is the word at
its PC after up to two EXI words; three or more are reserved. R60, R70 and R80: a system word is read by its sub value, those that take
two register numbers by four sub values with a and b as in the register form. A set rsv bit, a reserved sub value and SETTC's reserved
mode are reserved encodings, which stand for the EMU trap. R178: a kindler's 36-bit word is read by its opcode in bits [35:32], with the
fields of its row; a set rsv bit, a reserved field value and opcode 0xF make it no instruction. -/
def Obligations.WordsDecode : Prop :=
  (∀ (g : Thr) (exi : Exi) (a b : Reg) (p q : PairN) (k : BitVec 4) (dd : W8) (lit w : BitVec 14) (u : Bool) (d : Dev),
      let word (form f y z : Nat) : BitVec 14 := BitVec.ofNat 14 (form * 4096 + f * 256 + y * 16 + z)
      let mem := p.val + (if u then 8 else 0)
      let register (op : Nat) (i : Instr) : Prop := engineDecode g [] (word 0 op a b) lit = i
      let immediate (op : Nat) (i : Instr) : Prop := engineDecode g exi (word 1 op a k.toNat) lit = i
      let memory (op a : Nat) (i : Instr) : Prop := engineDecode g exi (word 1 op a mem) lit = i
      let branch (cond : Nat) (i : Instr) : Prop := engineDecode g exi (word 2 cond 0 dd.toNat) lit = i
      let pc := (d.thr g).pc.toNat
      let at_ (k : Nat) : BitVec 14 := d.progWord (hearthOf g) (pc + k)
      register 0 (.mov g a b) ∧ register 1 (.add g a b) ∧ register 2 (.adc g a b) ∧ register 3 (.sub g a b) ∧
      register 4 (.sbc g a b) ∧ register 5 (.and g a b) ∧ register 6 (.or g a b) ∧ register 7 (.xor g a b) ∧
      register 8 (.shl g a b) ∧ register 9 (.shr g a b) ∧ register 10 (.sar g a b) ∧ register 11 (.csum g a b) ∧
      register 12 (.cmp g a b) ∧ register 13 (.tst g a b) ∧ register 14 (.mul g a b) ∧ register 15 (.mulh g a b) ∧
      immediate 0 (.movi g exi a k) ∧ immediate 1 (.addImm g exi a k) ∧ immediate 2 (.andImm g exi a k) ∧
      immediate 3 (.orImm g exi a k) ∧ immediate 4 (.xorImm g exi a k) ∧ immediate 5 (.shlImm g exi a k) ∧
      immediate 6 (.shrImm g exi a k) ∧ immediate 7 (.sarImm g exi a k) ∧ immediate 8 (.rol g exi a k) ∧
      immediate 9 (.cmpImm g exi a k) ∧
      memory 10 a (.ld g exi a p u) ∧ memory 11 a (.st g exi a p u) ∧ memory 14 a (.ldb g exi a p u) ∧ memory 15 a (.stb g exi a p u) ∧
      memory 12 (2 * q) (.ldp g exi q p u) ∧ memory 13 (2 * q) (.stp g exi q p u) ∧
      memory 12 (2 * q + 1) (.emuTrap g) ∧ memory 13 (2 * q + 1) (.emuTrap g) ∧
      branch 0 (.beq g exi dd) ∧ branch 1 (.bne g exi dd) ∧ branch 2 (.blo g exi dd) ∧ branch 3 (.bhs g exi dd) ∧
      branch 4 (.bmi g exi dd) ∧ branch 5 (.bpl g exi dd) ∧ branch 6 (.bvs g exi dd) ∧ branch 7 (.bvc g exi dd) ∧
      branch 8 (.bhi g exi dd) ∧ branch 9 (.bls g exi dd) ∧ branch 10 (.blt g exi dd) ∧ branch 11 (.bge g exi dd) ∧
      branch 12 (.bgt g exi dd) ∧ branch 13 (.ble g exi dd) ∧ branch 14 (.bal g exi dd) ∧ branch 15 (.call g exi dd) ∧
      (exi ≠ [] → wordBits w 13 12 = 0 ∨ wordBits w 13 12 = 3 → engineDecode g exi w lit = .emuTrap g) ∧
      (d.exiLead (hearthOf g) pc = exi.length → exi.length < 3 →
        (∀ i : Fin exi.length, at_ i = BitVec.ofNat 14 (0x3F00 + (exi.get i).toNat)) →
          d.nextUnit g = engineDecode g exi (at_ exi.length) (at_ (exi.length + 1))) ∧
      (3 ≤ d.exiLead (hearthOf g) pc → d.nextUnit g = .emuTrap g)) ∧
  (∀ (g : Thr) (a b : Reg) (p q : PairN) (lit : BitVec 14) (u : Bool) (x : Fin 4) (op : Fin 16) (v : Fin 32) (r : Fin 8) (y : Fin 64)
      (tag : BitVec 2),
      let is (sub f : Nat) (i : Instr) : Prop := engineDecode g [] (BitVec.ofNat 14 (0x3000 + sub * 0x40 + f)) lit = i
      let pairs (sub : Nat) (i : Instr) : Prop := is sub (a * 16 + b) i
      -- the f bits from `rsv` up are reserved
      let word (sub rsv f : Nat) (i : Instr) : Prop := is sub f i ∧ ∀ z, 0 < z → f + z * 2 ^ rsv < 64 → is sub (f + z * 2 ^ rsv) (.emuTrap g)
      let mem := p.val + (if u then 8 else 0)
      pairs 0x00 (.tagr g a b) ∧ pairs 0x04 (.send g a b) ∧ pairs 0x08 (.sende g a b) ∧ pairs 0x0C (.recv g a b) ∧
      pairs 0x10 (.chkc g a b) ∧ is 0x14 (r * 16 + a) (.movFromSpecial g a r) ∧ is 0x14 (128 + r * 16 + a) (.movToSpecial g a r) ∧
      is 0x18 (p * 16 + b) (.lock g p b) ∧
      word 0x1A 4 a (.not g a) ∧ is 0x1B (tag.toNat * 16 + a) (.tags g a tag) ∧ word 0x1C 4 a (.br g a) ∧ word 0x1D 4 a (.callReg g a) ∧
      word 0x1E 0 0 (.ret g) ∧ word 0x1F 4 a (.jt g a lit) ∧ word 0x20 0 0 (.fence g) ∧
      is 0x21 0 (.repI g none) ∧ is 0x21 (32 + v) (.repI g (some v)) ∧ (v.val ≠ 0 → is 0x21 v (.emuTrap g)) ∧
      word 0x22 4 op (.repU g op) ∧ word 0x23 0 0 (.wait g) ∧ word 0x24 0 0 (.yield g) ∧
      is 0x25 p (.settcRelative g p) ∧ is 0x25 (8 + p) (.settcAbsolute g p) ∧ is 0x25 16 (.settcDisarm g) ∧
      (p.val ≠ 0 → is 0x25 (16 + p) (.emuTrap g)) ∧ is 0x25 (24 + p) (.emuTrap g) ∧ is 0x25 (32 + v) (.emuTrap g) ∧
      word 0x26 5 a (.take g a) ∧ word 0x26 5 (16 + a) (.takePoll g a) ∧ word 0x27 0 0 (.done g) ∧ word 0x28 4 a (.tkrel g a) ∧
      word 0x29 4 a (.tkskip g a) ∧ word 0x2A 4 a (.defer g a) ∧ word 0x2B 3 p (.post g p) ∧ word 0x2C 3 p (.cancel g p) ∧
      word 0x2D 4 p (.ballocLength g p) ∧ word 0x2D 4 (8 + p) (.ballocPool g p) ∧ word 0x2E 3 p (.bfree g p) ∧
      is 0x2F (8 * q + p) (.bcopy g q p) ∧ word 0x30 4 mem (.unlock g p u) ∧ is 0x31 (8 * q + p) (.cpmTo g q p) ∧
      is 0x32 (8 * q + p) (.cpmFrom g p q) ∧ is 0x33 (16 * x + op) (.cpgo g x op) ∧ is 0x34 (16 * x) (.cptst g x) ∧
      (op.val ≠ 0 → is 0x34 (16 * x + op) (.emuTrap g)) ∧ word 0x35 5 v (.trap g v) ∧ word 0x36 0 0 (.rft g) ∧ is 0x37 y (.bkpt g y) ∧
      is 0x38 y (.emuTrap g) ∧ is 0x39 y (.emuTrap g) ∧ is 0x3A y (.emuTrap g) ∧ is 0x3B y (.emuTrap g)) ∧
  (∀ (m : Fin 4) (n : Fin 32) (r s : Fin 8) (imm : W16) (t : BitVec 12) (code dst : BitVec 6) (off : W8) (wd : Fin 16) (op : Fin 7) (u : Bool)
      (sc : Fin 4) (slot : Fin 12) (bit : Fin 31) (mask : BitVec 31) (x : Fin 44) (i : Fin 6),
      let is (opcode rest : Nat) (i : Option Instr) : Prop := kindDecode m n (BitVec.ofNat 36 (opcode * 2 ^ 32 + rest)) = i
      -- the `w` bits from `lo` up are reserved
      let word (opcode lo w rest : Nat) (k : Instr) : Prop :=
        is opcode rest (some k) ∧ ∀ z, 0 < z → z < 2 ^ w → is opcode (rest + z * 2 ^ lo) none
      let bit31 := if u then 2 ^ 31 else 0
      let branch := r.val * 2 ^ 29 + imm.toNat * 2 ^ 13 + t.toNat
      word 0 6 24 0 (.kendAccept m n) ∧ (code ≠ 0 → is 0 code.toNat none) ∧
      (16 ≤ code.toNat → word 0 6 24 (2 ^ 30 + code.toNat) (.kendFail m n code)) ∧
      (code.toNat < 16 → is 0 (2 ^ 30 + code.toNat) none) ∧ is 0 (2 ^ 31 + code.toNat) none ∧ is 0 (3 * 2 ^ 30 + code.toNat) none ∧
      word 1 12 1 branch (.kbeq m n r imm t) ∧ word 2 12 1 branch (.kbne m n r imm t) ∧ word 3 12 1 branch (.kblo m n r imm t) ∧
      word 4 12 1 branch (.kbhs m n r imm t) ∧ word 5 12 1 branch (.kbset m n r imm t) ∧
      (dst.toNat < 44 ∨ (48 ≤ dst.toNat ∧ dst.toNat < 56) →
        word 6 0 11 (dst.toNat * 2 ^ 26 + off.toNat * 2 ^ 18 + r * 2 ^ 15 + wd * 2 ^ 11) (.kext m n dst off r wd)) ∧
      ((44 ≤ dst.toNat ∧ dst.toNat < 48) ∨ 56 ≤ dst.toNat →
        is 6 (dst.toNat * 2 ^ 26 + off.toNat * 2 ^ 18 + r * 2 ^ 15 + wd * 2 ^ 11) none) ∧
      ((5 ≤ op.val → imm.toNat < 16) → word 7 0 10 (op * 2 ^ 29 + r * 2 ^ 26 + imm.toNat * 2 ^ 10) (.kalui m n op r imm)) ∧
      (5 ≤ op.val → 16 ≤ imm.toNat → is 7 (op * 2 ^ 29 + r * 2 ^ 26 + imm.toNat * 2 ^ 10) none) ∧
      is 7 (7 * 2 ^ 29 + r * 2 ^ 26 + imm.toNat * 2 ^ 10) none ∧
      word 8 0 23 (op * 2 ^ 29 + r * 2 ^ 26 + s * 2 ^ 23) (.kalu m n op r s) ∧ is 8 (7 * 2 ^ 29 + r * 2 ^ 26 + s * 2 ^ 23) none ∧
      word 9 0 18 (bit31 + r * 2 ^ 28 + sc * 2 ^ 26 + off.toNat * 2 ^ 18) (.kadv m n u r sc off) ∧
      word 10 0 22 (slot * 2 ^ 28 + bit * 2 ^ 23 + (if u then 2 ^ 22 else 0)) (.khdr m n slot bit u) ∧
      (∀ z, 12 ≤ z → z < 16 → is 10 (z * 2 ^ 28 + bit * 2 ^ 23) none) ∧ is 10 (slot * 2 ^ 28 + 31 * 2 ^ 23) none ∧
      word 11 31 1 mask.toNat (.kpm m n mask) ∧
      word 12 16 6 (x * 2 ^ 26 + 2 ^ 25 + r * 2 ^ 22 + imm.toNat) (.ksto m n x true r imm) ∧
      word 12 16 6 (x * 2 ^ 26 + r * 2 ^ 22) (.ksto m n x false r 0) ∧ (imm ≠ 0 → is 12 (x * 2 ^ 26 + r * 2 ^ 22 + imm.toNat) none) ∧
      (∀ z, 44 ≤ z → z < 64 → is 12 (z * 2 ^ 26 + 2 ^ 25 + r * 2 ^ 22 + imm.toNat) none) ∧
      word 13 12 20 t.toNat (.kjmp m n t) ∧ word 14 0 26 (r * 2 ^ 29 + i * 2 ^ 26) (.kmeta m n r i) ∧
      is 14 (r * 2 ^ 29 + 6 * 2 ^ 26) none ∧ is 14 (r * 2 ^ 29 + 7 * 2 ^ 26) none ∧ is 15 (imm.toNat * 2 ^ 12 + t.toNat) none)
end

