-- ==== Sys2Proof/Laws/Map.lean ====
section
/-!
SUPPORT. The laws of the sparse arrays: a read after a write, two writes to one index, and the canonical form. The first two
hold of every array, in the canonical form or not.
-/
namespace Sys2Proof

variable {α : Type}

theorem Map.look_drop_same (dflt : α) (k : Nat) (l : List (Nat × α)) : Map.look dflt k (Map.drop k l) = dflt := by
  induction l with
  | nil => rfl
  | cons e r ih =>
    obtain ⟨j, v⟩ := e
    by_cases h : j = k <;> simp [Map.drop, Map.look, h, ih]

theorem Map.look_drop_ne (dflt : α) {k j : Nat} (h : j ≠ k) (l : List (Nat × α)) :
    Map.look dflt j (Map.drop k l) = Map.look dflt j l := by
  induction l with
  | nil => rfl
  | cons e r ih =>
    obtain ⟨i, v⟩ := e
    by_cases hi : i = k
    · subst hi
      simp [Map.drop, Map.look, ih, Ne.symm h]
    · simp [Map.drop, Map.look, hi, ih]

theorem Map.look_ins_ne (dflt x : α) {k j : Nat} (h : j ≠ k) (l : List (Nat × α)) :
    Map.look dflt j (Map.ins k x l) = Map.look dflt j l := by
  induction l with
  | nil => simp [Map.ins, Map.look, Ne.symm h]
  | cons e r ih =>
    obtain ⟨i, v⟩ := e
    by_cases hi : k < i <;> simp [Map.ins, Map.look, hi, ih, Ne.symm h]

theorem Map.look_ins_drop (dflt x : α) (k : Nat) (l : List (Nat × α)) :
    Map.look dflt k (Map.ins k x (Map.drop k l)) = x := by
  induction l with
  | nil => simp [Map.drop, Map.ins, Map.look]
  | cons e r ih =>
    obtain ⟨i, v⟩ := e
    by_cases hi : i = k
    · simp [Map.drop, hi, ih]
    · by_cases hk : k < i <;> simp [Map.drop, Map.ins, Map.look, hi, hk, ih]

theorem Map.drop_ins (k : Nat) (x : α) (l : List (Nat × α)) : Map.drop k (Map.ins k x l) = Map.drop k l := by
  induction l with
  | nil => simp [Map.drop, Map.ins]
  | cons e r ih =>
    obtain ⟨i, v⟩ := e
    by_cases hk : k < i
    · simp [Map.drop, Map.ins, hk]
    · by_cases hi : i = k <;> simp [Map.drop, Map.ins, hk, hi, ih]

theorem Map.drop_drop (k : Nat) (l : List (Nat × α)) : Map.drop k (Map.drop k l) = Map.drop k l := by
  induction l with
  | nil => rfl
  | cons e r ih =>
    obtain ⟨i, v⟩ := e
    by_cases hi : i = k <;> simp [Map.drop, hi, ih]

@[simp] theorem Map.get_empty (dflt : α) (k : Nat) : (Map.empty : Map α).get dflt k = dflt := rfl

@[simp] theorem Map.get_set_same [DecidableEq α] (m : Map α) (dflt : α) (k : Nat) (x : α) :
    (m.set dflt k x).get dflt k = x := by
  unfold Map.set Map.get
  split
  · rename_i h; simp [Map.look_drop_same, h]
  · simp [Map.look_ins_drop]

theorem Map.get_set_ne [DecidableEq α] (m : Map α) (dflt dflt' : α) {k j : Nat} (h : j ≠ k) (x : α) :
    (m.set dflt k x).get dflt' j = m.get dflt' j := by
  unfold Map.set Map.get
  split
  · simp [Map.look_drop_ne dflt' h]
  · simp [Map.look_ins_ne dflt' x h, Map.look_drop_ne dflt' h]

@[simp] theorem Map.set_set [DecidableEq α] (m : Map α) (dflt : α) (k : Nat) (x y : α) :
    (m.set dflt k x).set dflt k y = m.set dflt k y := by
  unfold Map.set
  by_cases hx : x = dflt <;> by_cases hy : y = dflt <;> simp [hx, hy, Map.drop_ins, Map.drop_drop]

theorem Map.get_set [DecidableEq α] (m : Map α) (dflt : α) (k j : Nat) (x : α) :
    (m.set dflt k x).get dflt j = if j = k then x else m.get dflt j := by
  by_cases h : j = k
  · subst h; simp
  · simp [h, Map.get_set_ne]

/-! ### The canonical form -/

/-- A rising list: the first key is below every other, and the rest rises. -/
theorem Map.rising_cons {k : Nat} {v : α} {r : List (Nat × α)} :
    Map.rising ((k, v) :: r) = true ↔ (∀ e ∈ r, k < e.1) ∧ Map.rising r = true := by
  induction r generalizing k v with
  | nil => simp [Map.rising]
  | cons e r ih =>
    obtain ⟨j, w⟩ := e
    simp only [Map.rising, Bool.and_eq_true, decide_eq_true_eq, List.mem_cons, forall_eq_or_imp]
    constructor
    · rintro ⟨h, hr⟩
      exact ⟨⟨h, fun e he => Nat.lt_trans h ((ih.mp hr).1 e he)⟩, hr⟩
    · rintro ⟨⟨h, _⟩, hr⟩
      exact ⟨h, hr⟩

theorem Map.mem_drop {k : Nat} {l : List (Nat × α)} {e : Nat × α} (h : e ∈ Map.drop k l) : e ∈ l ∧ e.1 ≠ k := by
  induction l with
  | nil => simp [Map.drop] at h
  | cons a r ih =>
    obtain ⟨j, v⟩ := a
    by_cases hj : j = k
    · simp [Map.drop, hj] at h
      exact ⟨List.mem_cons_of_mem _ (ih h).1, (ih h).2⟩
    · simp [Map.drop, hj] at h
      rcases h with rfl | h
      · exact ⟨List.mem_cons_self, hj⟩
      · exact ⟨List.mem_cons_of_mem _ (ih h).1, (ih h).2⟩

theorem Map.mem_ins {k : Nat} {x : α} {l : List (Nat × α)} {e : Nat × α} (h : e ∈ Map.ins k x l) :
    e = (k, x) ∨ e ∈ l := by
  induction l with
  | nil => simp [Map.ins] at h; exact .inl h
  | cons a r ih =>
    obtain ⟨j, v⟩ := a
    by_cases hj : k < j
    · simp [Map.ins, hj] at h
      rcases h with h | h | h
      · exact .inl h
      · exact .inr (by simp [h])
      · exact .inr (by simp [h])
    · simp [Map.ins, hj] at h
      rcases h with h | h
      · exact .inr (by simp [h])
      · rcases ih h with h | h
        · exact .inl h
        · exact .inr (by simp [h])

theorem Map.rising_drop {k : Nat} {l : List (Nat × α)} (h : Map.rising l = true) : Map.rising (Map.drop k l) = true := by
  induction l with
  | nil => rfl
  | cons a r ih =>
    obtain ⟨j, v⟩ := a
    obtain ⟨h1, h2⟩ := Map.rising_cons.mp h
    by_cases hj : j = k
    · simp [Map.drop, hj, ih h2]
    · simp only [Map.drop, hj, if_false]
      exact Map.rising_cons.mpr ⟨fun e he => h1 e (Map.mem_drop he).1, ih h2⟩

theorem Map.rising_ins {k : Nat} {x : α} {l : List (Nat × α)} (hk : ∀ e ∈ l, e.1 ≠ k) (h : Map.rising l = true) :
    Map.rising (Map.ins k x l) = true := by
  induction l with
  | nil => rfl
  | cons a r ih =>
    obtain ⟨j, v⟩ := a
    obtain ⟨h1, h2⟩ := Map.rising_cons.mp h
    by_cases hj : k < j
    · simp only [Map.ins, hj, if_true]
      refine Map.rising_cons.mpr ⟨?_, h⟩
      intro e he
      rcases List.mem_cons.mp he with rfl | he
      · exact hj
      · exact Nat.lt_trans hj (h1 e he)
    · simp only [Map.ins, hj, if_false]
      have hne : j ≠ k := hk (j, v) List.mem_cons_self
      refine Map.rising_cons.mpr ⟨?_, ih (fun e he => hk e (List.mem_cons_of_mem _ he)) h2⟩
      intro e he
      rcases Map.mem_ins he with rfl | he
      · show j < k
        omega
      · exact h1 e he

/-- A write keeps the canonical form. -/
theorem Map.wf_set [DecidableEq α] (m : Map α) (dflt : Nat → α) (k : Nat) (x : α) (h : m.wf dflt = true) :
    (m.set (dflt k) k x).wf dflt = true := by
  simp only [Map.wf, Bool.and_eq_true, List.all_eq_true, decide_eq_true_eq] at h ⊢
  obtain ⟨h1, h2⟩ := h
  by_cases hx : x = dflt k
  · simp only [Map.set, hx, if_true]
    exact ⟨Map.rising_drop h1, fun e he => h2 e (Map.mem_drop he).1⟩
  · simp only [Map.set, hx, if_false]
    refine ⟨Map.rising_ins (fun e he => (Map.mem_drop he).2) (Map.rising_drop h1), ?_⟩
    intro e he
    rcases Map.mem_ins he with rfl | he
    · exact hx
    · exact h2 e (Map.mem_drop he).1

/-- Taking an entry out keeps the canonical form. -/
theorem Map.wf_erase [DecidableEq α] (m : Map α) (dflt : Nat → α) (k : Nat) (h : m.wf dflt = true) :
    (m.erase k).wf dflt = true := by
  simp only [Map.wf, Map.erase, Bool.and_eq_true, List.all_eq_true, decide_eq_true_eq] at h ⊢
  exact ⟨Map.rising_drop h.1, fun e he => h.2 e (Map.mem_drop he).1⟩

theorem Map.wf_empty [DecidableEq α] (dflt : Nat → α) : (Map.empty : Map α).wf dflt = true := rfl

end Sys2Proof
end

