-- ==== Sys2Proof/Laws/State.lean ====
section
/-!
SUPPORT. What each named update of the state leaves as it was, one lemma per field, and what it makes of the field that it
writes. Every equation of a field that is left alone holds by definition.
-/
namespace Sys2Proof.Machine


/-! ### `Dev.setThr` -/

@[simp] theorem Dev.setThr_time (d : Dev) (g : Nat) (x : Thread) : (d.setThr g x).time = d.time := rfl
@[simp] theorem Dev.setThr_regs (d : Dev) (g : Nat) (x : Thread) : (d.setThr g x).regs = d.regs := rfl
@[simp] theorem Dev.setThr_ctrs (d : Dev) (g : Nat) (x : Thread) : (d.setThr g x).ctrs = d.ctrs := rfl
@[simp] theorem Dev.setThr_latches (d : Dev) (g : Nat) (x : Thread) : (d.setThr g x).latches = d.latches := rfl
@[simp] theorem Dev.setThr_answers (d : Dev) (g : Nat) (x : Thread) : (d.setThr g x).answers = d.answers := rfl
@[simp] theorem Dev.setThr_log (d : Dev) (g : Nat) (x : Thread) : (d.setThr g x).log = d.log := rfl
@[simp] theorem Dev.setThr_mem (d : Dev) (g : Nat) (x : Thread) : (d.setThr g x).mem = d.mem := rfl
@[simp] theorem Dev.setThr_dsp (d : Dev) (g : Nat) (x : Thread) : (d.setThr g x).dsp = d.dsp := rfl
@[simp] theorem Dev.setThr_rel (d : Dev) (g : Nat) (x : Thread) : (d.setThr g x).rel = d.rel := rfl
@[simp] theorem Dev.setThr_lck (d : Dev) (g : Nat) (x : Thread) : (d.setThr g x).lck = d.lck := rfl
@[simp] theorem Dev.setThr_mmu (d : Dev) (g : Nat) (x : Thread) : (d.setThr g x).mmu = d.mmu := rfl
@[simp] theorem Dev.setThr_lnk (d : Dev) (g : Nat) (x : Thread) : (d.setThr g x).lnk = d.lnk := rfl
@[simp] theorem Dev.setThr_bpm (d : Dev) (g : Nat) (x : Thread) : (d.setThr g x).bpm = d.bpm := rfl
@[simp] theorem Dev.setThr_top (d : Dev) (g : Nat) (x : Thread) : (d.setThr g x).top = d.top := rfl
@[simp] theorem Dev.setThr_prt (d : Dev) (g : Nat) (x : Thread) : (d.setThr g x).prt = d.prt := rfl
@[simp] theorem Dev.setThr_mil (d : Dev) (g : Nat) (x : Thread) : (d.setThr g x).mil = d.mil := rfl
@[simp] theorem Dev.setThr_chm (d : Dev) (g : Nat) (x : Thread) : (d.setThr g x).chm = d.chm := rfl
@[simp] theorem Dev.setThr_blw (d : Dev) (g : Nat) (x : Thread) : (d.setThr g x).blw = d.blw := rfl
@[simp] theorem Dev.setThr_loc (d : Dev) (g : Nat) (x : Thread) : (d.setThr g x).loc = d.loc := rfl
@[simp] theorem Dev.setThr_damage (d : Dev) (g : Nat) (x : Thread) : (d.setThr g x).damage = d.damage := rfl

/-! ### `Dev.setEngn` -/

@[simp] theorem Dev.setEngn_time (d : Dev) (e : Nat) (x : Engine) : (d.setEngn e x).time = d.time := rfl
@[simp] theorem Dev.setEngn_regs (d : Dev) (e : Nat) (x : Engine) : (d.setEngn e x).regs = d.regs := rfl
@[simp] theorem Dev.setEngn_ctrs (d : Dev) (e : Nat) (x : Engine) : (d.setEngn e x).ctrs = d.ctrs := rfl
@[simp] theorem Dev.setEngn_latches (d : Dev) (e : Nat) (x : Engine) : (d.setEngn e x).latches = d.latches := rfl
@[simp] theorem Dev.setEngn_answers (d : Dev) (e : Nat) (x : Engine) : (d.setEngn e x).answers = d.answers := rfl
@[simp] theorem Dev.setEngn_log (d : Dev) (e : Nat) (x : Engine) : (d.setEngn e x).log = d.log := rfl
@[simp] theorem Dev.setEngn_mem (d : Dev) (e : Nat) (x : Engine) : (d.setEngn e x).mem = d.mem := rfl
@[simp] theorem Dev.setEngn_dsp (d : Dev) (e : Nat) (x : Engine) : (d.setEngn e x).dsp = d.dsp := rfl
@[simp] theorem Dev.setEngn_rel (d : Dev) (e : Nat) (x : Engine) : (d.setEngn e x).rel = d.rel := rfl
@[simp] theorem Dev.setEngn_lck (d : Dev) (e : Nat) (x : Engine) : (d.setEngn e x).lck = d.lck := rfl
@[simp] theorem Dev.setEngn_mmu (d : Dev) (e : Nat) (x : Engine) : (d.setEngn e x).mmu = d.mmu := rfl
@[simp] theorem Dev.setEngn_lnk (d : Dev) (e : Nat) (x : Engine) : (d.setEngn e x).lnk = d.lnk := rfl
@[simp] theorem Dev.setEngn_bpm (d : Dev) (e : Nat) (x : Engine) : (d.setEngn e x).bpm = d.bpm := rfl
@[simp] theorem Dev.setEngn_top (d : Dev) (e : Nat) (x : Engine) : (d.setEngn e x).top = d.top := rfl
@[simp] theorem Dev.setEngn_prt (d : Dev) (e : Nat) (x : Engine) : (d.setEngn e x).prt = d.prt := rfl
@[simp] theorem Dev.setEngn_mil (d : Dev) (e : Nat) (x : Engine) : (d.setEngn e x).mil = d.mil := rfl
@[simp] theorem Dev.setEngn_chm (d : Dev) (e : Nat) (x : Engine) : (d.setEngn e x).chm = d.chm := rfl
@[simp] theorem Dev.setEngn_blw (d : Dev) (e : Nat) (x : Engine) : (d.setEngn e x).blw = d.blw := rfl
@[simp] theorem Dev.setEngn_loc (d : Dev) (e : Nat) (x : Engine) : (d.setEngn e x).loc = d.loc := rfl
@[simp] theorem Dev.setEngn_damage (d : Dev) (e : Nat) (x : Engine) : (d.setEngn e x).damage = d.damage := rfl

/-! ### `Dev.setHth` -/

@[simp] theorem Dev.setHth_time (d : Dev) (h : Nat) (x : Hearth) : (d.setHth h x).time = d.time := rfl
@[simp] theorem Dev.setHth_regs (d : Dev) (h : Nat) (x : Hearth) : (d.setHth h x).regs = d.regs := rfl
@[simp] theorem Dev.setHth_ctrs (d : Dev) (h : Nat) (x : Hearth) : (d.setHth h x).ctrs = d.ctrs := rfl
@[simp] theorem Dev.setHth_latches (d : Dev) (h : Nat) (x : Hearth) : (d.setHth h x).latches = d.latches := rfl
@[simp] theorem Dev.setHth_answers (d : Dev) (h : Nat) (x : Hearth) : (d.setHth h x).answers = d.answers := rfl
@[simp] theorem Dev.setHth_log (d : Dev) (h : Nat) (x : Hearth) : (d.setHth h x).log = d.log := rfl
@[simp] theorem Dev.setHth_mem (d : Dev) (h : Nat) (x : Hearth) : (d.setHth h x).mem = d.mem := rfl
@[simp] theorem Dev.setHth_dsp (d : Dev) (h : Nat) (x : Hearth) : (d.setHth h x).dsp = d.dsp := rfl
@[simp] theorem Dev.setHth_rel (d : Dev) (h : Nat) (x : Hearth) : (d.setHth h x).rel = d.rel := rfl
@[simp] theorem Dev.setHth_lck (d : Dev) (h : Nat) (x : Hearth) : (d.setHth h x).lck = d.lck := rfl
@[simp] theorem Dev.setHth_mmu (d : Dev) (h : Nat) (x : Hearth) : (d.setHth h x).mmu = d.mmu := rfl
@[simp] theorem Dev.setHth_lnk (d : Dev) (h : Nat) (x : Hearth) : (d.setHth h x).lnk = d.lnk := rfl
@[simp] theorem Dev.setHth_bpm (d : Dev) (h : Nat) (x : Hearth) : (d.setHth h x).bpm = d.bpm := rfl
@[simp] theorem Dev.setHth_top (d : Dev) (h : Nat) (x : Hearth) : (d.setHth h x).top = d.top := rfl
@[simp] theorem Dev.setHth_prt (d : Dev) (h : Nat) (x : Hearth) : (d.setHth h x).prt = d.prt := rfl
@[simp] theorem Dev.setHth_mil (d : Dev) (h : Nat) (x : Hearth) : (d.setHth h x).mil = d.mil := rfl
@[simp] theorem Dev.setHth_chm (d : Dev) (h : Nat) (x : Hearth) : (d.setHth h x).chm = d.chm := rfl
@[simp] theorem Dev.setHth_blw (d : Dev) (h : Nat) (x : Hearth) : (d.setHth h x).blw = d.blw := rfl
@[simp] theorem Dev.setHth_loc (d : Dev) (h : Nat) (x : Hearth) : (d.setHth h x).loc = d.loc := rfl
@[simp] theorem Dev.setHth_damage (d : Dev) (h : Nat) (x : Hearth) : (d.setHth h x).damage = d.damage := rfl

/-! ### `Dev.wr` -/

@[simp] theorem Dev.wr_time (d : Dev) (k : RegKind) (i j : Nat) (v : W32) : (d.wr k i j v).time = d.time := rfl
@[simp] theorem Dev.wr_ctrs (d : Dev) (k : RegKind) (i j : Nat) (v : W32) : (d.wr k i j v).ctrs = d.ctrs := rfl
@[simp] theorem Dev.wr_latches (d : Dev) (k : RegKind) (i j : Nat) (v : W32) : (d.wr k i j v).latches = d.latches := rfl
@[simp] theorem Dev.wr_answers (d : Dev) (k : RegKind) (i j : Nat) (v : W32) : (d.wr k i j v).answers = d.answers := rfl
@[simp] theorem Dev.wr_log (d : Dev) (k : RegKind) (i j : Nat) (v : W32) : (d.wr k i j v).log = d.log := rfl
@[simp] theorem Dev.wr_mem (d : Dev) (k : RegKind) (i j : Nat) (v : W32) : (d.wr k i j v).mem = d.mem := rfl
@[simp] theorem Dev.wr_eng (d : Dev) (k : RegKind) (i j : Nat) (v : W32) : (d.wr k i j v).eng = d.eng := rfl
@[simp] theorem Dev.wr_dsp (d : Dev) (k : RegKind) (i j : Nat) (v : W32) : (d.wr k i j v).dsp = d.dsp := rfl
@[simp] theorem Dev.wr_rel (d : Dev) (k : RegKind) (i j : Nat) (v : W32) : (d.wr k i j v).rel = d.rel := rfl
@[simp] theorem Dev.wr_lck (d : Dev) (k : RegKind) (i j : Nat) (v : W32) : (d.wr k i j v).lck = d.lck := rfl
@[simp] theorem Dev.wr_mmu (d : Dev) (k : RegKind) (i j : Nat) (v : W32) : (d.wr k i j v).mmu = d.mmu := rfl
@[simp] theorem Dev.wr_lnk (d : Dev) (k : RegKind) (i j : Nat) (v : W32) : (d.wr k i j v).lnk = d.lnk := rfl
@[simp] theorem Dev.wr_bpm (d : Dev) (k : RegKind) (i j : Nat) (v : W32) : (d.wr k i j v).bpm = d.bpm := rfl
@[simp] theorem Dev.wr_top (d : Dev) (k : RegKind) (i j : Nat) (v : W32) : (d.wr k i j v).top = d.top := rfl
@[simp] theorem Dev.wr_prt (d : Dev) (k : RegKind) (i j : Nat) (v : W32) : (d.wr k i j v).prt = d.prt := rfl
@[simp] theorem Dev.wr_mil (d : Dev) (k : RegKind) (i j : Nat) (v : W32) : (d.wr k i j v).mil = d.mil := rfl
@[simp] theorem Dev.wr_chm (d : Dev) (k : RegKind) (i j : Nat) (v : W32) : (d.wr k i j v).chm = d.chm := rfl
@[simp] theorem Dev.wr_blw (d : Dev) (k : RegKind) (i j : Nat) (v : W32) : (d.wr k i j v).blw = d.blw := rfl
@[simp] theorem Dev.wr_loc (d : Dev) (k : RegKind) (i j : Nat) (v : W32) : (d.wr k i j v).loc = d.loc := rfl
@[simp] theorem Dev.wr_damage (d : Dev) (k : RegKind) (i j : Nat) (v : W32) : (d.wr k i j v).damage = d.damage := rfl

/-! ### `Dev.setTask` -/

@[simp] theorem Dev.setTask_time (d : Dev) (s : Nat) (x : Option Task) : (d.setTask s x).time = d.time := rfl
@[simp] theorem Dev.setTask_regs (d : Dev) (s : Nat) (x : Option Task) : (d.setTask s x).regs = d.regs := rfl
@[simp] theorem Dev.setTask_ctrs (d : Dev) (s : Nat) (x : Option Task) : (d.setTask s x).ctrs = d.ctrs := rfl
@[simp] theorem Dev.setTask_latches (d : Dev) (s : Nat) (x : Option Task) : (d.setTask s x).latches = d.latches := rfl
@[simp] theorem Dev.setTask_answers (d : Dev) (s : Nat) (x : Option Task) : (d.setTask s x).answers = d.answers := rfl
@[simp] theorem Dev.setTask_log (d : Dev) (s : Nat) (x : Option Task) : (d.setTask s x).log = d.log := rfl
@[simp] theorem Dev.setTask_mem (d : Dev) (s : Nat) (x : Option Task) : (d.setTask s x).mem = d.mem := rfl
@[simp] theorem Dev.setTask_eng (d : Dev) (s : Nat) (x : Option Task) : (d.setTask s x).eng = d.eng := rfl
@[simp] theorem Dev.setTask_rel (d : Dev) (s : Nat) (x : Option Task) : (d.setTask s x).rel = d.rel := rfl
@[simp] theorem Dev.setTask_lck (d : Dev) (s : Nat) (x : Option Task) : (d.setTask s x).lck = d.lck := rfl
@[simp] theorem Dev.setTask_mmu (d : Dev) (s : Nat) (x : Option Task) : (d.setTask s x).mmu = d.mmu := rfl
@[simp] theorem Dev.setTask_lnk (d : Dev) (s : Nat) (x : Option Task) : (d.setTask s x).lnk = d.lnk := rfl
@[simp] theorem Dev.setTask_bpm (d : Dev) (s : Nat) (x : Option Task) : (d.setTask s x).bpm = d.bpm := rfl
@[simp] theorem Dev.setTask_top (d : Dev) (s : Nat) (x : Option Task) : (d.setTask s x).top = d.top := rfl
@[simp] theorem Dev.setTask_prt (d : Dev) (s : Nat) (x : Option Task) : (d.setTask s x).prt = d.prt := rfl
@[simp] theorem Dev.setTask_mil (d : Dev) (s : Nat) (x : Option Task) : (d.setTask s x).mil = d.mil := rfl
@[simp] theorem Dev.setTask_chm (d : Dev) (s : Nat) (x : Option Task) : (d.setTask s x).chm = d.chm := rfl
@[simp] theorem Dev.setTask_blw (d : Dev) (s : Nat) (x : Option Task) : (d.setTask s x).blw = d.blw := rfl
@[simp] theorem Dev.setTask_loc (d : Dev) (s : Nat) (x : Option Task) : (d.setTask s x).loc = d.loc := rfl
@[simp] theorem Dev.setTask_damage (d : Dev) (s : Nat) (x : Option Task) : (d.setTask s x).damage = d.damage := rfl

/-! ### `Dev.setReady` -/

@[simp] theorem Dev.setReady_time (d : Dev) (h c : Nat) (l : List Nat) : (d.setReady h c l).time = d.time := rfl
@[simp] theorem Dev.setReady_regs (d : Dev) (h c : Nat) (l : List Nat) : (d.setReady h c l).regs = d.regs := rfl
@[simp] theorem Dev.setReady_ctrs (d : Dev) (h c : Nat) (l : List Nat) : (d.setReady h c l).ctrs = d.ctrs := rfl
@[simp] theorem Dev.setReady_latches (d : Dev) (h c : Nat) (l : List Nat) : (d.setReady h c l).latches = d.latches := rfl
@[simp] theorem Dev.setReady_answers (d : Dev) (h c : Nat) (l : List Nat) : (d.setReady h c l).answers = d.answers := rfl
@[simp] theorem Dev.setReady_log (d : Dev) (h c : Nat) (l : List Nat) : (d.setReady h c l).log = d.log := rfl
@[simp] theorem Dev.setReady_mem (d : Dev) (h c : Nat) (l : List Nat) : (d.setReady h c l).mem = d.mem := rfl
@[simp] theorem Dev.setReady_eng (d : Dev) (h c : Nat) (l : List Nat) : (d.setReady h c l).eng = d.eng := rfl
@[simp] theorem Dev.setReady_rel (d : Dev) (h c : Nat) (l : List Nat) : (d.setReady h c l).rel = d.rel := rfl
@[simp] theorem Dev.setReady_lck (d : Dev) (h c : Nat) (l : List Nat) : (d.setReady h c l).lck = d.lck := rfl
@[simp] theorem Dev.setReady_mmu (d : Dev) (h c : Nat) (l : List Nat) : (d.setReady h c l).mmu = d.mmu := rfl
@[simp] theorem Dev.setReady_lnk (d : Dev) (h c : Nat) (l : List Nat) : (d.setReady h c l).lnk = d.lnk := rfl
@[simp] theorem Dev.setReady_bpm (d : Dev) (h c : Nat) (l : List Nat) : (d.setReady h c l).bpm = d.bpm := rfl
@[simp] theorem Dev.setReady_top (d : Dev) (h c : Nat) (l : List Nat) : (d.setReady h c l).top = d.top := rfl
@[simp] theorem Dev.setReady_prt (d : Dev) (h c : Nat) (l : List Nat) : (d.setReady h c l).prt = d.prt := rfl
@[simp] theorem Dev.setReady_mil (d : Dev) (h c : Nat) (l : List Nat) : (d.setReady h c l).mil = d.mil := rfl
@[simp] theorem Dev.setReady_chm (d : Dev) (h c : Nat) (l : List Nat) : (d.setReady h c l).chm = d.chm := rfl
@[simp] theorem Dev.setReady_blw (d : Dev) (h c : Nat) (l : List Nat) : (d.setReady h c l).blw = d.blw := rfl
@[simp] theorem Dev.setReady_loc (d : Dev) (h c : Nat) (l : List Nat) : (d.setReady h c l).loc = d.loc := rfl
@[simp] theorem Dev.setReady_damage (d : Dev) (h c : Nat) (l : List Nat) : (d.setReady h c l).damage = d.damage := rfl

/-! ### `Dev.count64` -/

@[simp] theorem Dev.count64_time (d : Dev) (k : CtrKind) (i j n : Nat) : (d.count64 k i j n).time = d.time := rfl
@[simp] theorem Dev.count64_regs (d : Dev) (k : CtrKind) (i j n : Nat) : (d.count64 k i j n).regs = d.regs := rfl
@[simp] theorem Dev.count64_latches (d : Dev) (k : CtrKind) (i j n : Nat) : (d.count64 k i j n).latches = d.latches := rfl
@[simp] theorem Dev.count64_answers (d : Dev) (k : CtrKind) (i j n : Nat) : (d.count64 k i j n).answers = d.answers := rfl
@[simp] theorem Dev.count64_log (d : Dev) (k : CtrKind) (i j n : Nat) : (d.count64 k i j n).log = d.log := rfl
@[simp] theorem Dev.count64_mem (d : Dev) (k : CtrKind) (i j n : Nat) : (d.count64 k i j n).mem = d.mem := rfl
@[simp] theorem Dev.count64_eng (d : Dev) (k : CtrKind) (i j n : Nat) : (d.count64 k i j n).eng = d.eng := rfl
@[simp] theorem Dev.count64_dsp (d : Dev) (k : CtrKind) (i j n : Nat) : (d.count64 k i j n).dsp = d.dsp := rfl
@[simp] theorem Dev.count64_rel (d : Dev) (k : CtrKind) (i j n : Nat) : (d.count64 k i j n).rel = d.rel := rfl
@[simp] theorem Dev.count64_lck (d : Dev) (k : CtrKind) (i j n : Nat) : (d.count64 k i j n).lck = d.lck := rfl
@[simp] theorem Dev.count64_mmu (d : Dev) (k : CtrKind) (i j n : Nat) : (d.count64 k i j n).mmu = d.mmu := rfl
@[simp] theorem Dev.count64_lnk (d : Dev) (k : CtrKind) (i j n : Nat) : (d.count64 k i j n).lnk = d.lnk := rfl
@[simp] theorem Dev.count64_bpm (d : Dev) (k : CtrKind) (i j n : Nat) : (d.count64 k i j n).bpm = d.bpm := rfl
@[simp] theorem Dev.count64_top (d : Dev) (k : CtrKind) (i j n : Nat) : (d.count64 k i j n).top = d.top := rfl
@[simp] theorem Dev.count64_prt (d : Dev) (k : CtrKind) (i j n : Nat) : (d.count64 k i j n).prt = d.prt := rfl
@[simp] theorem Dev.count64_mil (d : Dev) (k : CtrKind) (i j n : Nat) : (d.count64 k i j n).mil = d.mil := rfl
@[simp] theorem Dev.count64_chm (d : Dev) (k : CtrKind) (i j n : Nat) : (d.count64 k i j n).chm = d.chm := rfl
@[simp] theorem Dev.count64_blw (d : Dev) (k : CtrKind) (i j n : Nat) : (d.count64 k i j n).blw = d.blw := rfl
@[simp] theorem Dev.count64_loc (d : Dev) (k : CtrKind) (i j n : Nat) : (d.count64 k i j n).loc = d.loc := rfl
@[simp] theorem Dev.count64_damage (d : Dev) (k : CtrKind) (i j n : Nat) : (d.count64 k i j n).damage = d.damage := rfl

/-! ### `Dev.setTkt` -/

@[simp] theorem Dev.setTkt_time (d : Dev) (n : Nat) (x : Ticket) : (d.setTkt n x).time = d.time := rfl
@[simp] theorem Dev.setTkt_regs (d : Dev) (n : Nat) (x : Ticket) : (d.setTkt n x).regs = d.regs := rfl
@[simp] theorem Dev.setTkt_ctrs (d : Dev) (n : Nat) (x : Ticket) : (d.setTkt n x).ctrs = d.ctrs := rfl
@[simp] theorem Dev.setTkt_latches (d : Dev) (n : Nat) (x : Ticket) : (d.setTkt n x).latches = d.latches := rfl
@[simp] theorem Dev.setTkt_answers (d : Dev) (n : Nat) (x : Ticket) : (d.setTkt n x).answers = d.answers := rfl
@[simp] theorem Dev.setTkt_log (d : Dev) (n : Nat) (x : Ticket) : (d.setTkt n x).log = d.log := rfl
@[simp] theorem Dev.setTkt_mem (d : Dev) (n : Nat) (x : Ticket) : (d.setTkt n x).mem = d.mem := rfl
@[simp] theorem Dev.setTkt_eng (d : Dev) (n : Nat) (x : Ticket) : (d.setTkt n x).eng = d.eng := rfl
@[simp] theorem Dev.setTkt_dsp (d : Dev) (n : Nat) (x : Ticket) : (d.setTkt n x).dsp = d.dsp := rfl
@[simp] theorem Dev.setTkt_lck (d : Dev) (n : Nat) (x : Ticket) : (d.setTkt n x).lck = d.lck := rfl
@[simp] theorem Dev.setTkt_mmu (d : Dev) (n : Nat) (x : Ticket) : (d.setTkt n x).mmu = d.mmu := rfl
@[simp] theorem Dev.setTkt_lnk (d : Dev) (n : Nat) (x : Ticket) : (d.setTkt n x).lnk = d.lnk := rfl
@[simp] theorem Dev.setTkt_bpm (d : Dev) (n : Nat) (x : Ticket) : (d.setTkt n x).bpm = d.bpm := rfl
@[simp] theorem Dev.setTkt_top (d : Dev) (n : Nat) (x : Ticket) : (d.setTkt n x).top = d.top := rfl
@[simp] theorem Dev.setTkt_prt (d : Dev) (n : Nat) (x : Ticket) : (d.setTkt n x).prt = d.prt := rfl
@[simp] theorem Dev.setTkt_mil (d : Dev) (n : Nat) (x : Ticket) : (d.setTkt n x).mil = d.mil := rfl
@[simp] theorem Dev.setTkt_chm (d : Dev) (n : Nat) (x : Ticket) : (d.setTkt n x).chm = d.chm := rfl
@[simp] theorem Dev.setTkt_blw (d : Dev) (n : Nat) (x : Ticket) : (d.setTkt n x).blw = d.blw := rfl
@[simp] theorem Dev.setTkt_loc (d : Dev) (n : Nat) (x : Ticket) : (d.setTkt n x).loc = d.loc := rfl
@[simp] theorem Dev.setTkt_damage (d : Dev) (n : Nat) (x : Ticket) : (d.setTkt n x).damage = d.damage := rfl

/-! ### `Dev.setFlue` -/

@[simp] theorem Dev.setFlue_time (d : Dev) (f : Nat) (l : List FlueMsg) : (d.setFlue f l).time = d.time := rfl
@[simp] theorem Dev.setFlue_regs (d : Dev) (f : Nat) (l : List FlueMsg) : (d.setFlue f l).regs = d.regs := rfl
@[simp] theorem Dev.setFlue_ctrs (d : Dev) (f : Nat) (l : List FlueMsg) : (d.setFlue f l).ctrs = d.ctrs := rfl
@[simp] theorem Dev.setFlue_latches (d : Dev) (f : Nat) (l : List FlueMsg) : (d.setFlue f l).latches = d.latches := rfl
@[simp] theorem Dev.setFlue_answers (d : Dev) (f : Nat) (l : List FlueMsg) : (d.setFlue f l).answers = d.answers := rfl
@[simp] theorem Dev.setFlue_log (d : Dev) (f : Nat) (l : List FlueMsg) : (d.setFlue f l).log = d.log := rfl
@[simp] theorem Dev.setFlue_mem (d : Dev) (f : Nat) (l : List FlueMsg) : (d.setFlue f l).mem = d.mem := rfl
@[simp] theorem Dev.setFlue_dsp (d : Dev) (f : Nat) (l : List FlueMsg) : (d.setFlue f l).dsp = d.dsp := rfl
@[simp] theorem Dev.setFlue_rel (d : Dev) (f : Nat) (l : List FlueMsg) : (d.setFlue f l).rel = d.rel := rfl
@[simp] theorem Dev.setFlue_lck (d : Dev) (f : Nat) (l : List FlueMsg) : (d.setFlue f l).lck = d.lck := rfl
@[simp] theorem Dev.setFlue_mmu (d : Dev) (f : Nat) (l : List FlueMsg) : (d.setFlue f l).mmu = d.mmu := rfl
@[simp] theorem Dev.setFlue_lnk (d : Dev) (f : Nat) (l : List FlueMsg) : (d.setFlue f l).lnk = d.lnk := rfl
@[simp] theorem Dev.setFlue_bpm (d : Dev) (f : Nat) (l : List FlueMsg) : (d.setFlue f l).bpm = d.bpm := rfl
@[simp] theorem Dev.setFlue_top (d : Dev) (f : Nat) (l : List FlueMsg) : (d.setFlue f l).top = d.top := rfl
@[simp] theorem Dev.setFlue_prt (d : Dev) (f : Nat) (l : List FlueMsg) : (d.setFlue f l).prt = d.prt := rfl
@[simp] theorem Dev.setFlue_mil (d : Dev) (f : Nat) (l : List FlueMsg) : (d.setFlue f l).mil = d.mil := rfl
@[simp] theorem Dev.setFlue_chm (d : Dev) (f : Nat) (l : List FlueMsg) : (d.setFlue f l).chm = d.chm := rfl
@[simp] theorem Dev.setFlue_blw (d : Dev) (f : Nat) (l : List FlueMsg) : (d.setFlue f l).blw = d.blw := rfl
@[simp] theorem Dev.setFlue_loc (d : Dev) (f : Nat) (l : List FlueMsg) : (d.setFlue f l).loc = d.loc := rfl
@[simp] theorem Dev.setFlue_damage (d : Dev) (f : Nat) (l : List FlueMsg) : (d.setFlue f l).damage = d.damage := rfl

/-! ### `Dev.lockSend` -/

@[simp] theorem Dev.lockSend_time (d : Dev) (m : LockMsg) : (d.lockSend m).time = d.time := rfl
@[simp] theorem Dev.lockSend_regs (d : Dev) (m : LockMsg) : (d.lockSend m).regs = d.regs := rfl
@[simp] theorem Dev.lockSend_ctrs (d : Dev) (m : LockMsg) : (d.lockSend m).ctrs = d.ctrs := rfl
@[simp] theorem Dev.lockSend_latches (d : Dev) (m : LockMsg) : (d.lockSend m).latches = d.latches := rfl
@[simp] theorem Dev.lockSend_answers (d : Dev) (m : LockMsg) : (d.lockSend m).answers = d.answers := rfl
@[simp] theorem Dev.lockSend_log (d : Dev) (m : LockMsg) : (d.lockSend m).log = d.log := rfl
@[simp] theorem Dev.lockSend_mem (d : Dev) (m : LockMsg) : (d.lockSend m).mem = d.mem := rfl
@[simp] theorem Dev.lockSend_eng (d : Dev) (m : LockMsg) : (d.lockSend m).eng = d.eng := rfl
@[simp] theorem Dev.lockSend_dsp (d : Dev) (m : LockMsg) : (d.lockSend m).dsp = d.dsp := rfl
@[simp] theorem Dev.lockSend_rel (d : Dev) (m : LockMsg) : (d.lockSend m).rel = d.rel := rfl
@[simp] theorem Dev.lockSend_mmu (d : Dev) (m : LockMsg) : (d.lockSend m).mmu = d.mmu := rfl
@[simp] theorem Dev.lockSend_lnk (d : Dev) (m : LockMsg) : (d.lockSend m).lnk = d.lnk := rfl
@[simp] theorem Dev.lockSend_bpm (d : Dev) (m : LockMsg) : (d.lockSend m).bpm = d.bpm := rfl
@[simp] theorem Dev.lockSend_top (d : Dev) (m : LockMsg) : (d.lockSend m).top = d.top := rfl
@[simp] theorem Dev.lockSend_prt (d : Dev) (m : LockMsg) : (d.lockSend m).prt = d.prt := rfl
@[simp] theorem Dev.lockSend_mil (d : Dev) (m : LockMsg) : (d.lockSend m).mil = d.mil := rfl
@[simp] theorem Dev.lockSend_chm (d : Dev) (m : LockMsg) : (d.lockSend m).chm = d.chm := rfl
@[simp] theorem Dev.lockSend_blw (d : Dev) (m : LockMsg) : (d.lockSend m).blw = d.blw := rfl
@[simp] theorem Dev.lockSend_loc (d : Dev) (m : LockMsg) : (d.lockSend m).loc = d.loc := rfl
@[simp] theorem Dev.lockSend_damage (d : Dev) (m : LockMsg) : (d.lockSend m).damage = d.damage := rfl

/-! ### `Dev.setFld` -/

@[simp] theorem Dev.setFld_time (d : Dev) (k : RegKind) (i j hi lo x : Nat) : (d.setFld k i j hi lo x).time = d.time := rfl
@[simp] theorem Dev.setFld_ctrs (d : Dev) (k : RegKind) (i j hi lo x : Nat) : (d.setFld k i j hi lo x).ctrs = d.ctrs := rfl
@[simp] theorem Dev.setFld_latches (d : Dev) (k : RegKind) (i j hi lo x : Nat) : (d.setFld k i j hi lo x).latches = d.latches := rfl
@[simp] theorem Dev.setFld_answers (d : Dev) (k : RegKind) (i j hi lo x : Nat) : (d.setFld k i j hi lo x).answers = d.answers := rfl
@[simp] theorem Dev.setFld_log (d : Dev) (k : RegKind) (i j hi lo x : Nat) : (d.setFld k i j hi lo x).log = d.log := rfl
@[simp] theorem Dev.setFld_mem (d : Dev) (k : RegKind) (i j hi lo x : Nat) : (d.setFld k i j hi lo x).mem = d.mem := rfl
@[simp] theorem Dev.setFld_eng (d : Dev) (k : RegKind) (i j hi lo x : Nat) : (d.setFld k i j hi lo x).eng = d.eng := rfl
@[simp] theorem Dev.setFld_dsp (d : Dev) (k : RegKind) (i j hi lo x : Nat) : (d.setFld k i j hi lo x).dsp = d.dsp := rfl
@[simp] theorem Dev.setFld_rel (d : Dev) (k : RegKind) (i j hi lo x : Nat) : (d.setFld k i j hi lo x).rel = d.rel := rfl
@[simp] theorem Dev.setFld_lck (d : Dev) (k : RegKind) (i j hi lo x : Nat) : (d.setFld k i j hi lo x).lck = d.lck := rfl
@[simp] theorem Dev.setFld_mmu (d : Dev) (k : RegKind) (i j hi lo x : Nat) : (d.setFld k i j hi lo x).mmu = d.mmu := rfl
@[simp] theorem Dev.setFld_lnk (d : Dev) (k : RegKind) (i j hi lo x : Nat) : (d.setFld k i j hi lo x).lnk = d.lnk := rfl
@[simp] theorem Dev.setFld_bpm (d : Dev) (k : RegKind) (i j hi lo x : Nat) : (d.setFld k i j hi lo x).bpm = d.bpm := rfl
@[simp] theorem Dev.setFld_top (d : Dev) (k : RegKind) (i j hi lo x : Nat) : (d.setFld k i j hi lo x).top = d.top := rfl
@[simp] theorem Dev.setFld_prt (d : Dev) (k : RegKind) (i j hi lo x : Nat) : (d.setFld k i j hi lo x).prt = d.prt := rfl
@[simp] theorem Dev.setFld_mil (d : Dev) (k : RegKind) (i j hi lo x : Nat) : (d.setFld k i j hi lo x).mil = d.mil := rfl
@[simp] theorem Dev.setFld_chm (d : Dev) (k : RegKind) (i j hi lo x : Nat) : (d.setFld k i j hi lo x).chm = d.chm := rfl
@[simp] theorem Dev.setFld_blw (d : Dev) (k : RegKind) (i j hi lo x : Nat) : (d.setFld k i j hi lo x).blw = d.blw := rfl
@[simp] theorem Dev.setFld_loc (d : Dev) (k : RegKind) (i j hi lo x : Nat) : (d.setFld k i j hi lo x).loc = d.loc := rfl
@[simp] theorem Dev.setFld_damage (d : Dev) (k : RegKind) (i j hi lo x : Nat) : (d.setFld k i j hi lo x).damage = d.damage := rfl

/-! ### `Dev.setBit` -/

@[simp] theorem Dev.setBit_time (d : Dev) (k : RegKind) (i j b : Nat) (x : Bool) : (d.setBit k i j b x).time = d.time := rfl
@[simp] theorem Dev.setBit_ctrs (d : Dev) (k : RegKind) (i j b : Nat) (x : Bool) : (d.setBit k i j b x).ctrs = d.ctrs := rfl
@[simp] theorem Dev.setBit_latches (d : Dev) (k : RegKind) (i j b : Nat) (x : Bool) : (d.setBit k i j b x).latches = d.latches := rfl
@[simp] theorem Dev.setBit_answers (d : Dev) (k : RegKind) (i j b : Nat) (x : Bool) : (d.setBit k i j b x).answers = d.answers := rfl
@[simp] theorem Dev.setBit_log (d : Dev) (k : RegKind) (i j b : Nat) (x : Bool) : (d.setBit k i j b x).log = d.log := rfl
@[simp] theorem Dev.setBit_mem (d : Dev) (k : RegKind) (i j b : Nat) (x : Bool) : (d.setBit k i j b x).mem = d.mem := rfl
@[simp] theorem Dev.setBit_eng (d : Dev) (k : RegKind) (i j b : Nat) (x : Bool) : (d.setBit k i j b x).eng = d.eng := rfl
@[simp] theorem Dev.setBit_dsp (d : Dev) (k : RegKind) (i j b : Nat) (x : Bool) : (d.setBit k i j b x).dsp = d.dsp := rfl
@[simp] theorem Dev.setBit_rel (d : Dev) (k : RegKind) (i j b : Nat) (x : Bool) : (d.setBit k i j b x).rel = d.rel := rfl
@[simp] theorem Dev.setBit_lck (d : Dev) (k : RegKind) (i j b : Nat) (x : Bool) : (d.setBit k i j b x).lck = d.lck := rfl
@[simp] theorem Dev.setBit_mmu (d : Dev) (k : RegKind) (i j b : Nat) (x : Bool) : (d.setBit k i j b x).mmu = d.mmu := rfl
@[simp] theorem Dev.setBit_lnk (d : Dev) (k : RegKind) (i j b : Nat) (x : Bool) : (d.setBit k i j b x).lnk = d.lnk := rfl
@[simp] theorem Dev.setBit_bpm (d : Dev) (k : RegKind) (i j b : Nat) (x : Bool) : (d.setBit k i j b x).bpm = d.bpm := rfl
@[simp] theorem Dev.setBit_top (d : Dev) (k : RegKind) (i j b : Nat) (x : Bool) : (d.setBit k i j b x).top = d.top := rfl
@[simp] theorem Dev.setBit_prt (d : Dev) (k : RegKind) (i j b : Nat) (x : Bool) : (d.setBit k i j b x).prt = d.prt := rfl
@[simp] theorem Dev.setBit_mil (d : Dev) (k : RegKind) (i j b : Nat) (x : Bool) : (d.setBit k i j b x).mil = d.mil := rfl
@[simp] theorem Dev.setBit_chm (d : Dev) (k : RegKind) (i j b : Nat) (x : Bool) : (d.setBit k i j b x).chm = d.chm := rfl
@[simp] theorem Dev.setBit_blw (d : Dev) (k : RegKind) (i j b : Nat) (x : Bool) : (d.setBit k i j b x).blw = d.blw := rfl
@[simp] theorem Dev.setBit_loc (d : Dev) (k : RegKind) (i j b : Nat) (x : Bool) : (d.setBit k i j b x).loc = d.loc := rfl
@[simp] theorem Dev.setBit_damage (d : Dev) (k : RegKind) (i j b : Nat) (x : Bool) : (d.setBit k i j b x).damage = d.damage := rfl
@[simp] theorem Dev.setThr_eng_engines (d : Dev) (g : Nat) (x : Thread) : (d.setThr g x).eng.engines = d.eng.engines := rfl
@[simp] theorem Dev.setThr_eng_hearths (d : Dev) (g : Nat) (x : Thread) : (d.setThr g x).eng.hearths = d.eng.hearths := rfl
@[simp] theorem Dev.setThr_eng_flues (d : Dev) (g : Nat) (x : Thread) : (d.setThr g x).eng.flues = d.eng.flues := rfl
@[simp] theorem Dev.setThr_eng_cregs (d : Dev) (g : Nat) (x : Thread) : (d.setThr g x).eng.cregs = d.eng.cregs := rfl
@[simp] theorem Dev.setThr_eng_kept (d : Dev) (g : Nat) (x : Thread) : (d.setThr g x).eng.kept = d.eng.kept := rfl
@[simp] theorem Dev.setThr_eng_cerr (d : Dev) (g : Nat) (x : Thread) : (d.setThr g x).eng.cerr = d.eng.cerr := rfl
@[simp] theorem Dev.setThr_eng_seq (d : Dev) (g : Nat) (x : Thread) : (d.setThr g x).eng.seq = d.eng.seq := rfl
@[simp] theorem Dev.setEngn_eng_threads (d : Dev) (e : Nat) (x : Engine) : (d.setEngn e x).eng.threads = d.eng.threads := rfl
@[simp] theorem Dev.setEngn_eng_hearths (d : Dev) (e : Nat) (x : Engine) : (d.setEngn e x).eng.hearths = d.eng.hearths := rfl
@[simp] theorem Dev.setEngn_eng_flues (d : Dev) (e : Nat) (x : Engine) : (d.setEngn e x).eng.flues = d.eng.flues := rfl
@[simp] theorem Dev.setEngn_eng_cregs (d : Dev) (e : Nat) (x : Engine) : (d.setEngn e x).eng.cregs = d.eng.cregs := rfl
@[simp] theorem Dev.setEngn_eng_kept (d : Dev) (e : Nat) (x : Engine) : (d.setEngn e x).eng.kept = d.eng.kept := rfl
@[simp] theorem Dev.setEngn_eng_cerr (d : Dev) (e : Nat) (x : Engine) : (d.setEngn e x).eng.cerr = d.eng.cerr := rfl
@[simp] theorem Dev.setEngn_eng_seq (d : Dev) (e : Nat) (x : Engine) : (d.setEngn e x).eng.seq = d.eng.seq := rfl
@[simp] theorem Dev.setHth_eng_threads (d : Dev) (h : Nat) (x : Hearth) : (d.setHth h x).eng.threads = d.eng.threads := rfl
@[simp] theorem Dev.setHth_eng_engines (d : Dev) (h : Nat) (x : Hearth) : (d.setHth h x).eng.engines = d.eng.engines := rfl
@[simp] theorem Dev.setHth_eng_flues (d : Dev) (h : Nat) (x : Hearth) : (d.setHth h x).eng.flues = d.eng.flues := rfl
@[simp] theorem Dev.setHth_eng_cregs (d : Dev) (h : Nat) (x : Hearth) : (d.setHth h x).eng.cregs = d.eng.cregs := rfl
@[simp] theorem Dev.setHth_eng_kept (d : Dev) (h : Nat) (x : Hearth) : (d.setHth h x).eng.kept = d.eng.kept := rfl
@[simp] theorem Dev.setHth_eng_cerr (d : Dev) (h : Nat) (x : Hearth) : (d.setHth h x).eng.cerr = d.eng.cerr := rfl
@[simp] theorem Dev.setHth_eng_seq (d : Dev) (h : Nat) (x : Hearth) : (d.setHth h x).eng.seq = d.eng.seq := rfl
@[simp] theorem Dev.setFlue_eng_threads (d : Dev) (f : Nat) (l : List FlueMsg) : (d.setFlue f l).eng.threads = d.eng.threads := rfl
@[simp] theorem Dev.setFlue_eng_engines (d : Dev) (f : Nat) (l : List FlueMsg) : (d.setFlue f l).eng.engines = d.eng.engines := rfl
@[simp] theorem Dev.setFlue_eng_hearths (d : Dev) (f : Nat) (l : List FlueMsg) : (d.setFlue f l).eng.hearths = d.eng.hearths := rfl
@[simp] theorem Dev.setFlue_eng_cregs (d : Dev) (f : Nat) (l : List FlueMsg) : (d.setFlue f l).eng.cregs = d.eng.cregs := rfl
@[simp] theorem Dev.setFlue_eng_kept (d : Dev) (f : Nat) (l : List FlueMsg) : (d.setFlue f l).eng.kept = d.eng.kept := rfl
@[simp] theorem Dev.setFlue_eng_cerr (d : Dev) (f : Nat) (l : List FlueMsg) : (d.setFlue f l).eng.cerr = d.eng.cerr := rfl
@[simp] theorem Dev.setFlue_eng_seq (d : Dev) (f : Nat) (l : List FlueMsg) : (d.setFlue f l).eng.seq = d.eng.seq := rfl

/-! ### Reads after writes -/

@[simp] theorem Dev.thr_setThr_same (d : Dev) (g : Nat) (x : Thread) : (d.setThr g x).thr g = x := by
  simp [Dev.thr, Dev.setThr]
theorem Dev.thr_setThr_ne (d : Dev) {g h : Nat} (x : Thread) (hne : h ≠ g) : (d.setThr g x).thr h = d.thr h := by
  simp [Dev.thr, Dev.setThr, Map.get_set_ne _ _ _ hne]
@[simp] theorem Dev.setThr_setThr (d : Dev) (g : Nat) (x y : Thread) : (d.setThr g x).setThr g y = d.setThr g y := by
  simp [Dev.setThr]
@[simp] theorem Dev.thr_updThr_same (d : Dev) (g : Nat) (f : Thread → Thread) : (d.updThr g f).thr g = f (d.thr g) := by
  simp [Dev.updThr]
@[simp] theorem Dev.setThr_updThr (d : Dev) (g : Nat) (f : Thread → Thread) (y : Thread) :
    (d.updThr g f).setThr g y = d.setThr g y := by
  simp [Dev.updThr]
@[simp] theorem Dev.updThr_setThr (d : Dev) (g : Nat) (x : Thread) (f : Thread → Thread) :
    (d.setThr g x).updThr g f = d.setThr g (f x) := by
  simp [Dev.updThr]
theorem Dev.updThr_eq (d : Dev) (g : Nat) (f : Thread → Thread) : d.updThr g f = d.setThr g (f (d.thr g)) := rfl
@[simp] theorem Dev.engn_setThr (d : Dev) (g e : Nat) (x : Thread) : (d.setThr g x).engn e = d.engn e := rfl
@[simp] theorem Dev.hth_setThr (d : Dev) (g h : Nat) (x : Thread) : (d.setThr g x).hth h = d.hth h := rfl
@[simp] theorem Dev.rd_setThr (d : Dev) (g : Nat) (x : Thread) (k : RegKind) (i j : Nat) :
    (d.setThr g x).rd k i j = d.rd k i j := rfl
@[simp] theorem Dev.engn_setEngn_same (d : Dev) (e : Nat) (x : Engine) : (d.setEngn e x).engn e = x := by
  simp [Dev.engn, Dev.setEngn]
theorem Dev.engn_setEngn_ne (d : Dev) {e f : Nat} (x : Engine) (hne : f ≠ e) : (d.setEngn e x).engn f = d.engn f := by
  simp [Dev.engn, Dev.setEngn, Map.get_set_ne _ _ _ hne]
@[simp] theorem Dev.thr_setEngn (d : Dev) (e g : Nat) (x : Engine) : (d.setEngn e x).thr g = d.thr g := rfl
@[simp] theorem Dev.hth_setEngn (d : Dev) (e h : Nat) (x : Engine) : (d.setEngn e x).hth h = d.hth h := rfl
@[simp] theorem Dev.setEngn_setEngn (d : Dev) (e : Nat) (x y : Engine) : (d.setEngn e x).setEngn e y = d.setEngn e y := by
  simp [Dev.setEngn]
@[simp] theorem Dev.hth_setHth_same (d : Dev) (h : Nat) (x : Hearth) : (d.setHth h x).hth h = x := by
  simp [Dev.hth, Dev.setHth]
@[simp] theorem Dev.thr_setHth (d : Dev) (h g : Nat) (x : Hearth) : (d.setHth h x).thr g = d.thr g := rfl
@[simp] theorem Dev.engn_setHth (d : Dev) (h e : Nat) (x : Hearth) : (d.setHth h x).engn e = d.engn e := rfl
@[simp] theorem Dev.setHth_setHth (d : Dev) (h : Nat) (x y : Hearth) : (d.setHth h x).setHth h y = d.setHth h y := by
  simp [Dev.setHth]
@[simp] theorem Dev.rd_wr_same (d : Dev) (k : RegKind) (i j : Nat) (v : W32) : (d.wr k i j v).rd k i j = v := by
  simp [Dev.rd, Dev.wr]
theorem Dev.rd_wr_ne (d : Dev) {k k' : RegKind} {i j i' j' : Nat} (v : W32) (h : k'.off i' j' ≠ k.off i j) :
    (d.wr k i j v).rd k' i' j' = d.rd k' i' j' := by
  simp [Dev.rd, Dev.wr, Map.get_set_ne _ _ _ h]
@[simp] theorem Dev.wr_wr (d : Dev) (k : RegKind) (i j : Nat) (v w : W32) : (d.wr k i j v).wr k i j w = d.wr k i j w := by
  simp [Dev.wr]
@[simp] theorem Dev.thr_wr (d : Dev) (k : RegKind) (i j g : Nat) (v : W32) : (d.wr k i j v).thr g = d.thr g := rfl
@[simp] theorem Dev.task_setTask_same (d : Dev) (s : Nat) (x : Option Task) : (d.setTask s x).task s = x := by
  simp [Dev.task, Dev.setTask]
theorem Dev.task_setTask_ne (d : Dev) {s u : Nat} (x : Option Task) (h : u ≠ s) : (d.setTask s x).task u = d.task u := by
  simp [Dev.task, Dev.setTask, Map.get_set_ne _ _ _ h]
@[simp] theorem Dev.setTask_setTask (d : Dev) (s : Nat) (x y : Option Task) : (d.setTask s x).setTask s y = d.setTask s y := by
  simp [Dev.setTask]
@[simp] theorem Dev.readyList_setReady_same (d : Dev) (h c : Nat) (l : List Nat) : (d.setReady h c l).readyList h c = l := by
  simp [Dev.readyList, Dev.setReady]
@[simp] theorem Dev.ctr_count64 (d : Dev) (k : CtrKind) (i j n : Nat) :
    (d.count64 k i j n).ctr k i j = d.ctr k i j + BitVec.ofNat 64 n := by
  simp [Dev.ctr, Dev.count64, Map.upd]
theorem Dev.ctr_count64_ne (d : Dev) {k k' : CtrKind} {i j i' j' : Nat} (n : Nat) (h : k'.off i' j' ≠ k.off i j) :
    (d.count64 k i j n).ctr k' i' j' = d.ctr k' i' j' := by
  simp [Dev.ctr, Dev.count64, Map.upd, Map.get_set_ne _ _ _ h]

/-! ### General words -/

@[simp] theorem Thread.get_set_same (t : Thread) (n : Nat) (x : Word) : (t.set n x).get n = x := by
  simp [Thread.get, Thread.set]
theorem Thread.get_set_ne (t : Thread) {n m : Nat} (x : Word) (h : m ≠ n) : (t.set n x).get m = t.get m := by
  simp [Thread.get, Thread.set, Map.get_set_ne _ _ _ h]

/-! ### The frame of a command -/

@[simp] theorem State.onDev_eq (s : State) (f : Dev → Dev) : s.onDev f = .next { s with dev := f s.dev } := rfl

end Sys2Proof.Machine
end

