-- ==== Sys2Proof/Laws/Issue.lean ====
section
/-!
SUPPORT. What the issue of one unit comes to for a thread that has its turn: the lemmas that stand between an engine
instruction and its body.
-/
namespace Sys2Proof.Machine

@[simp] theorem Dev.noted_thr (d : Dev) (g x : Nat) : (d.noted g).thr x = d.thr x := by
  simp only [Dev.noted]
  split <;> rfl
@[simp] theorem Dev.noted_hth (d : Dev) (g h : Nat) : (d.noted g).hth h = d.hth h := by
  simp only [Dev.noted]
  split <;> rfl
@[simp] theorem Dev.noted_regs (d : Dev) (g : Nat) : (d.noted g).regs = d.regs := by
  simp only [Dev.noted]
  split <;> rfl
@[simp] theorem Dev.noted_mem (d : Dev) (g : Nat) : (d.noted g).mem = d.mem := by
  simp only [Dev.noted]
  split <;> rfl
@[simp] theorem Dev.noted_rd (d : Dev) (g : Nat) (k : RegKind) (i j : Nat) : (d.noted g).rd k i j = d.rd k i j := by
  simp [Dev.rd]
/-- A patient thread is not noted: no branch of R112 chose it as a swift one. -/
theorem Dev.noted_patient (d : Dev) (g : Nat) (h : (d.engn (engineOf g)).isSwift (g % 8) = false) : d.noted g = d := by
  simp [Dev.noted, Dev.byThird, h]

theorem Dev.charge_begun (d : Dev) (g n : Nat) :
    (d.charge g n).updThr g (fun t => { t with ulen := n }) = d.begun g n := by
  unfold Dev.charge Dev.begun Dev.creditLeft
  by_cases h : (d.engn (engineOf g)).isSwift (g % 8) = true
  · rw [if_pos h, if_pos h, Dev.updThr_eq, Dev.noted_thr]
  · rw [if_neg h, if_neg h, Dev.updThr_eq, Dev.setThr_updThr, Dev.thr_updThr_same]
    simp [satCredit]

/-- A thread that has its turn runs the body of its instruction on the device as it stands while it executes. -/
theorem Dev.issue_turn {d : Dev} {g : Nat} (h : Turn d g) (exi : Nat) (a b : Bool) (body : Dev → IRes) :
    d.issue g exi a b body =
      if (d.begun g (exi + 1)).stalls g (body (d.begun g (exi + 1))) then d.stalled g
      else (d.begun g (exi + 1)).settle g exi (body (d.begun g (exi + 1))) := by
  obtain ⟨h1, h2, _⟩ := h
  unfold Dev.issue
  rw [if_neg (by simp [h1])]
  simp only [h2, Dev.charge_begun]

@[simp] theorem Dev.begun_thr (d : Dev) (g n : Nat) :
    (d.begun g n).thr g = { d.thr g with credit := d.creditLeft g n, ulen := n } := by
  simp [Dev.begun]
@[simp] theorem Dev.begun_setThr (d : Dev) (g n : Nat) (x : Thread) : (d.begun g n).setThr g x = (d.noted g).setThr g x := by
  simp [Dev.begun]
@[simp] theorem Dev.begun_updThr (d : Dev) (g n : Nat) (f : Thread → Thread) :
    (d.begun g n).updThr g f = (d.noted g).setThr g (f { d.thr g with credit := d.creditLeft g n, ulen := n }) := by
  simp [Dev.updThr_eq]

/-- A unit that is complete, with a thread that is not repeated and not stepped, moves PC past its words. -/
theorem Dev.finish_plain (d : Dev) (g : Nat) (h : (d.thr g).rep = .none) (h' : (d.thr g).step = false) :
    d.finish g = d.setThr g { d.thr g with pc := (d.thr g).pc + BitVec.ofNat 15 (d.thr g).ulen } := by
  simp [Dev.finish, Dev.endStep, h, h']

/-- A body that only changes the thread completes the unit as `Dev.ran` says. -/
theorem Dev.issue_done {d : Dev} {g : Nat} (h : Turn d g) (exi : Nat) (a b : Bool) {body : Dev → IRes} {t1 : Thread}
    (hb : body (d.begun g (exi + 1)) = .done ((d.noted g).setThr g t1)) (hr : t1.rep = .none) (hs : t1.step = false) :
    d.issue g exi a b body = (d.noted g).setThr g { t1 with pc := t1.pc + BitVec.ofNat 15 t1.ulen } := by
  rw [Dev.issue_turn h, hb]
  simp [Dev.stalls, Dev.settle, Dev.finish_plain, hr, hs]

/-- A body that jumps continues at the address it gives. -/
theorem Dev.issue_jump {d : Dev} {g : Nat} (h : Turn d g) (exi : Nat) (a b : Bool) {body : Dev → IRes} {t1 : Thread} {dest : Nat}
    (hb : body (d.begun g (exi + 1)) = .jump ((d.noted g).setThr g t1) dest) (hs : t1.step = false) :
    d.issue g exi a b body = (d.noted g).setThr g { t1 with pc := BitVec.ofNat 15 dest } := by
  rw [Dev.issue_turn h, hb]
  simp [Dev.stalls, Dev.settle, Dev.endStep, hs]

/-- A change of a thread that concerns neither its place, nor its repeat, nor its step, nor the counts of the issue. -/
def Plainly (f : Thread → Thread) (t : Thread) : Prop :=
  (f t).rep = t.rep ∧ (f t).step = t.step ∧ (f t).pc = t.pc ∧
  ∀ c u, f { t with credit := c, ulen := u } = { f t with credit := c, ulen := u }

/-- A body that changes the thread by `f` alone completes the unit. -/
theorem Dev.issue_upd {d : Dev} {g : Nat} (h : Turn d g) (exi : Nat) (a b : Bool) {body : Dev → IRes} {f : Thread → Thread}
    (hb : body (d.begun g (exi + 1)) = .done ((d.begun g (exi + 1)).updThr g f)) (hf : Plainly f (d.thr g)) :
    d.issue g exi a b body = d.ran g (exi + 1) f := by
  obtain ⟨h1, h2, h3, h4⟩ := hf
  rw [Dev.begun_updThr, h4] at hb
  rw [Dev.issue_done h exi a b hb (by simp only [h1]; exact h.2.1) (by simp only [h2]; exact h.2.2)]
  simp only [Dev.ran, h3]

/-- A body that changes the thread by `f` and jumps. -/
theorem Dev.issue_updJump {d : Dev} {g : Nat} (h : Turn d g) (exi : Nat) (a b : Bool) {body : Dev → IRes}
    {f : Thread → Thread} {dest : Nat}
    (hb : body (d.begun g (exi + 1)) = .jump ((d.begun g (exi + 1)).updThr g f) dest) (hf : Plainly f (d.thr g)) :
    d.issue g exi a b body = d.jumped g (exi + 1) dest f := by
  obtain ⟨h1, h2, h3, h4⟩ := hf
  rw [Dev.begun_updThr, h4] at hb
  rw [Dev.issue_jump h exi a b hb (by simp only [h2]; exact h.2.2)]
  simp only [Dev.jumped]

/-- A body that ends in a fault holds the thread (R91). -/
theorem Dev.issue_fault {d : Dev} {g : Nat} (h : Turn d g) (exi : Nat) (a b : Bool) {body : Dev → IRes} {f : FaultInfo}
    (hb : body (d.begun g (exi + 1)) = .fault f) : d.issue g exi a b body = (d.begun g (exi + 1)).hold g f exi none := by
  rw [Dev.issue_turn h, hb]
  simp [Dev.stalls, Dev.settle]

/-- A body that waits blocks the thread (R109). -/
theorem Dev.issue_block {d d1 : Dev} {g cause : Nat} {w : Wait} (h : Turn d g) (exi : Nat) (a b : Bool) {body : Dev → IRes}
    (hb : body (d.begun g (exi + 1)) = .block d1 cause w) : d.issue g exi a b body = d1.block g cause w := by
  rw [Dev.issue_turn h, hb]
  simp [Dev.stalls, Dev.settle]

/-- A body that has put the thread in its new state. -/
theorem Dev.issue_ended {d d1 : Dev} {g : Nat} (h : Turn d g) (exi : Nat) (a b : Bool) {body : Dev → IRes}
    (hb : body (d.begun g (exi + 1)) = .ended d1) : d.issue g exi a b body = d1 := by
  rw [Dev.issue_turn h, hb]
  simp [Dev.stalls, Dev.settle]

@[simp] theorem Dev.begun_engn (d : Dev) (g n e : Nat) : (d.begun g n).engn e = (d.noted g).engn e := rfl
@[simp] theorem Dev.begun_hth (d : Dev) (g n h : Nat) : (d.begun g n).hth h = d.hth h := Dev.noted_hth d g h
@[simp] theorem Dev.begun_rd (d : Dev) (g n : Nat) (k : RegKind) (i j : Nat) : (d.begun g n).rd k i j = d.rd k i j := Dev.noted_rd d g k i j
@[simp] theorem Dev.begun_mem (d : Dev) (g n : Nat) : (d.begun g n).mem = d.mem := Dev.noted_mem d g
@[simp] theorem Dev.begun_progWord (d : Dev) (g n h a : Nat) : (d.begun g n).progWord h a = d.progWord h a := by
  simp [Dev.progWord]

@[simp] theorem Dev.thr_ran (d : Dev) (g n : Nat) (f : Thread → Thread) :
    (d.ran g n f).thr g = { f (d.thr g) with
      pc := (d.thr g).pc + BitVec.ofNat 15 n, credit := d.creditLeft g n, ulen := n } := by
  simp [Dev.ran]

end Sys2Proof.Machine
end

