-- ==== Sys2Proof/Laws/Alu.lean ====
section
/-!
SUPPORT. The arithmetic instructions of a thread that has its turn: what the shared meanings `Dev.aluReg` and `Dev.aluImm` come to,
and the flags of a result.
-/
namespace Sys2Proof.Machine

theorem AluRes.flags_eq (x : AluRes) (pm : Bool) :
    x.flags pm false = ⟨x.c, decide (x.r = 0), x.r.getLsbD 15, x.v, pm, false⟩ := by
  simp [AluRes.flags, BitVec.msb_eq_getLsbD_last, Bool.beq_eq_decide_eq]

theorem aluTagFault_none {x y : Word} (a b : Nat) (h : noRef [x, y]) : aluTagFault x a (some (y, b)) = none := by
  simp [noRef] at h
  simp [aluTagFault, h.1, h.2]

/-- Thread `g` as `Dev.aluReg` and `Dev.aluImm` leave it: the result in wA when `wr` says that it is written, and the flags. -/
def Thread.alu (t : Thread) (a : Nat) (wr : Bool) (x : AluRes) (pm : Bool) : Thread :=
  if wr then t.result a x.r x.c x.v pm else { t with fl := (t.result a x.r x.c x.v pm).fl }

theorem Dev.aluBody_begun (d : Dev) (g n a : Nat) (b : Thread → Option (Word × Nat)) (carryIn wr : Bool)
    (f : Bool → W16 → W16 → AluRes) (hb : b ((d.begun g n).thr g) = b (d.thr g))
    (hf : aluTagFault ((d.thr g).get a) a (b (d.thr g)) = none) :
    aluBody g a b carryIn wr f (d.begun g n) = .done ((d.noted g).setThr g
      { (d.thr g).alu a wr (f (d.thr g).fl.c ((d.thr g).get a).v (((b (d.thr g)).map Prod.fst).getD Word.zero).v)
        (((d.thr g).get a).isPoison || (((b (d.thr g)).map Prod.fst).getD Word.zero).isPoison
          || (carryIn && (d.thr g).fl.pm)) with credit := d.creditLeft g n, ulen := n }) := by
  have hg : ((d.begun g n).thr g).get a = (d.thr g).get a := by simp [Thread.get]
  have hc : ((d.begun g n).thr g).fl = (d.thr g).fl := by simp
  unfold aluBody
  simp only [hb, hg, hf, hc, Dev.begun_setThr]
  cases wr <;> simp [Thread.alu, Thread.result, Thread.set, AluRes.flags_eq]

theorem Dev.setThr_ran (d : Dev) (g n : Nat) (t : Thread) (hpc : t.pc = (d.thr g).pc) :
    (d.noted g).setThr g { ({ t with credit := d.creditLeft g n, ulen := n } : Thread) with pc := t.pc + BitVec.ofNat 15 n } =
      d.ran g n (fun _ => t) := by
  simp [Dev.ran, hpc]

theorem Thread.alu_pc (t : Thread) (a : Nat) (wr : Bool) (x : AluRes) (pm : Bool) : (t.alu a wr x pm).pc = t.pc := by
  cases wr <;> rfl
theorem Thread.alu_rep (t : Thread) (a : Nat) (wr : Bool) (x : AluRes) (pm : Bool) : (t.alu a wr x pm).rep = t.rep := by
  cases wr <;> rfl
theorem Thread.alu_step (t : Thread) (a : Nat) (wr : Bool) (x : AluRes) (pm : Bool) : (t.alu a wr x pm).step = t.step := by
  cases wr <;> rfl

/-- What an arithmetic body comes to for a thread that has its turn. -/
theorem Dev.issue_alu {d : Dev} {g : Nat} (h : Turn d g) (exi a : Nat) (p q : Bool) (b : Thread → Option (Word × Nat))
    (carryIn wr : Bool) (f : Bool → W16 → W16 → AluRes) (hb : b ((d.begun g (exi + 1)).thr g) = b (d.thr g))
    (hf : aluTagFault ((d.thr g).get a) a (b (d.thr g)) = none) :
    d.issue g exi p q (aluBody g a b carryIn wr f) = d.ran g (exi + 1) (fun _ =>
      (d.thr g).alu a wr (f (d.thr g).fl.c ((d.thr g).get a).v (((b (d.thr g)).map Prod.fst).getD Word.zero).v)
        (((d.thr g).get a).isPoison || (((b (d.thr g)).map Prod.fst).getD Word.zero).isPoison
          || (carryIn && (d.thr g).fl.pm))) := by
  rw [Dev.issue_done h exi p q (Dev.aluBody_begun d g (exi + 1) a b carryIn wr f hb hf)
    (by simp only [Thread.alu_rep]; exact h.2.1) (by simp only [Thread.alu_step]; exact h.2.2)]
  exact Dev.setThr_ran d g (exi + 1) _ (Thread.alu_pc _ _ _ _ _)

/-- The register form (R67). -/
theorem Dev.aluReg_turn {d : Dev} {g : Thr} (h : Turn d g) (a b : Reg) (carryIn wr : Bool) (f : Bool → W16 → W16 → AluRes)
    (hr : noRef [(d.thr g).get a, (d.thr g).get b]) :
    d.aluReg g a b carryIn wr f = d.ran g 1 (fun _ =>
      (d.thr g).alu a wr (f (d.thr g).fl.c ((d.thr g).get a).v ((d.thr g).get b).v)
        (((d.thr g).get a).isPoison || ((d.thr g).get b).isPoison || (carryIn && (d.thr g).fl.pm))) :=
  Dev.issue_alu h 0 a true true (fun t => some (t.get b, b)) carryIn wr f (by simp [Thread.get])
    (aluTagFault_none a b hr)

/-- The immediate form (R68) with an immediate that is not reserved. -/
theorem Dev.aluImm_turn {d : Dev} {g : Thr} (h : Turn d g) (exi : Exi) (a : Reg) (i : W16) (f : Bool → W16 → W16 → AluRes)
    (hr : ((d.thr g).get a).isRef = false) :
    d.aluImm g exi a (some i) f = d.ran g (exi.length + 1) (fun _ =>
      (d.thr g).alu a true (f (d.thr g).fl.c ((d.thr g).get a).v i) ((d.thr g).get a).isPoison) := by
  have := Dev.issue_alu h exi.length a true true (fun _ => none) false true (fun c x _ => f c x i) rfl
    (by simp [aluTagFault, hr])
  unfold Dev.aluImm
  refine this.trans ?_
  have e : Word.isPoison Word.zero = false := rfl
  simp [e]

end Sys2Proof.Machine
end

