-- ==== Sys2Proof/Laws/Log.lean ====
section
/-!
SUPPORT. What a log record comes to at a source that holds none.
-/
namespace Sys2Proof.Machine

/-- A record below fatal at a source that holds none is its first record, and that is all (R404, R405). -/
theorem Dev.log4_clear {d : Dev} {block inst : Nat} (h : LogClear d block inst) {sev : Nat} (hs : sev < 3) (code : Nat)
    (d2 d3 d4 : W16) : d.log4 sev block code inst d2 d3 d4 = d.recorded sev block code inst d2 d3 d4 := by
  have hs' : ¬ sev = 3 := by omega
  have h' : (d.count64 .errRecords sev 0 1).log.srcs.get ⟨none, none, 0⟩ (block * 1024 + inst) = ⟨none, none, 0⟩ := h
  unfold Dev.log4 Dev.logRec
  simp only [hs', if_false]
  have hf : (d.count64 .errRecords sev 0 1).fileRec ⟨sev, block, code, inst, d2, d3, d4, d.time.ns, false⟩ =
      (d.recorded sev block code inst d2 d3 d4, none) := by
    simp only [Dev.fileRec, h']
    rfl
  unfold Dev.fileAll
  rw [hf]

/-- After a record its source is no longer clear. -/
theorem Dev.recorded_src (d : Dev) (sev block code inst : Nat) (d2 d3 d4 : W16) :
    (d.recorded sev block code inst d2 d3 d4).log.srcs.get ⟨none, none, 0⟩ (block * 1024 + inst) =
      ⟨some ⟨sev, block, code, inst, d2, d3, d4, d.time.ns, false⟩, none, 0⟩ := by
  simp only [Dev.recorded, Map.get_set_same]

@[simp] theorem Dev.recorded_mem (d : Dev) (sev block code inst : Nat) (d2 d3 d4 : W16) :
    (d.recorded sev block code inst d2 d3 d4).mem = d.mem := rfl
@[simp] theorem Dev.recorded_eng (d : Dev) (sev block code inst : Nat) (d2 d3 d4 : W16) :
    (d.recorded sev block code inst d2 d3 d4).eng = d.eng := rfl
@[simp] theorem Dev.recorded_regs (d : Dev) (sev block code inst : Nat) (d2 d3 d4 : W16) :
    (d.recorded sev block code inst d2 d3 d4).regs = d.regs := rfl

end Sys2Proof.Machine
end

