-- ==== Sys2Proof/Laws/Mem.lean ====
section
/-!
SUPPORT. What the operations over memory do: each keeps the canonical form of the stored words, in any state; a store reads back,
and leaves every other word as it was.
-/
namespace Sys2Proof

theorem Map.rising_filter {α : Type} (p : Nat × α → Bool) {l : List (Nat × α)} (h : Map.rising l = true) :
    Map.rising (l.filter p) = true := by
  induction l with
  | nil => rfl
  | cons a r ih =>
    obtain ⟨h1, h2⟩ := Map.rising_cons.mp h
    by_cases hp : p a = true
    · rw [List.filter_cons_of_pos hp]
      exact Map.rising_cons.mpr ⟨fun e he => h1 e (List.mem_filter.mp he).1, ih h2⟩
    · rw [List.filter_cons_of_neg hp]
      exact ih h2

/-- A filter keeps the canonical form under new defaults that agree with the old ones at the indexes it keeps. -/
theorem Map.wf_filter {α : Type} [DecidableEq α] (m : Map α) (dflt dflt' : Nat → α) (p : Nat → α → Bool)
    (hd : ∀ k x, p k x = true → dflt' k = dflt k) (h : m.wf dflt = true) : (m.filter p).wf dflt' = true := by
  simp only [Map.wf, Map.filter, Bool.and_eq_true, List.all_eq_true, decide_eq_true_eq] at h ⊢
  refine ⟨Map.rising_filter _ h.1, fun e he => ?_⟩
  obtain ⟨h1, h2⟩ := List.mem_filter.mp he
  rw [hd e.1 e.2 h2]
  exact h.2 e h1

theorem Map.look_filter {α : Type} (dflt : α) (p : Nat → Bool) (k : Nat) (l : List (Nat × α)) :
    Map.look dflt k (l.filter (fun e => p e.1)) = if p k then Map.look dflt k l else dflt := by
  induction l with
  | nil => simp [Map.look]
  | cons a r ih =>
    obtain ⟨j, v⟩ := a
    by_cases hp : p j = true <;> by_cases hj : j = k
    · subst hj; simp [Map.look, hp]
    · simp [Map.look, hp, hj, ih]
    · subst hj; simp [hp, ih]
    · simp [Map.look, hp, hj, ih]

/-- What a filter by index reads as: the entry where it is kept, the default elsewhere. -/
theorem Map.get_filter {α : Type} (m : Map α) (dflt : α) (p : Nat → Bool) (k : Nat) :
    (m.filter (fun k _ => p k)).get dflt k = if p k then m.get dflt k else dflt :=
  Map.look_filter dflt p k m.entries

end Sys2Proof

namespace Sys2Proof.Machine

/-! ### Words -/

/-- What unwritten words read as depends on the fills alone. -/
theorem MemSt.dflt_congr {m m' : MemSt} (h : m'.fills = m.fills) : m'.dflt = m.dflt := by
  funext k
  simp only [MemSt.dflt, h]

@[simp] theorem MemSt.put_fills (m : MemSt) (wa : Nat) (w : Word) : (m.put wa w).fills = m.fills := rfl
@[simp] theorem MemSt.put_dflt (m : MemSt) (wa : Nat) (w : Word) : (m.put wa w).dflt = m.dflt := rfl
@[simp] theorem MemSt.put_prog (m : MemSt) (wa : Nat) (w : Word) : (m.put wa w).prog = m.prog := rfl
@[simp] theorem MemSt.put_ecc (m : MemSt) (wa : Nat) (w : Word) : (m.put wa w).ecc = m.ecc := rfl
@[simp] theorem MemSt.put_init (m : MemSt) (wa : Nat) (w : Word) : (m.put wa w).init = m.init := rfl

/-- A stored word reads back. -/
@[simp] theorem MemSt.word_put_same (m : MemSt) (wa : Nat) (w : Word) : (m.put wa w).word wa = w := by
  simp only [MemSt.word, MemSt.put_dflt]
  exact Map.get_set_same m.cells (m.dflt wa) wa w

/-- A store leaves every other word as it was. -/
theorem MemSt.word_put_ne (m : MemSt) {wa k : Nat} (h : k ≠ wa) (w : Word) : (m.put wa w).word k = m.word k := by
  simp only [MemSt.word, MemSt.put_dflt]
  exact Map.get_set_ne m.cells (m.dflt wa) (m.dflt k) h w

theorem MemSt.word_put (m : MemSt) (wa k : Nat) (w : Word) : (m.put wa w).word k = if k = wa then w else m.word k := by
  by_cases h : k = wa
  · subst h; simp
  · simp [h, MemSt.word_put_ne]

/-! ### The canonical form -/

/-- Memories with the same cells and the same fills are in the form together. -/
theorem Memory.wf_congr {m m' : MemSt} (hc : m'.cells = m.cells) (hf : m'.fills = m.fills) :
    Memory.wf m' = Memory.wf m := by
  simp only [Memory.wf, hc, MemSt.dflt_congr hf]

theorem Memory.wf_put (m : MemSt) (wa : Nat) (w : Word) (h : Memory.wf m = true) : Memory.wf (m.put wa w) = true :=
  Map.wf_set m.cells m.dflt wa w h

theorem Memory.wf_foldl {β : Type} (f : MemSt → β → MemSt) (hf : ∀ m b, Memory.wf m = true → Memory.wf (f m b) = true)
    (l : List β) (m : MemSt) (h : Memory.wf m = true) : Memory.wf (l.foldl f m) = true := by
  induction l generalizing m with
  | nil => exact h
  | cons b r ih => exact ih (f m b) (hf m b h)

/-- A fill names a whole range or the pages of an interleaved channel, and never the empty set by its page number. -/
def Fill.real (f : Fill) : Prop := f.n = 1 → f.r = 0

theorem mcFill_real (c : Nat) (v : W32) (zero : Bool) : (mcFill c v zero).real := by
  intro h
  show c % _ = 0
  rw [show [1, 2, 4, 4].getD (bits v 9 8) 1 = 1 from h, Nat.mod_one]

/-- A fill that another covers holds no address that the other does not. -/
theorem Fill.has_of_covered {f x : Fill} (hf : f.real)
    (hc : f.lo ≤ x.lo ∧ x.hi ≤ f.hi ∧ (f.n = 1 ∨ (f.n = x.n ∧ f.r = x.r))) {k : Nat} (hx : x.has k = true) :
    f.has k = true := by
  obtain ⟨h1, h2, h3⟩ := hc
  simp only [Fill.has, decide_eq_true_eq] at hx ⊢
  refine ⟨by omega, by omega, ?_⟩
  rcases h3 with h3 | ⟨h3, h4⟩
  · rw [h3, hf h3, Nat.mod_one]
  · rw [h3, h4]; exact hx.2.2

/-- The first fill that holds an address is not changed by forgetting fills that do not hold it. -/
theorem find_forget (p : Fill → Bool) (k : Nat) (l : List Fill) (hp : ∀ x, p x = false → x.has k = false) :
    (l.filter p).find? (fun x => x.has k) = l.find? (fun x => x.has k) := by
  induction l with
  | nil => rfl
  | cons x r ih =>
    by_cases h : p x = true
    · simp only [List.filter_cons_of_pos h, List.find?_cons, ih]
    · have hx := hp x (by simpa using h)
      simp only [List.filter_cons_of_neg h, List.find?_cons, hx, ih]

/-- After a fill its addresses read as it says, and outside it unwritten words read as before. -/
theorem MemSt.dflt_fillAs (m : MemSt) {f : Fill} (hf : f.real) (k : Nat) :
    (m.fillAs f).dflt k = if f.has k then (if f.zero then Word.zero else Word.poison 0) else m.dflt k := by
  by_cases hk : f.has k = true
  · simp [MemSt.dflt, MemSt.fillAs, hk]
  · have h := find_forget
      (fun x => decide (¬ (f.lo ≤ x.lo ∧ x.hi ≤ f.hi ∧ (f.n = 1 ∨ (f.n = x.n ∧ f.r = x.r))))) k m.fills (by
        intro x hx
        cases hn : x.has k with
        | false => rfl
        | true => exact absurd (Fill.has_of_covered hf (Decidable.not_not.mp (of_decide_eq_false hx)) hn) hk)
    have hk' : f.has k = false := by simpa using hk
    simp only [MemSt.dflt, MemSt.fillAs, List.find?_cons, hk', h, Bool.false_eq_true, if_false]

/-- What memory reads as after a fill. -/
theorem MemSt.word_fillAs (m : MemSt) {f : Fill} (hf : f.real) (k : Nat) :
    (m.fillAs f).word k = if f.has k then (if f.zero then Word.zero else Word.poison 0) else m.word k := by
  have hd := MemSt.dflt_fillAs m hf k
  by_cases hk : f.has k = true
  · simp only [hk, if_true] at hd ⊢
    simp only [MemSt.word, hd]
    show (m.cells.filter (fun k _ => !f.has k)).get _ k = _
    rw [Map.get_filter]
    simp [hk]
  · simp only [hk] at hd ⊢
    simp only [MemSt.word, hd]
    show (m.cells.filter (fun k _ => !f.has k)).get _ k = _
    rw [Map.get_filter]
    simp [hk]

theorem Memory.wf_fillAs (m : MemSt) {f : Fill} (hf : f.real) (h : Memory.wf m = true) :
    Memory.wf (m.fillAs f) = true := by
  refine Map.wf_filter m.cells m.dflt (m.fillAs f).dflt _ (fun k _ hk => ?_) h
  have hk' : f.has k = false := by simpa using hk
  simp [MemSt.dflt_fillAs m hf k, hk']

theorem Memory.wf_fill (m : MemSt) (lo hi : Nat) (zero : Bool) (h : Memory.wf m = true) :
    Memory.wf (m.fill lo hi zero) = true :=
  Memory.wf_fillAs m (f := ⟨lo, hi, zero, 1, 0⟩) (fun _ => rfl) h

/-! ### The stores of the device -/

theorem Dev.poke_fills (d : Dev) (wa : Nat) (ws : List Word) : (d.poke wa ws).mem.fills = d.mem.fills := rfl

theorem Dev.poke_wf (d : Dev) (wa : Nat) (ws : List Word) (h : Memory.wf d.mem = true) :
    Memory.wf (d.poke wa ws).mem = true := by
  have key : ∀ (l : List (Nat × Word)) (c : Map Word), c.wf d.mem.dflt = true →
      (l.foldl (fun m kw => m.set (d.mem.dflt (wa + kw.1)) (wa + kw.1) kw.2) c).wf d.mem.dflt = true := by
    intro l
    induction l with
    | nil => exact fun c hc => hc
    | cons a r ih => exact fun c hc => ih _ (Map.wf_set c d.mem.dflt (wa + a.1) a.2 hc)
  exact key _ _ h

/-! Counts, events and records change memory in one place: the record of an event task that a thread has staged (R146). -/

theorem Dev.newTask_mem (d : Dev) (t : Task) : (d.newTask t).2.mem = d.mem := by
  have hf : d.freeSlot.2.mem = d.mem := rfl
  unfold Dev.newTask
  generalize d.freeSlot = x at hf ⊢
  obtain ⟨o, d1⟩ := x
  cases o <;> exact hf

@[simp] theorem Dev.stir_mem (d : Dev) (h : Nat) : (d.stir h).mem = d.mem := by
  unfold Dev.stir
  simp only
  split <;> rfl

theorem Dev.placeReady_mem (d : Dev) (s : Nat) : (d.placeReady s).mem = d.mem := by
  unfold Dev.placeReady
  cases d.task s with
  | none => rfl
  | some t =>
    simp only
    cases d.affine t <;> (rw [Dev.stir_mem]; rfl)

theorem Dev.formEvent_mem (d : Dev) (n held : Nat) (payload : W16) : (d.formEvent n held payload).mem = d.mem := by
  unfold Dev.formEvent
  simp only
  split
  · rename_i h
    rw [Dev.placeReady_mem]
    show _ = _
    rw [← Dev.newTask_mem d, h]
  · rename_i h
    rw [← Dev.newTask_mem d, h]

/-- An event keeps the form. -/
theorem Dev.raiseEvent_wf (d : Dev) (n : Nat) (payload : W16) (h : Memory.wf d.mem = true) :
    Memory.wf (d.raiseEvent n payload).mem = true := by
  unfold Dev.raiseEvent
  split
  · simp only
    split
    · split
      · split
        · exact Dev.poke_wf _ _ _ h
        · exact h
      · exact h
    · split
      · rw [Dev.formEvent_mem]; exact h
      · exact h
  · exact h

theorem Dev.saturated_wf (d : Dev) (b : Nat) (h : Memory.wf d.mem = true) : Memory.wf (d.saturated b).mem = true :=
  Dev.raiseEvent_wf _ _ _ h

theorem Dev.fileRec_mem (d : Dev) (r : LogRec) : (d.fileRec r).1.mem = d.mem := by
  unfold Dev.fileRec
  simp only
  split <;> rfl

theorem Dev.lose_mem (d : Dev) (sev : Nat) : (d.lose sev).1.mem = d.mem := rfl

/-- A record that is filed keeps the form. -/
theorem Dev.fileAll_wf (n : Nat) (d : Dev) (r : LogRec) (h : Memory.wf d.mem = true) : Memory.wf (d.fileAll r n).mem = true := by
  induction n generalizing d r with
  | zero => exact h
  | succ n ih =>
    unfold Dev.fileAll
    have h3 := Dev.fileRec_mem d r
    generalize d.fileRec r = x at h3 ⊢
    obtain ⟨d3, o⟩ := x
    simp only at h3
    cases o with
    | none => exact h3 ▸ h
    | some sev =>
      have h4 : (d3.lose sev).1.mem = d.mem := (Dev.lose_mem d3 sev).trans h3
      simp only
      generalize d3.lose sev = y at h4 ⊢
      obtain ⟨d4, b⟩ := y
      simp only at h4
      cases b with
      | false => exact h4 ▸ h
      | true => exact ih _ _ (Dev.saturated_wf d4 2 (h4 ▸ h))

/-- A record keeps the form. -/
theorem Dev.logRec_wf (d : Dev) (r : LogRec) (h : Memory.wf d.mem = true) : Memory.wf (d.logRec r).mem = true := by
  unfold Dev.logRec
  simp only
  refine Dev.fileAll_wf _ _ _ ?_
  split
  · split <;> exact h
  · exact h

theorem Dev.log4_wf (d : Dev) (sev block code inst : Nat) (d2 d3 d4 : W16) (h : Memory.wf d.mem = true) :
    Memory.wf (d.log4 sev block code inst d2 d3 d4).mem = true :=
  Dev.logRec_wf d _ h

theorem Dev.bump32_mem (d : Dev) (c : CtrKind) (i j n : Nat) : (d.bump32 c i j n).1.mem = d.mem := rfl

/-- A count keeps the form. -/
theorem Dev.count_wf (d : Dev) (c : CtrKind) (i j n : Nat) (h : Memory.wf d.mem = true) :
    Memory.wf (d.count c i j n).mem = true := by
  unfold Dev.count Dev.count32
  split
  · exact h
  · have hb := Dev.bump32_mem d c i j n
    generalize d.bump32 c i j n = x at hb ⊢
    obtain ⟨d1, b⟩ := x
    simp only at hb
    cases b with
    | false => exact hb ▸ h
    | true => exact Dev.logRec_wf _ _ (Dev.saturated_wf d1 _ (hb ▸ h))

/-- A statistics counter counts without a further effect. -/
theorem Dev.count_memBytes_mem (d : Dev) (i j n : Nat) : (d.count .memBytes i j n).mem = d.mem := rfl

/-! ### Stores of units -/

theorem MemSt.storeTagged_wf (m : MemSt) (wa : Nat) (ws : List WbWord) (h : Memory.wf m = true) :
    Memory.wf (m.storeTagged wa ws) = true :=
  Memory.wf_foldl _ (fun m _ h => Memory.wf_put m _ _ h) ws m h

theorem MemSt.poisonUnit_wf (m : MemSt) (wa : Nat) (h : Memory.wf m = true) : Memory.wf (m.poisonUnit wa) = true :=
  Memory.wf_foldl _ (fun m _ h => Memory.wf_put m _ _ h) _ m h

theorem MemSt.storePlain_wf (m : MemSt) (wa : Nat) (ws : List WbWord) (whole : Bool) (h : Memory.wf m = true) :
    Memory.wf (m.storePlain wa ws whole) = true := by
  unfold MemSt.storePlain
  simp only
  split
  · exact MemSt.poisonUnit_wf _ _ (Memory.wf_foldl _ (fun m _ h => Memory.wf_put m _ _ h) _ m h)
  · exact Memory.wf_foldl _ (fun m _ h => Memory.wf_put m _ _ h) _ m h

theorem MemSt.rewrite_wf (m : MemSt) (key wa n : Nat) (h : Memory.wf m = true) : Memory.wf (m.rewrite key wa n) = true :=
  (Memory.wf_congr rfl rfl).trans (Memory.wf_foldl _ (fun m _ h => Memory.wf_put m _ _ h) _ m h)

/-- The report of an error keeps the form. -/
theorem Dev.eccReport_wf (d : Dev) (pa e : Nat) (h : Memory.wf d.mem = true) : Memory.wf (d.eccReport pa e).mem = true := by
  unfold Dev.eccReport
  simp only
  split
  · exact Dev.log4_wf _ _ _ _ _ _ _ _ h
  · split <;> exact Dev.log4_wf _ _ _ _ _ _ _ _ (Dev.count_wf d _ _ _ _ h)
  · exact Dev.log4_wf _ _ _ _ _ _ _ _ h
  · split <;> exact Dev.log4_wf _ _ _ _ _ _ _ _ (Dev.count_wf d _ _ _ _ h)
  · exact h

theorem Dev.eccMeet_wf (d : Dev) (pa : Nat) (h : Memory.wf d.mem = true) : Memory.wf (d.eccMeet pa).mem = true := by
  unfold Dev.eccMeet
  split
  · exact h
  · exact Dev.eccReport_wf d _ _ h
  · exact Dev.eccReport_wf d _ _ h

theorem Dev.readModify_wf (d : Dev) (pa n : Nat) (h : Memory.wf d.mem = true) : Memory.wf (d.readModify pa n).mem = true := by
  unfold Dev.readModify
  split
  · exact h
  · exact MemSt.rewrite_wf _ _ _ _ (Dev.eccMeet_wf d pa h)

/-- The check units of a unit are made ready for a store. -/
theorem Dev.beforeStore_wf (d : Dev) (unit : Nat) (ws : List WbWord) (whole : Bool) (h : Memory.wf d.mem = true) :
    Memory.wf (d.beforeStore unit ws whole).mem = true := by
  have clear : ∀ (d : Dev) (key : Nat), Memory.wf d.mem = true →
      Memory.wf (if d.mem.ecc.get 0 key = 0 then d else { d with mem := { d.mem with ecc := d.mem.ecc.erase key } }).mem = true := by
    intro d key h
    split
    · exact h
    · exact (Memory.wf_congr rfl rfl).trans h
  unfold Dev.beforeStore
  simp only
  split
  · split
    · exact clear _ _ h
    · exact Dev.readModify_wf _ _ _ h
  · rename_i hk; clear hk
    induction ws generalizing d with
    | nil => exact h
    | cons x r ih =>
      refine ih _ ?_
      simp only
      split
      · exact clear _ _ h
      · exact Dev.readModify_wf _ _ _ h

/-- A store into one unit keeps the form. -/
theorem Dev.storeNow_wf (d : Dev) (unit : Nat) (ws : List WbWord) (h : Memory.wf d.mem = true) :
    Memory.wf (d.storeNow unit ws).mem = true := by
  unfold Dev.storeNow
  simp only
  have h1 := Dev.beforeStore_wf (match d.region (unit * 8) with
    | .lpddr c => d.count .memBytes c 0 (ws.foldl (fun n (x : WbWord) => n + (if x.hi then 1 else 0) + (if x.lo then 1 else 0)) 0)
    | _ => d) unit ws (decide ((ws.filter (fun x => x.hi && x.lo)).length = 4)) (by
      split
      · rw [Dev.count_memBytes_mem]; exact h
      · exact h)
  split
  · exact MemSt.storeTagged_wf _ _ _ h1
  · exact MemSt.storePlain_wf _ _ _ _ h1

/-- So does one that waits for its region to be filled (R287). -/
theorem Dev.storeUnit_wf (d : Dev) (unit : Nat) (ws : List WbWord) (h : Memory.wf d.mem = true) :
    Memory.wf (d.storeUnit unit ws).mem = true := by
  unfold Dev.storeUnit
  split
  · exact (Memory.wf_congr rfl rfl).trans h
  · exact Dev.storeNow_wf d unit ws h

/-- And so do the stores that waited. -/
theorem Dev.storeHeld_wf (d : Dev) (h : Memory.wf d.mem = true) : Memory.wf d.storeHeld.mem = true := by
  have key : ∀ (l : List (Nat × List WbWord)) (d : Dev), Memory.wf d.mem = true →
      Memory.wf (l.foldl (fun d x => d.storeUnit x.1 x.2) d).mem = true := by
    intro l
    induction l with
    | nil => exact fun d h => h
    | cons x l ih => exact fun d h => ih _ (Dev.storeUnit_wf d _ _ h)
  exact key _ _ ((Memory.wf_congr rfl rfl).trans h)

theorem Dev.storeFuel_wf (n : Nat) (d : Dev) (pa : Nat) (ws : List Word) (h : Memory.wf d.mem = true) :
    Memory.wf (d.storeFuel pa ws n).mem = true := by
  induction n generalizing d pa ws with
  | zero => exact h
  | succ n ih =>
    cases ws with
    | nil => exact h
    | cons w r => exact ih _ _ _ (Dev.storeUnit_wf d _ _ h)

theorem Dev.storeWords_wf (d : Dev) (pa : Nat) (ws : List Word) (h : Memory.wf d.mem = true) :
    Memory.wf (d.storeWords pa ws).mem = true :=
  Dev.storeFuel_wf _ d pa ws h

theorem Dev.storeBytesFuel_wf (n : Nat) (d : Dev) (pa : Nat) (bs : List (W8 × Bool)) (h : Memory.wf d.mem = true) :
    Memory.wf (d.storeBytesFuel pa bs n).mem = true := by
  induction n generalizing d pa bs with
  | zero => exact h
  | succ n ih =>
    cases bs with
    | nil => exact h
    | cons w r => exact ih _ _ _ (Dev.storeUnit_wf d _ _ h)

theorem Dev.storeBytes_wf (d : Dev) (pa : Nat) (bs : List (W8 × Bool)) (h : Memory.wf d.mem = true) :
    Memory.wf (d.storeBytes pa bs).mem = true :=
  Dev.storeBytesFuel_wf _ d pa bs h

/-- The store of an agent that writes records keeps the form, wherever it goes. -/
theorem Dev.agentStore_wf (d : Dev) (pa : Nat) (ws : List Word) (h : Memory.wf d.mem = true) :
    Memory.wf (d.agentStore pa ws).1.mem = true := by
  unfold Dev.agentStore
  split
  · unfold Dev.hostWrite
    split
    · exact h
    · exact Dev.count_wf d _ _ _ _ h
  · split
    · exact Dev.storeWords_wf d pa ws h
    · exact h

/-- A channel whose contents are lost keeps the form. -/
theorem Dev.loseChannel_wf (d : Dev) (c : Nat) (v : W32) (h : Memory.wf d.mem = true) :
    Memory.wf (d.loseChannel c v).mem = true :=
  Memory.wf_fillAs d.mem (mcFill_real c v true) h

/-- A device reset keeps the form: what it keeps of LPDDR6 reads as before, and the rest is unlisted. -/
theorem Dev.resetMem_wf (d : Dev) (kept : Map (Option W32)) (h : Memory.wf d.mem = true) :
    Memory.wf (d.resetMem kept) = true := by
  refine Memory.wf_foldl _ (fun m c hm => ?_) _ _ ?_
  · split
    · exact hm
    · exact Memory.wf_fillAs m (mcFill_real c _ true) hm
  · refine Map.wf_filter d.mem.cells d.mem.dflt _ _ (fun k _ hk => ?_) h
    have hk' : 0x80000000 ≤ k := by simpa using hk
    have hf := find_forget (fun f => decide (0x80000000 < f.hi)) k d.mem.fills (by
      intro x hx
      have hx' : ¬ 0x80000000 < x.hi := by simpa using hx
      simp only [Fill.has, decide_eq_false_iff_not]
      omega)
    simp only [MemSt.dflt, hf]

end Sys2Proof.Machine
end

