-- ==== Sys2Proof/WellFormed.lean ====
section
/-!
DEFINITION. Which commands are well formed: the operands that a type alone does not bound. A command that is not well formed spells
nothing that the engine's program store, a bus or a line can bring.
-/
namespace Sys2Proof

/-- A unit holds at most two EXI words (R61, R63). -/
def exiOk (x : Exi) : Bool := decide (x.length ≤ 2)

/-- A MAC control frame is PAUSE with one time or PFC with eight (R163). -/
def MacControl.ok (f : MacControl) : Bool :=
  (f.op == 0x0001 && decide (f.times.length = 1)) || (f.op == 0x0101 && decide (f.times.length = 8))

/-- A CAN frame's data fits its format (R371), and an identifier that is not extended has eleven bits. -/
def CanFrame.ok (f : CanFrame) : Bool :=
  (match f.fmt with
   | 0 => decide (f.data.length ≤ 8)
   | 1 => decide (f.data.length ≤ 64)
   | 2 => decide (1 ≤ f.data.length ∧ f.data.length ≤ 2048)) &&
  (f.ide || decide (f.id.toNat < 2048))

/-- The flits of a message, or of a discarded one, whose header is of one of the types `ts` (R347, R350). -/
def messageOk (ts : List Nat) (fs : List Flit) : Bool :=
  !fs.isEmpty && fs.all (fun x => Machine.flitGood x && (4 :: ts).contains (Machine.flitType x))
/-- A link-control flit of the subtypes that `p` names. -/
def lctlOk (p : Nat → Bool) (x : Flit) : Bool := Machine.flitGood x && Machine.flitType x == 6 && p (Machine.flitNum x 0 1)

/-- The command is well formed. -/
def Instr.wf : Instr → Bool
  | .mov _ _ _ => true
  | .add _ _ _ => true
  | .adc _ _ _ => true
  | .sub _ _ _ => true
  | .sbc _ _ _ => true
  | .and _ _ _ => true
  | .or _ _ _ => true
  | .xor _ _ _ => true
  | .shl _ _ _ => true
  | .shr _ _ _ => true
  | .sar _ _ _ => true
  | .csum _ _ _ => true
  | .cmp _ _ _ => true
  | .tst _ _ _ => true
  | .mul _ _ _ => true
  | .mulh _ _ _ => true
  | .movi _ x _ _ => exiOk x
  | .addImm _ x _ _ => exiOk x
  | .andImm _ x _ _ => exiOk x
  | .orImm _ x _ _ => exiOk x
  | .xorImm _ x _ _ => exiOk x
  | .shlImm _ x _ _ => exiOk x
  | .shrImm _ x _ _ => exiOk x
  | .sarImm _ x _ _ => exiOk x
  | .rol _ x _ _ => exiOk x
  | .cmpImm _ x _ _ => exiOk x
  | .ld _ x _ _ _ => exiOk x
  | .st _ x _ _ _ => exiOk x
  | .ldp _ x _ _ _ => exiOk x
  | .stp _ x _ _ _ => exiOk x
  | .ldb _ x _ _ _ => exiOk x
  | .stb _ x _ _ _ => exiOk x
  | .beq _ x _ => exiOk x
  | .bne _ x _ => exiOk x
  | .blo _ x _ => exiOk x
  | .bhs _ x _ => exiOk x
  | .bmi _ x _ => exiOk x
  | .bpl _ x _ => exiOk x
  | .bvs _ x _ => exiOk x
  | .bvc _ x _ => exiOk x
  | .bhi _ x _ => exiOk x
  | .bls _ x _ => exiOk x
  | .blt _ x _ => exiOk x
  | .bge _ x _ => exiOk x
  | .bgt _ x _ => exiOk x
  | .ble _ x _ => exiOk x
  | .bal _ x _ => exiOk x
  | .call _ x _ => exiOk x
  | .tagr _ _ _ => true
  | .send _ _ _ => true
  | .sende _ _ _ => true
  | .delayedPublish _ => true
  | .recv _ _ _ => true
  | .delayedBind _ => true
  | .chkc _ _ _ => true
  | .movFromSpecial _ _ _ => true
  | .movToSpecial _ _ _ => true
  | .lock _ _ _ => true
  | .not _ _ => true
  | .tags _ _ _ => true
  | .br _ _ => true
  | .callReg _ _ => true
  | .ret _ => true
  | .jt _ _ _ => true
  | .fence _ => true
  | .repI _ _ => true
  | .repU _ _ => true
  | .wait _ => true
  | .yield _ => true
  | .settcRelative _ _ => true
  | .settcAbsolute _ _ => true
  | .settcDisarm _ => true
  | .take _ _ => true
  | .takePoll _ _ => true
  | .done _ => true
  | .tkrel _ _ => true
  | .tkskip _ _ => true
  | .defer _ _ => true
  | .post _ _ => true
  | .cancel _ _ => true
  | .ballocLength _ _ => true
  | .ballocPool _ _ => true
  | .bfree _ _ => true
  | .bcopy _ _ _ => true
  | .unlock _ _ _ => true
  | .cpmTo _ _ _ => true
  | .cpmFrom _ _ _ => true
  | .cpgo _ _ _ => true
  | .cptst _ _ => true
  | .trap _ _ => true
  | .rft _ => true
  | .bkpt _ _ => true
  | .emuTrap _ => true
  | .fabricResponse _ => true
  | .tableWalkDone _ => true
  | .writeBufferDrain _ _ => true
  | .releaseEffect _ => true
  | .targetError _ _ => true
  | .slotRotationEnd _ _ => true
  | .tcMatch _ => true
  | .watchdogFault _ => true
  | .preemption _ _ => true
  | .stillnessReport _ => true
  | .reportToMailbox _ => true
  | .start _ _ _ _ => true
  | .resume _ _ _ => true
  | .skip _ _ _ => true
  | .kill _ _ _ => true
  | .tsrWrite _ _ _ _ _ => true
  | .taskForm _ => true
  | .offerTask _ => true
  | .blockedTakeComplete _ => true
  | .offerWithdrawn _ => true
  | .taskMove _ => true
  | .delayExpiry _ => true
  | .flowInval _ => true
  | .flowClrAll _ => true
  | .flowClrHearth _ _ => true
  | .flowClearDone => true
  | .deadlinePassed _ => true
  | .ticketRetire => true
  | .tallyLostRecord => true
  | .portRxFrame _ _ _ => true
  | .macControlFrame _ f => f.ok
  | .pauseExpiry _ _ => true
  | .pfcTx _ => true
  | .portModeChange _ _ _ => true
  | .portLinkChange _ _ _ _ _ _ => true
  | .preemptVerifyTimeout _ => true
  | .commitSc _ => true
  | .commitSa _ => true
  | .msecRead _ => true
  | .msecCmdDone => true
  | .progStoreWrite _ _ _ => true
  | .millEntry _ => true
  | .kendAccept _ _ => true
  | .kendFail _ _ _ => true
  | .kbeq _ _ _ _ _ => true
  | .kbne _ _ _ _ _ => true
  | .kblo _ _ _ _ _ => true
  | .kbhs _ _ _ _ _ => true
  | .kbset _ _ _ _ _ => true
  | .kext _ _ _ _ _ _ => true
  | .kalui _ _ _ _ _ => true
  | .kalu _ _ _ _ _ => true
  | .kadv _ _ _ _ _ _ => true
  | .khdr _ _ _ _ _ => true
  | .kpm _ _ _ => true
  | .ksto _ _ _ _ _ _ => true
  | .kjmp _ _ _ => true
  | .kmeta _ _ _ _ => true
  | .verdictComplete _ => true
  | .gossipRecord _ => true
  | .gossipLostRecord _ => true
  | .filterAgeOut _ => true
  | .qciGateChange _ _ => true
  | .rcvTimeout _ => true
  | .insert _ _ _ _ => true
  | .delete _ _ _ _ => true
  | .modify _ _ _ _ => true
  | .lookup _ _ _ _ => true
  | .tcamWrite _ _ => true
  | .tcamDisable _ _ => true
  | .missWrite _ _ _ _ => true
  | .psetWrite _ _ => true
  | .streamWrite _ _ => true
  | .sfWrite _ _ => true
  | .sgWrite _ _ => true
  | .fmWrite _ _ => true
  | .rcvWrite _ _ => true
  | .cntRead _ _ _ => true
  | .updateDone _ => true
  | .enqueue => true
  | .copyComplete => true
  | .txStart _ _ _ => true
  | .txEnd _ _ => true
  | .gateEntryStart _ => true
  | .holdAssert _ => true
  | .holdWithdraw _ => true
  | .gclDataWrite _ _ => true
  | .configChange _ _ => true
  | .cancelGateChange _ _ => true
  | .gateListSwap _ => true
  | .txtsPop _ _ => true
  | .genReset _ _ => true
  | .set _ => true
  | .step _ => true
  | .timeChangeApply => true
  | .nowLoRead _ => true
  | .tsIoCapture _ _ _ => true
  | .tsIoOutputEdge _ => true
  | .poolEnable _ _ _ => true
  | .poolReady _ => true
  | .rangeClean _ _ _ _ _ => true
  | .rangeInval _ _ _ _ _ => true
  | .rangeCleanInval _ _ _ _ _ => true
  | .rangeLock _ _ _ _ _ => true
  | .rangeDone _ => true
  | .mcEnable _ _ _ => true
  | .memTrainingDone _ _ _ => true
  | .trackingRun _ => true
  | .regionInit _ _ _ _ => true
  | .regionInitDone _ => true
  | .tlbiAll _ _ => true
  | .tlbiContext _ _ _ => true
  | .tlbiAddress _ _ _ => true
  | .tlbiDone => true
  | .blwTailWrite _ _ _ => true
  | .descriptorStart _ => true
  | .burstStart => true
  | .burstComplete _ => true
  | .descriptorComplete _ => true
  | .blwPause _ _ => true
  | .blwResume _ _ => true
  | .blwAbort _ _ => true
  | .blwReset _ _ => true
  | .lockRequestArrive _ => true
  | .lockGrant _ => true
  | .lockTimeout _ => true
  | .lockReleaseArrive _ => true
  | .lockAbandon _ => true
  | .gcmEnc _ => true
  | .gcmDec _ => true
  | .cmac _ => true
  | .crc32 _ => true
  | .crc32c _ => true
  | .toeplitzHash _ => true
  | .onesComplementSum _ => true
  | .scan _ => true
  | .first _ => true
  | .smithyComplete _ _ => true
  | .keyCommit _ _ => true
  | .keyErase _ _ => true
  | .patternCommit _ _ => true
  | .patternRead _ _ => true
  | .linkEnable _ _ => true
  | .trainingStateDone _ => true
  | .trainingTimeout => true
  | .retrain _ => true
  | .cardMwr fs => messageOk [1, 5, 7, 8, 9, 10, 11, 12, 13, 14, 15] fs
  | .cardMrd x => Machine.flitGood x && Machine.flitType x == 2
  | .hostCpl fs => messageOk [3] fs
  | .nopFlit x => Machine.flitGood x && Machine.flitType x == 0
  | .creditInit x => lctlOk (fun n => n != 2 && n != 3) x
  | .creditReset x => lctlOk (· == 2) x
  | .retrainReq x => lctlOk (· == 3) x
  | .replayTimeout => true
  | .cplTimeout _ => true
  | .ringEnable _ _ _ => true
  | .ringDisable _ _ => true
  | .doorbell _ _ _ => true
  | .txDescriptor _ => true
  | .rxRingDeliver _ => true
  | .postDescriptor _ => true
  | .hostEventEntry => true
  | .msiModerationSend _ => true
  | .msiSend _ _ => true
  | .canDlcReceived _ _ n => decide (n ≤ 2048)
  | .canRxFrame _ f _ => f.ok
  | .canTxTake _ => true
  | .canTxSuccess _ => true
  | .canTxFail _ _ _ _ => true
  | .canStateChange _ => true
  | .recGo _ _ => true
  | .txFlush _ _ => true
  | .canDisable _ => true
  | .xspiGo _ _ _ => true
  | .xspiDone _ => true
  | .spiWrite _ _ => true
  | .spiRead _ => true
  | .spiBadTransaction => true
  | .uartRxByte _ _ => true
  | .uartDataRead _ _ => true
  | .uartDataWrite _ _ _ => true
  | .gpioEdge _ _ => true
  | .mdioAddress _ _ _ _ _ _ => true
  | .mdioWrite _ _ _ _ _ _ => true
  | .mdioRead _ _ _ _ _ => true
  | .mdioDone _ _ => true
  | .dbgacc _ _ _ => true
  | .powerOnReset => true
  | .powerOnResetEnd => true
  | .supplyDrop => true
  | .resetNLow => true
  | .resetCmdDevice _ => true
  | .pllLockLoss => true
  | .referenceLoss => true
  | .hearthSoftReset _ _ _ => true
  | .hearthHardReset _ _ _ => true
  | .hearthResetEnd _ => true
  | .hearthHoldRelease _ _ => true
  | .resetRelease _ => true
  | .bootSection _ => true
  | .bootCheck => true
  | .bootTimeout => true
  | .bootCmdGo _ _ => true
  | .bootDataWrite _ _ => true
  | .powerOnRequest _ _ _ => true
  | .powerOffRequest _ _ _ => true
  | .domainWake => true
  | .domainOn _ => true
  | .drainComplete _ => true
  | .drainTimeout _ => true
  | .logWrite => true
  | .clrErr _ _ => true
  | .counterLowRead _ _ => true
  | .debugStop _ _ _ => true
  | .debugRun _ _ _ => true
  | .debugStep _ _ _ => true
  | .groupStop _ _ => true
  | .groupRun _ _ => true
  | .stopTakesEffect _ => true
  | .breakpointMatch _ => true
  | .otpProgram _ _ => true
  | .otpProgramDone => true
  | .tempSample _ => true
  | .setupWrite _ _ _ => true
  | .badCrcFlit x => !Machine.flitGood x
  | .verifyMpacket _ => true
  | .respondMpacket _ => true
  | .victimWritebackDone _ => true
  | .rootPllLock => true
  | .canRxError _ _ => true
  | .uartTxByteSent _ => true

end Sys2Proof
end

