-- ==== Sys2Proof/Tests/Slice0.lean ====
section
/-!
SUPPORT. Small states, the witnesses of the statements' hypotheses, the smoke test of `Instr.wf`, and worked values of the spec.
-/
namespace Sys2Proof.Tests

open Sys2Proof.Machine

-- The tests are checked one after another, so that few threads of Lean wait at a time.
set_option Elab.async false

/-! ### Small states -/

/-- A device that has started: out of reset, the boot sequencer done. -/
def started : Dev :=
  let d := { Dev.init with top := { TopSt.init with inReset := false, boot := { BootSt.init with phase := .done, ended := true } } }
  d.setFld .topBootStatus 0 0 31 28 5

/-- The domain is on. -/
def powered (d : Dev) (n : Nat) : Dev := d.setFld .pwrDom n 0 31 30 2

/-- Hearth 0 runs with its warden, thread 0, READY at address 0x40. -/
def hearthUp : Dev :=
  let d := powered started (domHearth 0)
  ((d.setHth 0 { Hearth.init with reset := 0 }).setThr 0 { Thread.init with st := .ready, pc := 0x40 })

/-- Thread 0 of `hearthUp` with its registers changed. -/
def withThread (f : Thread → Thread) : Dev := hearthUp.updThr 0 f

/-- A state around a device. -/
def st (d : Dev) : State := { fuses := Map.empty, dev := d, pending := [] }


/-! ### Witnesses: the arithmetic, move and branch instructions -/

def w5 (t : Thread) : Thread := { (t.set 1 (Word.plain 0x9FFF)).set 2 (Word.plain 0x8123) with fl := ⟨true, false, true, false, false, false⟩ }

/-- Meets the hypotheses of the statements about arithmetic, moves, special registers and branches. -/
theorem test_turn : Turn (withThread w5) 0 ∧ noRef [((withThread w5).thr 0).get 1, ((withThread w5).thr 0).get 2] ∧
    immSigned [] 5 = some 5 ∧ immUnsigned [0x12] 5 = some 0x125 ∧ branchDisp [] 0xFE = some 0x7FFE := by decide

/-- Thread 0 is in a REP.I with `n` iterations to go. -/
def repeating (n : W16) : Dev := withThread (fun t => { w5 t with rep := .repI, hc := n })

theorem test_repeat : (repeating 3).canIssue 0 = true ∧ ((repeating 3).thr 0).rep = .repI ∧ ((repeating 1).thr 0).hc = 1 ∧
    ((repeating 3).engn 0).repU = none ∧ repeatable 0x0012 .repI = true := by decide

/-! ### Witnesses: loads and stores -/

/-- Thread 0 with pair 3 pointing into the larder of hearth 0, and pair 5 one byte further. -/
def w6 (t : Thread) : Thread :=
  { ((((t.set 6 (Word.plain 0x0400)).set 7 (Word.plain 0x0100)).set 10 (Word.plain 0x0400)).set 11 (Word.plain 0x0101)).set 1
      ⟨.handle, 0xC123⟩ with segh := 0, segl := 0 }

/-- Meets the hypotheses of the statements about loads and stores. -/
theorem test_larder_access : Turn (withThread w6) 0 ∧ memDisp [] 2 = some 0 ∧ memDisp [1] 4 = some 4 ∧ memDisp [] 1 = some 0 ∧
    InOwnLarder (withThread w6) 0 3 0 2 ∧ InOwnLarder (withThread w6) 0 3 4 4 ∧ InOwnLarder (withThread w6) 0 5 0 1 ∧
    ((withThread w6).thr 0).get 2 = Word.zero ∧ ((withThread w6).mem.word 0x2000080).isRef = false := by decide

/-! ### Witnesses: completions, fences, timers -/

/-- A page table at granary address 0 that maps block 2 onto itself, uncached, for context 0 in TRANSLATE. -/
def paged (d : Dev) : Dev := (((powered d (domGran 0)).setFld .mmuCtxCfg 0 0 1 0 1).poke 4 [Word.plain 0x9802, Word.zero])

/-- The entry that the page table gives block 2. -/
def blockTwo : TlbEntry := ⟨0, true, 2, 2, .uc, true⟩

/-- Thread 0 of the paged hearth waits for the walk of its load through pair 3. -/
def walking : Dev :=
  paged (withThread (fun t => { w6 t with st := .blocked, cause := 1, wait := .walk (.ld 0 [] 9 3 false) 0x4000100 false }))

theorem test_walk_waits : WaitsFor walking 0 (.walk (.ld 0 [] 9 3 false) 0x4000100 false) ∧ (walking.thr 0).ulen = 1 ∧
    (walking.thr 0).va 3 0 = 0x4000100 ∧ walking.translates (walking.ctxOf 0) = true ∧
    (walking.hth 0).tlb.find? (fun e => e.covers (walking.ctxOf 0) 0x4000100) = none := by decide

theorem test_walk_finds : walking.walk (walking.ctxOf 0) 0x4000100 false = (.inr blockTwo, walking) := by decide

theorem test_walk_target : blockTwo.covers (walking.ctxOf 0) 0x4000100 = true ∧ blockTwo.attr = .uc ∧
    blockTwo.pa 0x4000100 = 0x4000100 ∧ walking.walking 0 (0x4000100 / 65536) = true ∧
    walking.walkWaits (walking.ctxOf 0) 0x4000100 = false ∧ walking.domOn (domHearth 0) = true ∧
    (∀ k < 4, walking.bit .dbgWp 0 k 31 = false) ∧ (walking.engn 0).wb = [] ∧
    walking.mem.ecc.get 0 (0x100000000000 + 0x2000080) = 0 := by decide

/-- Thread 0 waits with `w`. -/
def waiting (w : Wait) : Dev := withThread (fun t => { t with st := .blocked, cause := 1, wait := w })

theorem test_response_waits :
    WaitsFor (waiting (.resp ⟨[(4, ⟨.ticket, 7⟩)], some ⟨true, false, false, false, false, false⟩, none⟩)) 0
      (.resp ⟨[(4, ⟨.ticket, 7⟩)], some ⟨true, false, false, false, false, false⟩, none⟩) := by decide

/-- Engine 0 holds one store for the larder of hearth 0. -/
def buffered (d : Dev) : Dev :=
  d.setEngn 0 { d.engn 0 with wb := [⟨0x800020, .uc, [⟨1, ⟨.handle, 0xC005⟩, true, true, true⟩], 0⟩], wbIn := 1 }

theorem test_buffered_store : (buffered hearthUp).engn (0 * 16 + 0) = { hearthUp.engn 0 with
      wb := [⟨0x800020, .uc, [⟨1, ⟨.handle, 0xC005⟩, true, true, true⟩], 0⟩], wbIn := 1 } ∧
    (buffered hearthUp).domOn (domHearth ((0x800020 * 8 - 0x4000000) / 0x80000)) = true := by decide

/-- The three cases of FENCE and RELEASE_EFFECT. -/
theorem test_fence_cases : ReleaseTurn hearthUp 0 ∧ Turn (buffered hearthUp) 0 ∧
    ((buffered hearthUp).engn 0).wbOut < ((buffered hearthUp).engn 0).wbIn ∧
    ((withThread (fun t => { t with wait := .drain (.fence 0) 0 })).thr 0).wait = .drain (.fence 0) 0 := by decide

theorem test_log_clear : LogClear hearthUp 18 5 := by decide

/-- TC armed at 0x10 with the device time at 0x20. -/
def timed (d : Dev) : Dev := { d.updThr 0 (fun t => { t with tc := 0x10, tcArmed := true }) with time := { d.time with ns := 0x20, tick := 1 } }

theorem test_timer_cases : Turn (timed hearthUp) 0 ∧ (hearthUp.thr 0).tcArmed = false ∧ ((timed hearthUp).thr 0).tcArmed = true ∧
    ((timed hearthUp).engn 0).isSwift 0 = true ∧ WaitsFor (timed (waiting .tc)) 0 .tc ∧
    (0x20 + 2 ^ 36 - ((timed hearthUp).thr 0).tc.toNat) % 2 ^ 36 < 2 ^ 35 ∧ ((timed hearthUp).thr 0).tcTick < (timed hearthUp).time.tick := by decide

/-- Thread 0 is patient and the current thread of engine 0, or another is; thread 2 is READY too. -/
def patientPair (c : Nat) : Dev :=
  let d := hearthUp.setThr 2 { Thread.init with st := .ready, boost := true }
  d.setEngn 0 { d.engn 0 with swift := 0, cur := some c }

theorem test_patient_yields : Turn (patientPair 0) 0 ∧ ((patientPair 0).engn 0).isSwift 0 = false ∧ ((patientPair 0).engn 0).cur = some 0 ∧
    ((patientPair 0).thr 2).st = .ready := by decide

/-- A patient thread that is not current may issue only where its engine is held for it. -/
theorem test_patient_not_current : let d := (patientPair 2).setEngn 0 { (patientPair 2).engn 0 with repU := some 0 }
    Turn d 0 ∧ (d.engn 0).isSwift 0 = false ∧ (d.engn 0).cur ≠ some 0 := by decide

/-! ### Witnesses: flues and traps -/

/-- Thread 0 names local flue 5 in w2, with one word staged for it. -/
def sender (d : Dev) : Dev :=
  d.updThr 0 (fun t => { t.set 2 (Word.plain 5) with staged := [⟨.handle, 1⟩], stagedName := 5 })

theorem test_sender : ReleaseTurn (sender hearthUp) 0 ∧ flueOf 0 5 = some 5 ∧ (sender hearthUp).senders 5 = [] ∧
    (((sender hearthUp).thr 0).get 2) = Word.plain 5 := by decide

/-- Thread 0 waits in SENDE on flue 5. -/
def blockedSender : Dev := sender (waiting (.sende 5))

theorem test_blocked_sender : WaitsFor blockedSender 0 (.sende 5) ∧ blockedSender.senders 5 = [(0, 0)] ∧
    (blockedSender.thr 0).ulen = 1 := by decide

/-- Flue 5 holds a message of two words; thread 0 waits for it or not. -/
def withMessage (d : Dev) : Dev := d.setFlue 5 [⟨[⟨.ticket, 9⟩, Word.plain 3], none⟩]

theorem test_receiver : Turn (withMessage (sender hearthUp)) 0 ∧ (withMessage (sender hearthUp)).boundTo 0 = none ∧
    (withMessage (sender hearthUp)).receivers 5 = [] ∧ WaitsFor (withMessage (waiting (.recv 4 5))) 0 (.recv 4 5) ∧
    (withMessage (waiting (.recv 4 5))).receivers 5 = [(0, 0)] ∧ flueOf 0 0x8003 = some 4099 := by decide

/-- Thread 0 in a trap, its frame in the larder holding return address 0x123 and FLAGS 0x15. -/
def inFrame : Dev := (withThread (fun t => { t with inTrap := true })).poke 0x203FE00 [Word.plain 0x123, Word.plain 0x15, Word.plain 7, Word.zero]

theorem test_traps : Turn hearthUp 0 ∧ (hearthUp.thr 0).inTrap = false ∧ (hearthUp.engn 0).wb = [] ∧
    hearthUp.bit .dbgCtrl 0 0 0 = false ∧ Turn inFrame 0 ∧ inFrame.mem.word 0x203FE00 = Word.plain 0x123 ∧
    inFrame.mem.word 0x203FE01 = Word.plain 0x15 ∧ (∀ k < 4, inFrame.mem.ecc.get 0 (0x100000000000 + 0x203FE00 + k) = 0) ∧
    inFrame.exiLead 0 (inFrame.thr 0).pc.toNat = 0 ∧
    (∀ k < 4, (inFrame.mem.word (0x203FE00 + k)).tag = .plain) ∧
    (hearthUp.setBit .dbgCtrl 0 0 0 true).bit .dbgCtrl 0 0 0 = true := by decide

/-- Thread 0 names flue `f` in w2, whose messages are `l`, and is bound as `bind` tells. -/
def reader (f bind : W16) (l : List FlueMsg) : Dev :=
  (withThread (fun t => { t.set 2 (Word.plain f) with bindName := bind })).setFlue ((flueOf 0 f).getD 0) l

/-- A message of one word with its reader. -/
def oneWord (r : Option Nat) : FlueMsg := ⟨[⟨.ticket, 9⟩], r⟩

/-- The cases of RECV: unbound, bound, behind another's message, on a long flue, bound elsewhere, with nothing to bind, and on a transmit flue. -/
theorem test_reader_cases : Turn (reader 5 0 [oneWord (some 3), oneWord none]) 0 ∧ (reader 5 0 [oneWord (some 3), oneWord none]).boundTo 0 = none ∧
    (reader 5 5 [oneWord none, oneWord (some 0)]).boundTo 0 = some 5 ∧ (reader 0x8003 0 [oneWord none]).boundTo 0 = none ∧
    (reader 0x8003 0 [oneWord none]).receivers 4099 = [] ∧ (reader 0x8003 0x8003 [oneWord (some 0)]).boundTo 0 = some 4099 ∧
    (reader 6 5 [oneWord none]).boundTo 0 = none ∧ ((reader 6 5 [oneWord none]).setFlue 5 [oneWord (some 0)]).boundTo 0 = some 5 ∧
    (reader 5 0 []).flue 5 = [] ∧ (reader 0x8003 0 []).isTxFlue 4099 = false ∧
    ((reader 0x8003 0 []).wr .canCtrl 1 0 0x1000003).isTxFlue 4099 = true ∧ (reader 0 0 []).isTxFlue 0 = false := by decide

/-- A thread other than the warden names F0. -/
theorem test_reader_of_f0 : Turn (hearthUp.setThr 8 { Thread.init with st := .ready, pc := 0x41 } |>.setEngn 1 { hearthUp.engn 1 with cur := some 0 }) 8 ∧
    flueOf (hearthOf 8) 0 = some 0 ∧ (Thread.init.get 2).v = 0 := by decide

/-- The thread that waits is the first of the flue's. -/
theorem test_waiting_reader : firstBlocked ((withMessage (waiting (.recv 4 5))).receivers 5) 0 = true ∧
    (withMessage (waiting (.recv 4 5))).isTxFlue 5 = false ∧ ((waiting (.recv 4 5)).thr 0).ulen = 1 := by decide

/-! ### Witnesses: locks -/

/-- Lock 7 in a given state, with messages on their way. -/
def locked (d : Dev) (l : Lock) (m : List LockMsg) : Dev :=
  { d with lck := ⟨(Map.empty : Map Lock).set Lock.init 7 l, m, []⟩ }

def free7 : Lock := ⟨none, 0, 3, false, 0, []⟩
def held7 : Lock := ⟨some 0, 2, 3, false, 0, []⟩

/-- Thread 0 asks for lock 7 through w4; thread 0 holds lock 7 with its handle in pair 1. -/
def asker : Dev := withThread (fun t => t.set 4 (Word.plain 7))
def holder : Dev := withThread (fun t =>
  { (t.set 2 ⟨.handle, 0xD003⟩).set 3 ⟨.handle, 7⟩ with locks := [(7, 3)] })

theorem test_lock_request : Turn asker 0 ∧ (asker.thr 0).get 4 = Word.plain 7 ∧ (asker.thr 0).locks = [] ∧
    (locked asker free7 [.request 7 0 2]).lock 7 = free7 ∧ (locked asker held7 []).bit .lckCtrl 0 0 1 = true ∧
    ((locked asker held7 []).setBit .lckCtrl 0 0 1 false).bit .lckCtrl 0 0 1 = false := by decide

/-- Thread 0 waits for lock 7 with pair 1 and w4, one millisecond after it asked. -/
def waiter : Dev :=
  let d := locked (waiting (.lock 7 1 (some 4) none)) { free7 with queue := [⟨0, 0, 0⟩] } [.grant 7 0 3 0]
  { d with time := { d.time with tick := 100000 } }

theorem test_lock_wait : WaitsFor waiter 0 (.lock 7 1 (some 4) none) ∧ (waiter.thr 0).ulen = 1 ∧
    waiter.lck.msgs = [.grant 7 0 3 0] ∧ 0 < waiter.fld .lckTmo (waiter.fld .lckCfg 7 0 2 0) 0 19 0 ∧
    waiter.fld .lckTmo (waiter.fld .lckCfg 7 0 2 0) 0 19 0 * 100 ≤ waiter.time.tick := by decide

theorem test_lock_hold : ReleaseTurn holder 0 ∧ (holder.thr 0).get 2 = ⟨.handle, BitVec.ofNat 16 (13 * 4096 + 3)⟩ ∧
    (holder.thr 0).get 3 = ⟨.handle, 7⟩ ∧ (holder.thr 0).locks = [(7, 3)] ∧
    (locked holder held7 [.release 7 0 3 false]).lock 7 = held7 ∧ LogClear (locked holder held7 []) 12 0 := by decide

/-! ### Witnesses: the smithy -/

/-- Operation `op` of unit `x` at its head in hearth 0: five bytes at larder address 0x4000101, destination 0x4000200. -/
def smithyVs (len : W16) : List W16 := [0x0400, 0x0101, 0, len, 0x0400, 0x0200, 0, 5, 1, 2, 3, 4, 5, 6]
def smithyOp (op : Nat) (len : W16) : SmOp := ⟨0, op, false, (smithyVs len).map Word.plain, 0, none, none, SmBlock.fresh⟩
def smithyReady (x op : Nat) (len : W16) : Dev :=
  let d := (hearthUp.setUnitOps 0 x [smithyOp op len]).setHth 0
    { (hearthUp.setUnitOps 0 x [smithyOp op len]).hth 0 with keys := (Map.empty : Map (Option KeySlot)).set none 5 (some ⟨77, false⟩) }
  (d.poke 0x2000080 [Word.plain 0x1122, Word.plain 0x3344, Word.plain 0x5566]).poke 0x2000100
    ((List.range 8).map (fun _ => Word.zero))

theorem test_smithy_head : SmithyHead (smithyReady 1 3 5) 0 1 3 (smithyVs 5) (smithyOp 3 5) [] ∧
    SmithyHead (smithyReady 2 1 5) 0 2 1 (smithyVs 5) (smithyOp 1 5) [] ∧
    SmithyHead (smithyReady 0 2 0) 0 0 2 (smithyVs 0) (smithyOp 2 0) [] := by decide +kernel

theorem test_smithy_source : PlainLarder (smithyReady 1 3 5) 0 0x4000101 5 ∧ PlainLarder (smithyReady 0 2 0) 0 0x4000200 16 ∧
    ((smithyReady 0 2 0).hth 0).keys.get none 5 = some ⟨77, false⟩ ∧ ((smithyReady 2 1 5).hth 0).pats = Map.empty := by decide +kernel

/-- Room behind the destination for a text with its tag, one pattern, and the tag of the empty text at the source. -/
def smithyText (x op : Nat) (len : W16) : Dev :=
  let d := (smithyReady x op len).poke 0x2000100 ((List.range 16).map (fun _ => Word.zero))
  d.setHth 0 { d.hth 0 with pats := (Map.empty : Map (Option Pattern)).set none 3 (some ⟨0x80000002, [0x22330000]⟩) }
def emptyTag : List W8 := [249, 255, 61, 12, 229, 64, 152, 177, 93, 164, 48, 175, 103, 67, 226, 192]
def decVs : List W16 := [0x0400, 0x0100, 0, 0, 0x0400, 0x0200, 0, 5, 1, 2, 3, 4, 5, 6]
def sealed : Dev :=
  (hearthUp.setUnitOps 0 0 [⟨0, 1, false, decVs.map Word.plain, 0, none, none, SmBlock.fresh⟩]).poke 0x2000080 (bytesToWords emptyTag)

theorem test_smithy_text : PlainLarder (smithyText 0 0 5) 0 0x4000200 21 ∧ PlainLarder (smithyText 2 0 5) 0 0x4000200 4 ∧
    SmithyHead (smithyText 0 0 5) 0 0 0 (smithyVs 5) (smithyOp 0 5) [] ∧ SmithyHead (smithyText 2 0 5) 0 2 0 (smithyVs 5) (smithyOp 0 5) [] ∧
    (smithyText 2 0 5).patterns 0 = [(3, [0x22, 0x33])] ∧ (smithyText 2 0 5).mem.bytes 0x4000101 5 = [0x22, 0x33, 0x44, 0x55, 0x66] := by
  decide +kernel

theorem test_smithy_tag : Crypto.gcmTag (Crypto.roundKeys (KeySlot.bytes ⟨77, false⟩))
      (([1, 2, 3, 4, 5, 6] : List Nat).flatMap (Crypto.toBe 2)) [] [] = emptyTag ∧
    PlainLarder sealed 0 0x4000100 16 ∧ sealed.mem.bytes 0x4000100 16 = emptyTag ∧
    SmithyHead sealed 0 0 1 decVs ⟨0, 1, false, decVs.map Word.plain, 0, none, none, SmBlock.fresh⟩ [] := by decide +kernel

/-- A thread may use the coprocessor registers, and a unit has a completion to make. -/
theorem test_coprocessor : Turn hearthUp 0 ∧ hearthUp.cregPending 0 7 = false ∧ hearthUp.cpBusy 0 1 = false ∧
    (hearthUp.setUnitOps 0 1 [{ smithyOp 3 5 with out := some (Word.zero, Word.zero, some (Word.zero, Word.zero)) }]).unitOps 0 1 =
      [{ smithyOp 3 5 with out := some (Word.zero, Word.zero, some (Word.zero, Word.zero)) }] := by decide +kernel

/-- The published check values of CRC-32 and CRC-32C, of the digits 1 to 9. -/
theorem test_crc_check :
    Crypto.crc32Run 0xFFFFFFFF [0x31, 0x32, 0x33, 0x34, 0x35, 0x36, 0x37, 0x38, 0x39] ^^^ 0xFFFFFFFF = 0xCBF43926 ∧
    Crypto.crc32cRun 0xFFFFFFFF [0x31, 0x32, 0x33, 0x34, 0x35, 0x36, 0x37, 0x38, 0x39] ^^^ 0xFFFFFFFF = 0xE3069283 := by
  decide +kernel

/-! ### Witnesses: tasks -/

/-- A task of class 7 in slot 5, in some place, with ticket 9 or none. -/
def task7 (l : TaskLoc) (tk : Option Nat) : Task :=
  { words := (List.replicate 16 Word.zero).set 0 (Word.plain 0x3E00), banked := [], loc := l, since := 0, stagedAt := 0,
    aff := false, set := 1, home := none, ticket := tk, deadline := false, overtaken := false, cancelled := false }

/-- `d` with that task, ticket 9 held. -/
def withTask (d : Dev) (l : TaskLoc) (tk : Option Nat := some 9) : Dev :=
  (d.setTask 5 (some (task7 l tk))).setTkt 9 { Ticket.init with st := .held }

/-- Pool 3 has four free buffers at the foot of granary bank 0. -/
def pooled (d : Dev) : Dev :=
  let d1 := (((powered d (domGran 0)).setBit .bpmPoolCfg 3 0 31 true).setBit .bpmPoolStat 3 0 31 true).setFld .bpmPoolCount 3 0 16 0 4
  { d1 with bpm := { d1.bpm with free := d1.bpm.free.set 0 3 4 } }

/-- Thread 0 holds the task, its ticket in w4 and its area at hand: with a verdict for buffer 2 of pool 3, or none. -/
def taskHolder (verdict : Bool) : Dev :=
  (withTask (withThread (fun t => { t.set 4 ⟨.ticket, 9⟩ with ctxH := ⟨.handle, 0xC000⟩, ctxL := ⟨.handle, 5⟩ })) (.held 0)).poke
    (taskArea 0) (if verdict then
      [Word.zero, Word.zero, ⟨.handle, 0x3000⟩, ⟨.handle, 2⟩, Word.zero, Word.zero, Word.zero, Word.plain 0x2000, Word.plain 6,
       Word.zero, Word.plain 4] else List.replicate 11 Word.zero)

theorem test_take : Turn (withTask hearthUp (.staged 0)) 0 ∧ TallyOff hearthUp ∧ (hearthUp.thr 0).task = none ∧
    (withTask hearthUp (.staged 0)).stagedFor 0 = some 5 ∧ hearthUp.stagedFor 0 = none ∧
    WaitsFor (withTask (waiting (.take 4)) (.staged 0)) 0 (.take 4) ∧ ((waiting (.take 4)).thr 0).ulen = 1 := by decide

theorem test_task_ends : ReleaseTurn (taskHolder true) 0 ∧ TallyOff (taskHolder true) ∧ NoneHeld (taskHolder true) ∧
    ((taskHolder true).thr 0).task = some 5 ∧ (task7 (.held 0) (some 9)).kind ≠ 4 ∧ ((taskHolder true).tkt 9).st = .held ∧
    ((taskHolder true).thr 0).get 4 = (taskHolder true).tktWord 9 ∧ (pooled (taskHolder true)).bufCurrent 3 0 2 = true := by decide

theorem test_task_area : ((taskHolder true).readWords (taskArea 0 * 2) 11).1.getD 7 Word.zero = Word.plain 0x2000 ∧
    ((taskHolder true).readWords (taskArea 0 * 2) 11).2 = taskHolder true ∧
    ((taskHolder false).readWords (taskArea 0 * 2) 11).2 = taskHolder false ∧
    ((taskHolder false).readWords (taskArea 0 * 2) 11).1 = List.replicate 11 Word.zero ∧
    ((taskHolder false).thr 0).get 2 = Word.zero := by decide +kernel

/-- Thread 0 points to a record of kind 3, or of kind 5, in its larder. -/
def poster (kind : Nat) : Dev :=
  (withThread w6).poke 0x2000080 (Word.plain (BitVec.ofNat 16 (kind * 4096)) :: List.replicate 15 Word.zero)

theorem test_post : Turn (poster 3) 0 ∧ InOwnLarder (poster 3) 0 3 0 4 ∧ ((poster 3).thr 0).va 3 0 = 0x4000100 ∧
    (∀ k < 16, (poster 3).mem.ecc.get 0 (0x100000000000 + 0x2000080 + k) = 0) ∧ (poster 3).dsp.tasks = Map.empty ∧
    (poster 3).postRefusal (Word.plain 0x3000 :: List.replicate 15 Word.zero) (some 0) = none ∧
    (poster 5).postRefusal (Word.plain 0x5000 :: List.replicate 15 Word.zero) (some 0) = some 1 ∧ LogClear (poster 5) 7 0 ∧
    (poster 5).ctr .dspPostRefused = 0 := by decide

/-- Thread 0 with the handle of task slot 5, of a generation, in pair 1. -/
def canceller (gen : W16) : Dev := withThread (fun t => (t.set 2 ⟨.handle, 0xC000 + gen⟩).set 3 ⟨.handle, 5⟩)

theorem test_cancel : ((canceller 0).thr 0).get 2 = ⟨.handle, BitVec.ofNat 16 (12 * 4096 + 0)⟩ ∧
    (withTask (canceller 0) (.ready 0) none).task 5 = some (task7 (.ready 0) none) ∧ (canceller 0).slotGen 5 = 0 ∧
    (task7 (.ready 0) none).word 2 = Word.zero ∧ Turn (canceller 1) 0 := by decide

/-- Thread 0 with number `n` in w3 and, in pair 2, the handle of buffer 2 of pool 3, which is in use or not. -/
def bufferer (n : W16) (inUse : Bool) : Dev :=
  (pooled (withThread (fun t => ((t.set 3 (Word.plain n)).set 4 ⟨.handle, 0x3000⟩).set 5 ⟨.handle, 2⟩))).setBuf 3 2
    { Buf.init with alloc := inUse }

theorem test_balloc : Turn (bufferer 3 false) 0 ∧ PoolHas (bufferer 3 false) 3 ∧ FirstFit (bufferer 600 false) 600 3 ∧
    (∀ n < 8, (bufferer 700 false).poolFits n 800 = false) ∧ (bufferer 3 true).bufCurrent 3 0 2 = true ∧
    ((bufferer 3 true).buf 3 2).reading = 0 := by decide +kernel

theorem test_bcopy : ((bufferer 3 true).writeHead 3 2 0 600 0 false 0).head 3 2 = (some (600, 16), (bufferer 3 true).writeHead 3 2 0 600 0 false 0) ∧
    FirstFit (bufferer 3 true) 600 3 ∧ PoolHas (bufferer 3 true) 3 ∧ Turn (bufferer 3 true) 0 := by decide +kernel

/-- Task slot 5 heads hearth 0's list of class 7 and thread 0 is open; the time is late. -/
def offering : Dev :=
  let d := ((withTask hearthUp (.ready 0)).setReady 0 7 [5]).setOpen 0 true
  { d with time := { d.time with tick := 1000000, ns := 10000000 } }

theorem test_offer : offering.readyList 0 7 = [5] ∧ offering.freeOpen 0 = [0] ∧ (task7 (.ready 0) (some 9)).cls = 7 ∧
    (task7 (.ready 0) (some 9)).flowValid = false := by decide

/-- The same task, staged for thread 0 long ago. -/
def stagedLong : Dev := { withTask hearthUp (.staged 0) with time := offering.time }

theorem test_withdraw : stagedLong.stagedFor 0 = some 5 ∧ stagedLong.fld .dspLimits 0 0 31 16 ≤ 1000000 * 12 ∧
    stagedLong.ctr .dspWithdrawn = 0 := by decide

/-- Delay list 6 holds the task, which is due. -/
def delayed6 : Dev :=
  let d := withTask hearthUp (.delayed 6 5000)
  { d with time := offering.time, dsp := { d.dsp with delay := d.dsp.delay.set [] 6 [5] } }

/-- Hearth 1 starves with the task on its list, and hearth 0 is idle. -/
def starving : Dev :=
  let d := (((withTask hearthUp (.ready 1)).setReady 1 7 [5]).setOpen 0 true).setBit .dspCtrl 0 0 2 true
  { d with time := offering.time, dsp := { d.dsp with starved := d.dsp.starved.set 0 1 1 } }

theorem test_delay_and_move : delayed6.dsp.delay.get [] 6 = [5] ∧ delayed6.expiryOf 5 ≤ delayed6.time.ns.toNat ∧
    starving.wanting 1 = true ∧ starving.dsp.starved.get 0 1 = 1 ∧ starving.fld .dspCtrl 0 0 23 16 ≤ 1000000 * 12 ∧
    (task7 (.ready 1) (some 9)).set.getLsbD 0 = true ∧ starving.isIdle 0 = true := by decide

/-- Mill 2 has admitted a frame, with a domain or without. -/
def forming (dom : Option Nat) : Dev :=
  (hearthUp.setBit .dspCtrl 0 0 0 true).setMill 2 { Mill.init with
    banked := [⟨(List.replicate 16 Word.zero).set 0 (Word.plain 0x1200), dom, false, []⟩] }

theorem test_form : ((forming (some 3)).mill 2).banked.length = 1 ∧ (forming none).dsp.tasks = Map.empty ∧
    (forming (some 3)).bit .dspCtrl 0 0 0 = true ∧ 0 < 16384 - (forming none).postLimit ∧ (forming (some 3)).rel.fresh = 0 := by
  decide

/-- The same in mill 1 too. -/
theorem test_form_order : (((forming (some 3)).setMill 1 ((forming (some 3)).mill 2)).nextDom 1 = some 3) ∧
    (((forming (some 3)).setMill 1 ((forming (some 3)).mill 2)).nextDom 0 ≠ some 3) ∧
    1 < 16384 - ((forming (some 3)).setMill 1 ((forming (some 3)).mill 2)).postLimit := by decide

/-- A held task with a deadline at time 0, whose banked verdict names buffer 2 of pool 3. -/
def deadlined : Task :=
  { task7 (.held 0) (some 9) with deadline := true, banked :=
    [Word.zero, Word.zero, ⟨.handle, 0x3000⟩, ⟨.handle, 2⟩, Word.zero, Word.zero, Word.zero, Word.plain 0x2000] }

def late : Dev :=
  let d := ((pooled (withTask hearthUp (.held 0))).setTask 5 (some deadlined)).setBit .relCtrl 0 0 1 true
  { d with time := offering.time }

theorem test_deadline : late.task 5 = some deadlined ∧ late.bit .relCtrl 0 0 1 = true ∧ (late.tkt 9).st = .held ∧
    late.bufCurrent 3 0 2 = true ∧ (late.time.ns.truncate 32 - ((deadlined.word 11).v ++ (deadlined.word 12).v)).toNat < 2 ^ 31 ∧
    late.ctr .relOvertaken = 0 := by decide

/-- The tally runs with a ring of 16 entries at the foot of granary bank 0, and has lost 70,000 records. -/
def tallying : Dev :=
  let d := ((powered started (domGran 0)).setBit .dspTallyCfg 0 0 0 true).setFld .dspTallyCfg 0 0 8 4 4
  { d with dsp := { d.dsp with tallyLost := 70000 } }

theorem test_tally : tallying.tallyRoom = true ∧ tallying.domOn (domGran 0) = true ∧ tallying.dsp.tallyLost = 70000 ∧
    (tallying.rd .dspTallyBaseLo).toNat = 0 := by decide

/-! ### Witnesses: thread commands -/

/-- Thread 1 of hearth 0 as `f` makes it. -/
def second (f : Thread → Thread) : Dev := hearthUp.updThr 1 f

theorem test_thread_commands : Opens hearthUp .spi .hthThrCmd 0 0 ∧ Opens hearthUp .spi .hthTsr 0 (1 * 32 + 5) ∧
    Opens hearthUp .spi .dbgThrCmd 0 0 ∧ Opens hearthUp .spi .dbgGroup 0 0 ∧ (hearthUp.thr 1).st = .off ∧
    (hearthUp.hth 0).reset = 0 ∧ hearthUp.domOn (domHearth 0) = true ∧ hearthUp.lck = ⟨Map.empty, [], []⟩ ∧
    hearthUp.stagedFor 1 = none ∧ hearthUp.progWord 0 0 = 0 ∧ LogClear hearthUp 18 0 := by decide

/-- A breakpoint of every thread stands at the warden's PC. -/
def atBreak : Dev := hearthUp.wr .dbgBp 0 2 0xC0000040

theorem test_breakpoint : (hearthUp.thr 0).wait = .none ∧ (hearthUp.engn 0).repU = none ∧ (hearthUp.thr 0).st = .ready ∧
    (atBreak.rd .dbgBp 0 2).getLsbD 31 = true ∧ bits (atBreak.rd .dbgBp 0 2) 14 0 = (hearthUp.thr 0).pc.toNat := by decide

/-- Thread 1 holds a task and has run too long, blocked with a cause or not. -/
def overdue (b : Bool) : Dev :=
  (second (fun t => { t with
    st := if b then .blocked else .ready, cause := if b then 1 else 0, ctxH := ⟨.handle, 0xC000⟩, ctxL := ⟨.handle, 5⟩,
    wdog := 10000000 })).setFld .hthWdog 0 0 7 0 2

theorem test_watchdog : 0 < (overdue false).fld .hthWdog 0 0 7 0 * 8192 ∧ (overdue false).fld .hthWdog 0 0 7 0 * 8192 < 10000000 ∧
    ((overdue false).thr 1).task ≠ none ∧ ((overdue false).thr 0).st ≠ .off ∧ (overdue false).stagedFor 1 = none ∧
    ((overdue true).thr 1).cause = 1 := by decide

/-- Thread 1 is current on engine 0, with less credit than thread 2, which is READY. -/
def spent : Dev :=
  let d := ((second (fun t => { t with st := .ready, credit := -5 })).updThr 2 (fun t => { t with st := .ready, credit := 3 })).setFld
    .hthPreempt 0 0 7 0 1
  { d.setEngn 0 { d.engn 0 with cur := some 1 } with time := offering.time }

theorem test_preempt : (spent.engn 0).cur = some 1 ∧ 0 < spent.fld .hthPreempt 0 0 7 0 * 256 ∧
    (spent.engn 0).curSince + spent.fld .hthPreempt 0 0 7 0 * 256 ≤ spent.engclk ∧ spent.qualifies 0 2 = true ∧
    (∀ k < 8, k ≠ 1 → k ≠ 2 → spent.qualifies 0 k = false) ∧ (hearthUp.engn 0).cur = none := by decide

/-- Hearth 0 has a report, and nothing in its mailbox; thread 1 has waited for a message long enough. -/
def reporting : Dev := hearthUp.setHth 0 { hearthUp.hth 0 with repq := [⟨[0x1234, 1], 4⟩] }
def still : Dev :=
  let d := second (fun t => { t with st := .blocked, cause := 3, wait := .recv 1 7 })
  d.setHth 0 { d.hth 0 with still := 4096 }

theorem test_reports : (reporting.hth 0).repq = [⟨[0x1234, 1], 4⟩] ∧ reporting.flue 0 = [] ∧ still.isStill 0 = true ∧
    4096 ≤ (still.hth 0).still ∧ (still.hth 0).stillRep = false ∧ still.canReceive 0 = true := by decide

/-! ### Witnesses: set-up accesses, time, the log -/

/-- JTAG may access the set-up space. -/
def jtagged : Dev := started.setBit .dbgCtrl 0 0 31 true

theorem test_setup : started.reaches .spi = true ∧ started.mayTouch .spi (RegKind.off .errIrqEn 0 0) = true ∧
    started.setupOn (RegKind.off .errIrqEn 0 0) = true ∧ jtagged.reaches .jtag = true ∧ regAt 0x3FC = .none ∧
    LogClear started (blockOf 0x3FC) (instOf 0x3FC) ∧ regAt (CtrKind.off .dspTasks 0 0) = .ctr .dspTasks 0 0 false ∧
    CtrKind.off .dspTasks 0 0 < 2 ^ 24 ∧ (CtrKind.dspTasks).desc.width = 64 ∧
    regAt (CtrKind.off .dspWithdrawn 0 0) = .ctr .dspWithdrawn 0 0 false := by decide +kernel

/-- A SET or a STEP waits. -/
def setting (a b : Option W64) : Dev := { started with time := { started.time with setPend := a, stepPend := b } }

/-- TS_IO pin 2 in a mode, at a level. -/
def pin (mode : Nat) (level : Bool) : Dev :=
  let d := (((started.setFld .tsioCtrl 2 0 2 0 mode).setBit .tsioCtrl 2 0 16 level).wr .tsioPeriod 2 0 1000).wr .tsioWidth 2 0 100
  { d with time := { d.time with ns := 4500 },
           chm := { d.chm with txts := d.chm.txts.set [] 3 [(7, 9), (8, 10)], tsNext := d.chm.tsNext.set 0 2 3500, tsRose := d.chm.tsRose.set none 2 (some 4000) } }

theorem test_time : Opens started .spi .timeCmd 0 0 ∧ Opens started .spi .timeNowLo 0 0 ∧ Opens started .spi .timeTxtsPop 3 0 ∧
    (setting (some 5) none).time.setPend = some 5 ∧ started.rd .timeRate = 0 ∧ EventOff (pin 1 false) (128 + 2) ∧
    (pin 1 false).fld .tsioCtrl 2 0 2 0 = 1 ∧ (pin 4 true).bit .tsioCtrl 2 0 16 = true ∧ (pin 4 true).rd .tsioPeriod 2 = 1000 ∧
    (pin 4 true).chm.txts.get [] 3 = [(7, 9), (8, 10)] ∧ (pin 4 false).chm.tsNext.get 0 2 = 3500 ∧ (pin 4 false).time.ns = 4500 ∧
    (pin 4 false).rd .tsioStartLo 2 = 0 ∧ (pin 4 true).rd .tsioWidth 2 = 100 := by decide +kernel

/-- A record waits, and the ring of 64 records stands at the foot of granary bank 0. -/
def logging : Dev :=
  let d := ((powered started (domGran 0)).setBit .errLogCfg 0 0 0 true).setFld .errLogCfg 0 0 8 4 6
  { d with log := ⟨⟨[(3077, ⟨some ⟨2, 3, 0x11, 5, 1, 2, 3, 0x123456789AB, false⟩, none, 0⟩)]⟩, Map.empty, 0, 0⟩ }

theorem test_log : logging.logRoom = true ∧ EventOff logging 169 ∧ logging.domOn (domGran 0) = true ∧
    logging.fld .errIrqEn 0 0 5 4 ≤ 2 ∧ (logging.rd .errLogBaseLo).toNat = 0 := by decide

/-- A fuse word is being programmed; the temperature alarm is armed. -/
def fusing : Dev := { jtagged with top := { jtagged.top with otpBusy := some (0, 3, 0xF0) }, time := offering.time }
def warm : Dev :=
  let d := started.setBit .topTempAlarm 0 0 31 true
  { d with top := { d.top with tempArmed := true } }

theorem test_fuses : jtagged.bit .dbgCtrl 0 0 31 = true ∧ jtagged.top.otpBusy = none ∧ fusing.top.otpBusy = some (0, 3, 0xF0) ∧
    0 + 10000 ≤ fusing.time.tick ∧ (BitVec.ofNat 11 (warm.fld .topTempAlarm 0 0 10 0)).toInt = 460 ∧ EventOff warm 171 ∧
    (470#11).toInt = 470 ∧ (455#11).toInt = 455 := by decide +kernel

/-- Each clause of the statement about set-up accesses at a register of its kind: an LCK register under its lock, a reserved rate, a write that is
ignored as a whole, a byte received by a UART, a W1P bit, and an access before START. -/
theorem test_setup_kinds : regAt 0x540400 = .reg .xspiCfg 0 0 ∧ (started.wr .topSetupLock 0 0 0xFFFFF).bit .topSetupLock 0 0 (blockOf 0x540400) = true ∧
    regAt 0x580010 = .reg .timeRate 0 0 ∧ started.reserved .timeRate 0 0 0x7FFFFFFF 0 ⟨31, 0, .rw, 0⟩ = true ∧
    regAt (RegKind.off .hthRngLen 0 0) = .reg .hthRngLen 0 0 ∧ (hearthUp.setBit .hthRngStat 0 0 31 true).refusedWrite .hthRngLen 0 5 = true ∧
    hearthUp.setupOn (RegKind.off .hthRngLen 0 0) = true ∧ regAt (RegKind.off .uartData 0 0) = .reg .uartData 0 0 ∧
    regAt 0x48000C = .reg .lnkMsiSend 0 0 ∧ RegKind.starts .xspiCfg = false ∧ RegKind.readsMore .lnkMsiSend = false ∧
    ({ started with top := { started.top with boot := { started.top.boot with phase := .load } } } : Dev).mayTouch .spi 0x580010 = false ∧
    started.reaches .spi = true := by decide +kernel

/-- A STEP waits at a rate that is not 0. -/
theorem test_step_at_a_rate : ((setting none (some 5)).wr .timeRate 0 0 7).time.stepPend = some 5 ∧
    ((setting none (some 5)).wr .timeRate 0 0 7).rd .timeRate = 7 ∧ (setting none (some 5)).top.inReset = false := by decide

/-! ### Witnesses: mills -/

/-- A frame of 64 bytes from port 2, in buffer 1 of pool 3. -/
def frame64 : RxEntry :=
  { bytes := (List.range 64).map (fun n => (BitVec.ofNat 8 (n * 7 + 3), false)), src := 2, fifo := 64, since := 0, ts := 1000, status := 5,
    meta3 := 6, meta4 := 7, meta5 := 8, buf := some (3, 1, 0) }

def kin : Kindler :=
  ⟨2, [1, 2, 3, 4, 5, 6, 7, 8], List.replicate 44 0, 0, List.replicate 12 0, 9, 0x123⟩

/-- That frame in mill 1: with kindler 3, or parsed with a code and handed over at tick 0. -/
def parsing : MillFrame := ⟨{ frame64 with buf := none }, some (3, kin), none, none, 0, false⟩
def parsed (code : Nat) : MillFrame :=
  ⟨frame64, none, some ⟨List.replicate 48 0, 0, List.replicate 12 0, code, false, 10⟩, some 0, 0, false⟩

def millOf (d : Dev) (fs : List MillFrame) : Dev := d.setMill 1 { d.mill 1 with frames := fs }

theorem test_kindler : ((millOf started [parsing]).mill 1).frames = [parsing] ∧ parsing.kindler = some (3, kin) ∧
    kin.steps < (millOf started [parsing]).fld .kndCtrl 1 0 14 8 ∧ (∀ y ∈ ((millOf started [parsing]).rxWindow parsing.rx).1, y.2 = false) ∧
    kin.cursor + 5 + 24 / 8 ≤ min frame64.bytes.length 256 ∧ 511 < (kin.cursor + 255 + 2 * 2 ^ 3 * 30) % 65536 := by decide +kernel

/-- Mill 1 serves port 2, whose frame waits. -/
def serving : Dev :=
  let d := (((started.setBit .milCtrl 1 0 0 true).setBit .dspCtrl 0 0 0 true).setBit .milSrc0 1 0 2 true).wr .kndEntry 1 2 0x80000045
  { d with prt := { d.prt with rxq := d.prt.rxq.set [] 2 [frame64] } }

theorem test_mill_entry : serving.millOpen 1 = true ∧ serving.nextSource 1 = some 2 ∧ serving.prt.rxq.get [] 2 = [frame64] ∧
    (serving.mill 1).frames = [] ∧ (serving.rd .kndEntry 1 2).getLsbD 31 = true ∧ Opens started .spi .kndProgLo 1 0 ∧
    kindWord 0xD00000123 = true := by decide +kernel

/-- An update port with data staged for index `i`, sub-index `sub`, of mill `m`. -/
def staged (m i sub : Nat) : Dev :=
  (((started.setFld .milUpdIdx m 0 15 0 i).setFld .milUpdIdx m 0 21 16 sub).wr .milUpdData m 0 0x12345065).wr .milUpdData m 1 0x87654321

theorem test_update : Opens (staged 0 5 3) .spi .milUpdCmd 0 0 ∧ (staged 0 5 3).bit .milUpdStat 0 0 31 = false ∧
    (staged 0 5 3).stoneKind 0 2 = 0 ∧ bits ((staged 0 5 3).rd .milUpdData 0 0) 9 0 = 101 ∧
    ((staged 0 5 3).rd .milUpdData 0 0).getLsbD 31 = false ∧ (staged 0 5 3).fld .milUpdIdx 0 0 23 22 = 0 := by decide +kernel

theorem test_update_keys : (staged 0 5 3).findKey 0 ((staged 0 5 3).table 0 2 false) ((staged 0 5 3).updKey 0 2) = none ∧
    (staged 0 5 3).freePlace 0 ((staged 0 5 3).table 0 2 false)
      ((staged 0 5 3).bucketsOf 0 ((staged 0 5 3).table 0 2 false) ((staged 0 5 3).updKey 0 2)).1 = some 0 ∧
    ((staged 0 5 3).table 0 2 false).words = ((staged 0 5 3).updKey 0 2).length := by decide +kernel

/-- The key of `staged` is in place 0 of its first bucket. -/
def placed : Dev :=
  let d := staged 0 5 3
  let t := d.table 0 2 false
  d.setHash 0 (t.block (d.bucketsOf 0 t (d.updKey 0 2)).1 0) [0x8000]

theorem test_update_found : (placed.findKey 0 (placed.table 0 2 false) (placed.updKey 0 2)).isSome = true := by decide +kernel

/-- `d` with a command under way at the update port of mill 0. -/
def updating (d : Dev) (u : Update) : Dev := (d.setMill 0 { d.mill 0 with upd := some u }).setBit .milUpdStat 0 0 31 true

theorem test_update_done : ((updating (staged 0 5 3) ⟨1, 2, false, false⟩).mill 0).upd = some ⟨1, 2, false, false⟩ ∧
    (updating (staged 0 5 3) ⟨1, 2, false, false⟩).stoneKind 0 2 = 0 ∧
    2 ≤ bits ((((staged 0 5 3).wr .milUpdData 0 0 0x01000001).rd .milUpdData 0 0)) 29 23 := by decide +kernel

/-- Mill 1 with a verdict due, under MALF 1 and no stone of learning kind. -/
def judging (code : Nat) : Dev :=
  let d := ((millOf (pooled started) [parsed code]).setFld .milMalf 1 0 1 0 1).setFld .milStoneCfg 1 0 29 28 1
  { d with time := offering.time }

theorem test_verdict : ((judging 1).mill 1).frames = [parsed 1] ∧ (judging 1).fld .milMalf 1 0 1 0 = 1 ∧
    (∀ k < 8, (judging 0).stoneEn 1 k = false) ∧ (judging 0).learnStone 1 = none ∧ (judging 0).fld .milCtrl 1 0 9 8 = 0 := by decide

/-- Gossip of mill 1 waits, or was lost; the ring stands at the foot of granary bank 0. -/
def gossiping (lost : Nat) : Dev :=
  let d := ((powered started (domGran 0)).setBit .milGossipCfg 1 0 0 true).setFld .milGossipCfg 1 0 8 4 6
  d.setMill 1 { d.mill 1 with gossip := if lost = 0 then [.sighting [1, 2, 3, 4, 5, 6, 7, 8] ⟨[], 0, 0⟩ []] else [], gossipLost := lost }

theorem test_gossip : ((gossiping 0).mill 1).gossip = [.sighting [1, 2, 3, 4, 5, 6, 7, 8] ⟨[], 0, 0⟩ []] ∧ (gossiping 9).gossipTakes 1 = true ∧
    ((gossiping 9).mill 1).gossipLost = 9 ∧ EventOff (gossiping 0) (64 + 1) ∧ (gossiping 0).domOn (domGran 0) = true ∧
    (gossiping 0).gossipTakes 1 = true := by decide

/-- A gate list whose change has come, and a recovery instance whose frames have stopped. -/
def changing : Dev :=
  let d := (started.setGate 1 4 { Gate.init with next := some (100, ⟨[(5, true, none)], 5, 0⟩) }).setRecov 3 { Recov.init with
    d0 := 0x80000001, takeAny := false }
  { d with time := offering.time }

theorem test_qci : (changing.gate 1 4).next = some (100, ⟨[(5, true, none)], 5, 0⟩) ∧ 100 ≤ changing.time.ns.toNat ∧
    (changing.recov 3).d0.getLsbD 31 = true ∧ (changing.recov 3).takeAny = false ∧ (changing.recov 3).counts.length = 7 ∧
    (changing.recov 3).since + bits (changing.recov 3).d0 15 0 * 100000 ≤ changing.time.tick := by decide +kernel

/-! ### Witnesses: the chimney -/

/-- Port 0 has its link, and the granary's first words are zero. -/
def linked (d : Dev) : Dev :=
  let d1 := ((powered d (domPortq 0)).setBit .prtStatus 0 0 0 true).setFld .prtMode 0 0 2 0 1
  { d1 with mem := d1.mem.fill 0 4096 true }

/-- A frame in buffer 2 of pool 3, released to queue 5 for port 0, or to host ring 7. -/
def relFrame (host : Bool) : RelFrame :=
  ⟨⟨.handle, 0x3000⟩, ⟨.handle, 2⟩, if host then 0x4007 else 0, 5, if host then 0 else 1⟩

def frameReady : Dev := (linked (bufferer 3 true)).writeHead 3 2 0 600 0 false 0

/-- Ticket 9 heads domain 3 before ticket 10. -/
def retiring (st : TktState) : Dev :=
  let d := frameReady.setTkt 9 { Ticket.init with st := st, dom := 3, frame := if st = .released then some (relFrame false) else none }
  { d with rel := { d.rel with doms := ⟨[(3, [9, 10])]⟩ } }

/-- The frame stands in the enqueue stage. -/
def inStage (host : Bool) : Dev :=
  let d := ((frameReady.setBit .lnkRingCfg 7 0 31 true).setFld .lnkRingCfg 7 0 30 28 2).setFld .lnkRingAux 7 0 15 0 64
  { d with chm := { d.chm with stage := some ⟨relFrame host, 3, 2, 0, 600, 16, none, none, 0, false⟩ } }

/-- Thread 0 waits for a copy of buffer 2 into buffer 1. -/
def copying : Dev :=
  let d := (frameReady.poke 0x310 [Word.plain 0x1234, Word.plain 0x5678]).updThr 0
    (fun t => { t with st := .blocked, cause := 1, wait := .copy 2 0 })
  { d with bpm := { d.bpm with copies := [⟨0, .thread 0 2, 3, 2, 3, 1, 5, 601, 16⟩] } }

theorem test_queues : Opens frameReady .spi .chmGen 4 0 ∧ (retiring .skipped).bit .relCtrl 0 0 0 = true ∧ (9 : Nat) ∉ [10] ∧
    (retiring .released).stageFree = true ∧ (retiring .released).bufCurrent 3 0 2 = true ∧
    ((retiring .released).head 3 2).1 = some (600, 16) ∧ (retiring .released).mem.ecc = Map.empty ∧ (inStage false).destinations (relFrame false) = [.queue 0 5] ∧
    (inStage false).qPort 5 = 0 ∧ (inStage false).qEn 5 = true ∧ (inStage false).portDown 0 = false ∧
    (inStage true).destinations (relFrame true) = [.ring 7] ∧ (inStage true).ringEn 7 = true := by decide +kernel

theorem test_copying : WaitsFor copying 0 (.copy 2 0) ∧ copying.bufAddr 3 1 = 768 ∧ copying.bufAddr 3 2 = 1536 ∧
    copying.copyReach ⟨0, .thread 0 2, 3, 2, 3, 1, 5, 601, 16⟩ = true ∧ copying.memOk 784 = true ∧ copying.mem.ecc = Map.empty ∧
    copying.fld .bpmStateBase 0 0 24 21 = 13 := by decide +kernel

/-- Port 0 with gate lists of two entries, of 100 and 900 ns; `now` is the time, and a change is pending or not. -/
def gating (now : Nat) (pend : Bool) : Dev :=
  let d := (((((linked started).wr .chmGateCtrl 0 0 (if pend then 0x90020002 else 0x80020002)).wr .chmOperCycle 0 0 1000).wr
    .chmAdminCycle 0 0 3000).wr .chmChgTimeLo 0 0 5000).wr .chmAdminBaseLo 0 0 777
  { d with time := { d.time with ns := BitVec.ofNat 64 now }, chm := { d.chm with
      gcl := ((Map.empty : Map W64).set 0 0 0x0F00000000000064).set 0 1 0xF000000000000384 } }

theorem test_gates : Opens (gating 150 true) .spi .chmGateCtrl 0 0 ∧ Opens (gating 150 true) .spi .chmGclDataLo 0 0 ∧
    (gating 150 false).bit .chmGateCtrl 0 0 28 = false ∧ (gating 150 true).bit .chmGateCtrl 0 0 28 = true ∧
    (gating 150 false).bit .chmGclAddr 0 0 12 = false ∧ (gating 5000 true).fld .chmGateCtrl 0 0 26 16 = 2 := by decide +kernel

/-- Queue 5 of port 0 holds the frame, and is the only one that does. -/
def sending5 : Dev :=
  frameReady.setChmq 5 { ChmQ.init with frames := [⟨3, 2, 0, 600, 16, none⟩, ⟨3, 1, 0, 600, 16, none⟩] }

/-- A frame in transmission by a MAC of port 0; hold stands or not. -/
def onTheLine (mac : Nat) (pre hold : Bool) : Dev :=
  let d := (frameReady.setTx 0 mac (some ⟨3, 2, 0, 5, 5, List.replicate 64 7, pre, false, 0, 0, false, false⟩)).wr .chmPreempt 0 0 0xD7000000
  { d with chm := { d.chm with hold := d.chm.hold.set false 0 hold } }

/-- The same with a gate list whose first entry asserts hold. -/
def holding : Dev :=
  let d := ((onTheLine 1 false false).wr .chmGateCtrl 0 0 0x80010001).wr .chmOperCycle 0 0 1000
  { d with chm := { d.chm with gcl := (Map.empty : Map W64).set 0 0 0xFF400000000003E8 } }

theorem test_transmission : sending5.portDown 0 = false ∧ sending5.preActive 0 = false ∧ sending5.bit .chmGateCtrl 0 0 31 = false ∧
    sending5.portQueues 0 = [5] ∧ sending5.qClass 5 = 5 ∧ sending5.paused 0 5 = false ∧
    (600 + sending5.fld .chmPctrl 0 0 15 8 ≤ 0 + sending5.fld .chmQburst 5 0 31 24 * 64) ∧
    ((onTheLine 0 false false).buf 3 2).gen = 0 ∧ holding.preActive 0 = true ∧ holding.bit .chmGateCtrl 0 0 31 = true ∧
    holding.holdWanted 0 holding.holdTime = some true ∧ (onTheLine 1 true true).bit .chmGateCtrl 0 0 31 = false ∧ frameReady.rateInUse 0 0 = some 0 ∧
    (onTheLine 1 true true).portQueues 0 = [] := by decide +kernel

/-- Verification of port 0 is under way, with some attempts made. -/
def verifying (n : Nat) : Dev :=
  let d := frameReady.wr .chmPreempt 0 0 0x88000A00
  { d with time := { d.time with tick := 10000000 }, chm := { d.chm with tries := d.chm.tries.set 0 0 n } }

theorem test_verify : (verifying 3).fld .chmPreempt 0 0 29 27 = 1 ∧ (verifying 3).portLink 0 = true ∧
    (verifying 3).fld .chmPreempt 0 0 15 8 * 100000 ≤ 10000000 ∧ EventOff frameReady 0 ∧
    frameReady.domOn (domPortq 0) = true ∧ (frameReady.setBit .prtStatus 0 0 0 false).bit .prtStatus 0 0 0 = false ∧
    (onTheLine 0 false false).bit .prtStatus 0 0 0 = true := by decide +kernel

/-! ### Witnesses: ports and MACsec -/

/-- Port 0 with its link and pool 3, which is empty but for four buffers. -/
def receiving : Dev := linked (bufferer 3 false)

/-- A frame of 68 bytes with a right FCS. -/
def goodFrame : List W8 :=
  let bs : List W8 := (List.range 64).map (fun n => BitVec.ofNat 8 (n * 5 + 1))
  bs ++ Crypto.fcs bs

theorem test_rx_frame : receiving.portLink 0 = true ∧ receiving.noRoom 0 (receiving.firstByte 17) = false ∧
    arrived ⟨false, [], 17⟩ goodFrame = some goodFrame ∧ receiving.noRoom 0 (receiving.time.tick - receiving.quantaTicks 0 1) = false ∧
    goodFrame.length = 68 ∧ Crypto.fcs (goodFrame.take 64) = goodFrame.drop 64 ∧ receiving.fld .msecPortCtrl 0 0 1 0 = 0 ∧
    receiving.fld .bpmLlCfg 0 0 15 8 = 0 ∧ FirstFit receiving 64 3 ∧ PoolHas receiving 3 := by decide +kernel

/-- A preemptable frame that comes in two fragments is reassembled (R164); with a wrong fragment count it is not. -/
theorem test_fragments :
    arrived ⟨false, [⟨0xE6, 0, 64⟩, ⟨0x61, 0xE6, 8⟩], 17⟩ (goodFrame.take 60 ++ mcrc (goodFrame.take 60) ++ goodFrame.drop 60) =
      some goodFrame ∧
    arrived ⟨false, [⟨0xE6, 0, 64⟩, ⟨0x61, 0x4C, 8⟩], 17⟩ (goodFrame.take 60 ++ mcrc (goodFrame.take 60) ++ goodFrame.drop 60) =
      none := by decide +kernel

/-- Stops are honoured, a lossless priority has a PFC frame due, and two stops have run out. -/
def stopped : Dev :=
  let d := ((receiving.setFld .prtRxctrl 0 0 18 16 7).setFld .bpmLlCfg 0 0 15 8 3).setFld .prtFc 0 0 7 0 2
  { d with bpm := { d.bpm with pfcDue := d.bpm.pfcDue.set 0 0 1 },
           prt := { d.prt with pause := d.prt.pause.set none 0 (some 0), pfc := d.prt.pfc.set none 4 (some 0) } }

theorem test_stops : stopped.portLink 0 = true ∧ stopped.bit .prtRxctrl 0 0 18 = true ∧ stopped.prt.pause.get none 0 = some 0 ∧
    stopped.prt.pfc.get none (0 * 8 + 4) = some 0 ∧ stopped.bpm.pfcDue.get 0 0 = 1 ∧
    0 < (stopped.fld .bpmLlCfg 0 0 15 8 &&& stopped.fld .prtFc 0 0 7 0) ∧ Opens stopped .spi .prtMode 0 0 ∧
    stopped.bit .topSetupLock 0 0 4 = false ∧ (0x12 : W32) &&& 0x1377 ≠ stopped.rd .prtMode 0 := by decide +kernel

/-- Channel 5 transmit, association 2 of port 3 is selected, with words staged. -/
def securing : Dev :=
  (((started.wr .msecSel 0 0 0x396).wr .msecSaKey 7 0 0x77).wr .msecSaSalt 1 0 0x1234567).wr .msecSciHi 0 0 0xABCDEF

theorem test_macsec : Opens securing .spi .msecCmd 0 0 ∧ securing.fld .msecSel 0 0 12 8 = 3 ∧
    securing.fld .msecSel 0 0 7 7 = 1 := by decide

/-! ### Witnesses: caches, memory channels, pools, translations -/

/-- A dirty whole line of the granary, in way 2 of its set in hearth 0's cache; way 5 is locked. -/
def line21 : Line :=
  { Line.ofWords 0x21 ((List.range 32).map (fun k => ⟨if k = 3 then .handle else .plain, BitVec.ofNat 16 (k * 77)⟩)) with
    dirty := true }
def caching : Dev :=
  ((((powered hearthUp (domGran 0)).setLine 0 (0x21 * 8 + 2) (some line21)).wr .hthRngLen 0 0 1).wr .hthRngBaseLo 0 0 0x840).wr
    .hthCacheLock 0 0 0x20

/-- The range engine runs an operation on that line. -/
def ranging (op : Nat) : Dev := (caching.wr .hthRngStat 0 0 0x80000001).wr .hthRngCmd 0 0 (BitVec.ofNat 32 op)

/-- The line stands in the victim buffer with another behind it. -/
def evicted : Dev :=
  let d := powered hearthUp (domGran 0)
  d.setHth 0 { d.hth 0 with victim := [{ line21 with issued := true }, { line21 with addr := 0x99 }] }

theorem test_ranges : Opens caching .spi .hthRngCmd 0 0 ∧ caching.bit .hthRngStat 0 0 31 = false ∧
    caching.cacheFind 0 0x21 = some (0x21 * 8 + 2, line21) ∧ caching.memOk (0x21 * 64) = true ∧
    caching.tagged (0x21 * 64) = true ∧ caching.bit .hthCacheLock 0 0 5 = true ∧ caching.bit .hthCacheLock 0 0 2 = false ∧
    (caching.hth 0).victim = [] ∧ (caching.hth 0).fetches = [] ∧ caching.filling (0x21 * 64) = false ∧ (ranging 3).fld .hthRngLen 0 0 25 0 = 1 ∧
    (evicted.hth 0).victim.length = 2 ∧ evicted.cacheFind 0 0x21 = none := by decide +kernel

/-- Channel 1 trains; region 4 of 128 MiB at 4 GiB is enabled, and being filled or not. -/
def training : Dev := (powered started (domMc 1)).wr .memMcCfg 1 0 0x80040001
def regioned (fills : Bool) : Dev :=
  let d := (((training.setBit .memMcStatus 1 0 31 true).wr .memRegCtrl 4 0 0x80000000).wr .memRegBase 4 0 64).wr .memRegSize 4 0 2
  { d with mem := { d.mem with init := d.mem.init.set false 4 fills } }

theorem test_channels : Opens started .spi .memMcCfg 1 0 ∧ started.bit .topSetupLock 0 0 14 = false ∧
    (∀ m < 4, started.bit .memMcCfg m 0 31 = false) ∧ training.domFull (domMc 1) = true ∧ (∀ n < 64, training.blwCause n ≠ 3 ∧ (training.bch n).pausing ≠ 3) ∧ training.bit .memMcCfg 1 0 31 = true ∧
    training.bit .memMcStatus 1 0 31 = false ∧ training.bit .memMcStatus 1 0 30 = false ∧ LogClear training 14 1 ∧
    Opens (regioned false) .spi .memRegCtrl 4 0 ∧ (regioned false).bit .memRegCtrl 4 0 31 = true ∧
    (regioned true).mem.init.get false 4 = true ∧ (regioned true).mem.held = [] := by decide +kernel

/-- Pool 2 may be enabled in the packet store, and its entries are being initialised or not. -/
def preparing (now : Bool) : Dev :=
  let d := (started.wr .bpmPoolBaseLo 2 0 0x8000040).wr .bpmPoolCount 2 0 65
  { d with bpm := { d.bpm with init := d.bpm.init.set false 2 now, bufs := d.bpm.bufs.set Buf.init (bufKey 2 7) ⟨9, true, none, 0, false⟩ } }

/-- An invalidation of context 3 runs in hearth 0 and the bellows. -/
def purging : Dev :=
  let d := ((hearthUp.wr .mmuTlbiCmd 0 0 0x302).wr .mmuTlbiTgt 0 0 0x10001).setBit .mmuTlbiStat 0 0 31 true
  { d.setHth 0 { d.hth 0 with tlb := [blockTwo, { blockTwo with ctx := 3 }] } with
    mmu := ⟨true, [{ blockTwo with ctx := 3 }, blockTwo]⟩ }

theorem test_pools_and_tlbs : Opens (preparing false) .spi .bpmPoolCfg 2 0 ∧ (preparing false).bit .topSetupLock 0 0 10 = false ∧
    (preparing false).bit .bpmPoolCfg 2 0 31 = false ∧ (preparing true).bpm.init.get false 2 = true ∧
    Opens started .spi .mmuTlbiCmd 0 0 ∧ started.bit .mmuTlbiStat 0 0 31 = false ∧ purging.staleLeft = false ∧
    EventOff purging 160 ∧ purging.mmu.tlbi = true := by decide +kernel

/-- The region is tagged and has its shadow. -/
theorem test_shadowed : ((regioned true).wr .memRegCtrl 4 0 0xC0000000).bit .memRegCtrl 4 0 30 = true ∧
    ((regioned true).wr .memRegCtrl 4 0 0xC0000000).mem.init.get false 4 = true := by decide

/-! ### Witnesses: the bellows -/

/-- Channel 3 with a ring of 16 slots at granary address 0x1000, in a state with a cause, HEAD 15 and TAIL 2. -/
def channel (state cause : Nat) (c : BlwCh) : Dev :=
  let d := ((((((powered started (domGran 0)).wr .blwCfg 3 0 0x40FF0803).wr .blwRingLo 3 0 0x1000).wr .blwHead 3 0 15).wr .blwTail 3 0 2).setFld
    .blwStat 3 0 31 29 state).setFld .blwStat 3 0 28 27 cause
  ({ d with mem := d.mem.fill 0 0x4000 true }).setBch 3 c

/-- A descriptor of one element, of 600 bytes from 0x2100 to 0x3104, in words and as the channel holds it. -/
def descWords : List Word := [Word.plain 0x1000, Word.plain 1, Word.plain 0, Word.plain 0, Word.plain 0x1800]
def itemWords : List Word := [0, 0, 0x2100, 0, 0, 0x3104, 0, 600].map Word.plain
def described : BlwCh := { BlwCh.init with desc := some (descWords.map Word.v) }
def moving : BlwCh := { described with item := some itemWords }

/-- The bytes of a burst of it. -/
def burst8 : Burst := ⟨0, 0, 8, 0x3104, some [⟨.handle, 1⟩, Word.plain 2, ⟨.poison, 3⟩, Word.plain 4], [], true, [], [], none⟩

theorem test_bellows_commands : Opens (channel 1 0 BlwCh.init) .spi .blwTail 3 0 ∧ Opens (channel 2 0 described) .spi .blwCmd 3 0 ∧
    (channel 1 0 BlwCh.init).bit .blwCfg 3 0 3 = false ∧ (channel 3 2 described).fld .blwStat 3 0 28 27 = 2 ∧
    described.elem < described.count := by decide +kernel

theorem test_bellows_transfers : (channel 2 0 moving).blwPick = some 3 ∧ (channel 2 0 moving).mem.ecc = Map.empty ∧
    (channel 2 0 moving).domOn (domGran 0) = true ∧ (channel 2 0 moving).fld .bpmStateBase 0 0 24 21 = 13 ∧
    (channel 2 0 moving).ctr .blwErrors = 0 ∧ ((channel 2 0 described).poke 0x8F0 descWords).mem.word 0x8F1 = Word.plain 1 := by
  decide +kernel

/-! ### Witnesses: keys, patterns and the flow table -/

/-- Hearth 2 with key slot 5 chosen, 256 bits wide, key words 1 to 8, and pattern 700 chosen, whose words are stored. -/
def keyed : Dev :=
  let d := (powered started (domHearth 2)).wr .hthKeySel 2 0 0x105
  let d1 := (List.range 8).foldl (fun d i => d.wr .hthKey 2 i (BitVec.ofNat 32 (i + 1))) (d.wr .hthPatSel 2 0 700)
  ((d1.setHth 2 { d1.hth 2 with pats := Map.empty.set none 700 (some ⟨0x80000003, [9, 8, 7, 6, 5, 4, 3, 2]⟩) }).wr .dspFlowSel 0 0 77)

theorem test_keys_patterns_and_flows : Opens keyed .spi .hthKeyCmd 2 0 ∧ keyed.bit .hthKeyCmd 2 0 8 = false ∧ Opens keyed .spi .hthPatCmd 2 0 ∧
    Opens keyed .spi .dspFlowCmd 0 0 ∧ keyed.dsp.flowClear = none := by decide +kernel

/-! ### Witnesses: the link -/

/-- The link in a training state, its domain on, with EN as given; long after the state was entered. -/
def linkIn (state fails : Nat) (en : Bool) : Dev :=
  let d := ((powered started domLink).setFld .lnkStatus 0 0 27 24 state).setBit .lnkCtrl 0 0 31 en
  { d with lnk := { d.lnk with fails := fails, expect := 7 }, time := { d.time with tick := 1000000 } }

/-- A flit of the card with sequence number `seq`, which acknowledges nothing. -/
def cardFlit (type ct seq : Nat) (last : Bool) (tag payload : Nat) : Flit :=
  flitOf (flitHead type ct false last tag 3 0) (flitSeqWord (some seq) none false) payload
/-- Link control: subtype, credit type and count. -/
def lctl7 (sub typ count : Nat) : Flit := cardFlit 6 3 7 true 0 (bytePayload [(1, sub), (1, typ), (2, count)])
/-- A NOP that acknowledges sequence number 4, and returns six non-posted credits. -/
def ack4 (nak : Bool) : Flit := flitOf (flitHead 0 3 false true 0 1 6) (flitSeqWord none (some 4) nak) 0
/-- A card's write of BAR0 and the flit of its data; its read; and a completion of two bytes with its data. -/
def write7 (a len : Nat) : Flit := cardFlit 1 0 7 false 0 (bytePayload [(8, a), (2, len)])
def data8 (ct : Nat) (ws : List W16) : Flit := cardFlit 4 ct 8 true 0 (bytePayload (ws.map (fun w => (2, w.toNat))))
def read7 (a len : Nat) : Flit := cardFlit 2 1 7 true 33 (bytePayload [(8, a), (2, len)])
def cpl7 : Flit := cardFlit 3 2 7 false 17 (bytePayload [(1, 0), (2, 2)])
/-- The same data in word form, with a POISON word first. -/
def poison8 (ct : Nat) : Flit :=
  flitOf (flitHead 4 ct true true 0 3 0) (flitSeqWord (some 8) none false) (wordPayload [Word.poison 0x1234, Word.plain 0x5678])

/-- A kept flit. -/
def kept (n : Nat) : TxFlit := ⟨n, .msi 1, 0, 100, 1⟩
/-- The link is ACTIVE and keeps flits 3, 4 and 5. -/
def keeping : Dev :=
  let d := linkIn 6 0 true
  { d with lnk := { d.lnk with replay := [kept 3, kept 4, kept 5], vecs := ⟨[(9, ⟨2, 100⟩)]⟩ } }

/-- Thread 1 of hearth 0 waits for the completion of its load under tag 17. -/
def loading : Dev :=
  let d := ((linkIn 6 0 true).setThr 1 { Thread.init with
    st := .blocked, cause := 1, wait := .host (.ld 1 [] 5 0 false) 17 0x900000100 [], ulen := 1 }).setThr 0 { Thread.init with st := .ready }
  let d1 := (powered d (domHearth 0)).setHth 0 { Hearth.init with reset := 0 }
  { d1 with lnk := { d1.lnk with reads := Map.empty.set none 17 (some ⟨.thread 1, 0x100, 2, 500⟩) } }

theorem test_link_training : Opens (linkIn 0 0 false) .spi .lnkCtrl 0 0 ∧ (linkIn 0 0 false).bit .topSetupLock 0 0 15 = false ∧
    LogClear (linkIn 6 0 true) 15 0 ∧ EventOff (linkIn 7 0 true) 161 ∧ (linkIn 7 0 true).lnk.reads = Map.empty ∧
    (lnkWidth 2 0).isSome = false ∧ (lnkWidth 3 1).isSome = true ∧ (linkIn 6 0 true).domOn domLink = true ∧
    InPlace (linkIn 6 0 true) (lctl7 3 0 0) 0 6 3 ∧ flitNum (lctl7 3 0 0) 0 1 = 3 := by decide +kernel

theorem test_link_flits : keeping.linkUp = true ∧ keeping.lnk.replay = [kept 3] ++ kept 4 :: [kept 5] ∧ (kept 4).seq = flitAck (ack4 true) ∧
    flitGood (ack4 true) = true ∧ flitNak (ack4 true) = true ∧ InPlace keeping (lctl7 1 2 77) 0 6 3 ∧ flitNum (lctl7 1 2 77) 2 2 = 77 ∧
    flitGood (lctl7 1 2 77 ^^^ 1) = false ∧
    1 ≤ keeping.fld .lnkCtrl 0 0 7 0 ∧ 100 + keeping.fld .lnkTimers 0 0 31 24 * 10 ≤ keeping.time.tick ∧
    Opens keeping .spi .lnkMsiSend 0 0 ∧ keeping.fld .lnkVec 9 0 7 0 ≤ 2 := by decide +kernel

/-- What the flits of these tests are, written out: the header, the sequence word and the payload as R347, R348 and R350 lay them out. -/
theorem test_flit_words : (lctl7 1 2 77).toNat / 2 ^ 320 = 0x6D00C000_00780000 ∧ (lctl7 1 2 77).toNat / 2 ^ 288 % 2 ^ 32 = 0x0102004D ∧
    (ack4 true).toNat / 2 ^ 320 = 0x0D004006_00000260 ∧ flitWords (data8 2 [0x1234]) = Word.plain 0x1234 :: List.replicate 17 Word.zero ∧
    (flitWords (poison8 2)).take 3 = [Word.poison 0x1234, Word.plain 0x5678, Word.zero] := by decide +kernel

theorem test_host_accesses : InPlace loading cpl7 0 3 2 ∧ InPlace loading (data8 2 [0x1234]) 1 4 2 ∧ InPlace loading (poison8 2) 1 4 2 ∧
    InPlace loading (write7 0x100 4) 0 1 0 ∧ InPlace loading (read7 0x100 4) 0 2 1 ∧ flitNum (write7 0x100 4) 0 8 = 0x100 ∧
    loading.linkUp = true ∧ loading.lnk.reads.get none 17 = some ⟨.thread 1, 0x100, 2, 500⟩ ∧
    WaitsFor loading 1 (.host (.ld 1 [] 5 0 false) 17 0x900000100 []) ∧ (loading.thr (hearthOf 1 * 128)).st ≠ .off ∧
    500 + loading.fld .lnkTimers 0 0 15 0 * 100 ≤ loading.time.tick := by decide +kernel

/-- The link has entered its training state just now. -/
def entered (state fails : Nat) : Dev :=
  let d := linkIn state fails true
  { d with lnk := { d.lnk with since := 1000000 } }

theorem test_training_in_time : (∀ x < 8, (entered x 0).time.tick ≤ (entered x 0).lnk.since) ∧ (entered 3 0).fld .lnkStatus 0 0 27 24 = 3 ∧
    (linkIn 3 0 true).lnk.since + 1000 * 100 < (linkIn 3 0 true).time.tick ∧ (entered 3 0).domOn domLink = true ∧
    (linkIn 5 2 true).cplPending = [] ∧ (lnkWidth 2 0) = none := by decide +kernel

/-- A pass of resending is already due. -/
theorem test_again : ({ keeping with lnk := { keeping.lnk with again := true } } : Dev).linkUp = true ∧
    ({ keeping with lnk := { keeping.lnk with again := true } } : Dev).lnk.again = true ∧ keeping.lnk.again = false := by decide

/-! ### Witnesses: the host rings -/

/-- Ring 7 of a kind, of 64 slots, CONS 3 and PROD 4, with its channel 2, on an ACTIVE link over device `b`. Host window 0 is open. -/
def ringOn (b : Dev) (kind : Nat) (x : Ring) : Dev :=
  let d := (((powered b domLink).setFld .lnkStatus 0 0 27 24 6).wr .lnkRingCfg 7 0
    (BitVec.ofNat 32 (2 ^ 31 + kind * 2 ^ 28 + 6 * 2 ^ 23 + 2 * 65536))).wr .lnkRingIdx 7 0 0x40003
  let d1 := (((d.setBit .blwCfg 2 0 3 true).setBit .blwCtrl 0 0 0 true).setFld .blwStat 2 0 31 29 1).setRing 7 x
  ((((d1.wr .lnkRingCplLo 7 0 0x5000).wr .lnkHwinCtrl 0 0 0x80000000).wr .lnkHwinBaseLo 0 0 0x10000).setBit .lnkVport 0 0 31 true).setFld
    .lnkCtrl 0 0 25 16 7

/-- A descriptor of an OP with a length of 100, or 640, for host address 0x20000. -/
def txWords (op len : Nat) : List Word :=
  ([BitVec.ofNat 32 (op * 2 ^ 28 + len), if op = 1 then 0x55 else 0, 0x20000, 0, 0, 0, 0, 0] : List W32).flatMap leWords
def fetched7 (ws : List Word) : Ring := { Ring.init with phase := true, fetched := [some ws] }
/-- A transfer of 100 bytes of ring 7 in a buffer of pool 3, and the channel that has carried it to its end. -/
def xfer7 (idx gen : Nat) (failed : Bool) : RingXfer := ⟨3, idx, gen, 100, failed, none⟩
/-- The transfer whose bellows descriptor has ended with status 0. -/
def xfer7Done : RingXfer := { xfer7 2 0 false with done := some 0 }
def carried (d : Dev) : Dev := d.setBch 2 { BlwCh.init with desc := some [0x1000, 1, 0, 0, 0], feed := some 7, elem := 1 } |>.setFld .blwStat 2 0 31 29 2
def transferred (kind : Nat) (ws : List Word) (t : RingXfer) : Dev :=
  carried (ringOn (frameReady.writeHead 3 2 0 100 0 false 0) kind { fetched7 ws with xfer := some t, rxq := [⟨3, 2, 0⟩] })

/-- A host event ring with an entry waiting, whose vector waits for more. -/
def eventful : Dev :=
  let d := ((ringOn started 4 Ring.init).setBit .lnkCtrl 0 0 15 true).wr .lnkVec 0 0 0x50004
  { d with lnk := { d.lnk with evtq := [List.replicate 16 (0x3000 : W16)] } }

theorem test_ring_control : Opens (ringOn started 1 Ring.init) .spi .lnkRingCfg 7 0 ∧ Opens (ringOn started 1 Ring.init) .spi .lnkDoorbell 0 0 ∧
    (ringOn started 1 Ring.init).fld .lnkRingIdx 7 0 31 16 = 4 ∧ EventOff (ringOn started 1 Ring.init) 162 := by decide +kernel

theorem test_tx_ring : FirstFit (ringOn frameReady 1 (fetched7 (txWords 1 100))) 100 3 ∧ PoolHas (ringOn frameReady 1 (fetched7 (txWords 1 100))) 3 ∧
    (ringOn frameReady 1 (fetched7 (txWords 1 100))).windowAddr 0x20000 100 = some 0x900010000 ∧
    (ringOn frameReady 1 (fetched7 (txWords 1 100))).blwState 2 = 1 ∧
    ((transferred 1 (txWords 1 100) xfer7Done).setBch 2 BlwCh.init).vportTurn 0 = some 7 ∧ (xfer7 2 5 true).gen ≠ ((ringOn frameReady 1 Ring.init).buf 3 2).gen := by
  decide +kernel

theorem test_rx_ring : ((ringOn (frameReady.writeHead 3 2 0 200 0 false 0) 2 (fetched7 (txWords 2 640))).head 3 2).1 = some (200, 16) ∧
    (transferred 2 (txWords 2 640) (xfer7 2 0 false)).mem.ecc = Map.empty ∧
    ((transferred 2 (txWords 2 640) (xfer7 2 0 false)).buf 3 2).gen = 0 := by decide +kernel

theorem test_post_and_event_rings :
    (ringOn started 3 Ring.init).postRefusal (Word.plain 0x3000 :: List.replicate 15 Word.zero) none = some 4 ∧
    eventful.fld .lnkCtrl 0 0 25 16 = 7 ∧ eventful.fld .lnkVec 0 0 7 0 = 4 ∧ eventful.lnk.evtLost = 0 := by decide +kernel

/-- The channel of ring 7 is free, and has carried its transfer. -/
theorem test_ring_channel : (ringOn frameReady 1 (fetched7 (txWords 1 100))).bit .blwCfg 2 0 3 = true ∧
    (ringOn frameReady 1 (fetched7 (txWords 1 100))).bit .blwCtrl 0 0 0 = true ∧ InGranary (ringOn frameReady 1 (fetched7 (txWords 1 100))) 0 32 ∧
    ((transferred 1 (txWords 1 100) (xfer7 2 0 false)).bch 2).feed = some 7 ∧ (transferred 1 (txWords 1 100) (xfer7 2 0 false)).blwState 2 = 2 ∧
    (transferred 1 (txWords 1 100) (xfer7 2 0 false)).bit .lnkVport 0 0 31 = true ∧ xfer7Done.done = some 0 := by decide +kernel

/-! ### Witnesses: CAN and the local interfaces -/

/-- Controller 3 on its bus, with a pool of buffers in the granary. -/
def canUp (x : CanCtl) : Dev :=
  let d := (((powered frameReady domCan).setBit .canCtrl 3 0 31 true).setBit .canCtrl 3 0 24 true).setFld .canCtrl 3 0 9 0 9
  { d with loc := { d.loc with can := d.loc.can.set CanCtl.init 3 x } }
def bus : CanCtl := { CanCtl.init with on := true }
/-- A Classical frame with an extended identifier and two data bytes. -/
def can2 : CanFrame := ⟨0, true, false, false, false, false, 2, 0x1234567, 0, 0, 0, [0xA5, 0x5A]⟩
/-- The same frame in buffer 2 of pool 3, and its handle in the transmit flue. -/
def handle2 : FlueMsg := ⟨[⟨.handle, 0x3000⟩, ⟨.handle, 2⟩], none⟩
def posted : Dev :=
  let d := (canUp bus).writeHead 3 2 0 18 0 false 0
  (d.poke (d.bufAddr 3 2 / 2 + 8) (canImage 3 can2 ++ [Word.plain 0xA55A])).setFlue 4105 [handle2]

theorem test_can_frames : FirstFit (canUp bus) 18 3 ∧ PoolHas (canUp bus) 3 ∧ (canUp bus).domOn domCan = true ∧
    (canUp bus).fld .canStatus 3 0 31 30 = 0 ∧ posted.bufCurrent 3 0 2 = true ∧ (posted.head 3 2).1 = some (18, 16) ∧
    posted.mem.ecc = Map.empty ∧ posted.flue 4105 = [handle2] := by decide +kernel

/-- The image of the worked example of R379: an XL frame of C3. -/
theorem test_can_image : canImage 3 ⟨2, false, false, false, false, false, 0, 0x123, 3, 5, 0x1001, List.replicate 64 0⟩ =
    [0x8000, 0, 0x0123, 0x0305, 0, 0x1001, 0x0040, 0x0003].map Word.plain := by decide

theorem test_can_outcomes : Opens (canUp bus) .spi .canCmd 3 0 ∧ EventOff (canUp bus) 163 ∧ (canUp bus).bit .canCtrl 3 0 26 = true ∧
    (posted.buf 3 2).gen = 0 := by decide +kernel

/-- A flash transfer of 6 bytes, a UART with bytes in its FIFOs, and an MDIO frame under way. -/
def busy (toFlash : Bool) : Dev :=
  let d := (linked (powered started (domGran 0))).setBit .uartCtrl 1 0 31 true
  let d1 := (d.wr .gpioRiseEn 0 0 0x20).wr .xspiGran 0 0 0x40
  { d1 with loc := { d1.loc with xspi := some (toFlash, 0x40, 6), uartRx := ⟨[(1, [7, 8])]⟩, uartTx := ⟨[(1, [9])]⟩, mdio := ⟨[(0, some 0x20000000)]⟩ } }
def idleLocal : Dev := { busy false with loc := Dev.init.loc }

theorem test_local : Opens idleLocal .spi .xspiCmd 0 0 ∧ Opens idleLocal .spi .uartData 1 0 ∧ Opens idleLocal .spi .mdioCmd 0 0 ∧
    (busy true).mem.ecc = Map.empty ∧ EventOff (busy true) 166 ∧ EventOff (busy true) 167 ∧ (busy true).bit .gpioOe 0 0 5 = false ∧
    (busy true).fld .bpmStateBase 0 0 24 21 = 13 := by decide +kernel

/-- A controller that listens only, one with a frame that it sends in fast mode, and one with EN = 0 at bus idle. -/
theorem test_can_modes : ((canUp bus).setBit .canCtrl 3 0 25 true).bit .canCtrl 3 0 25 = true ∧
    (canUp { bus with tx := some ⟨3, 2, 0, 2, true, true⟩ }).domOn domCan = true ∧
    ((canUp bus).setBit .canCtrl 3 0 31 false).bit .canCtrl 3 0 31 = false ∧ bus.rx = none ∧ bus.tx.any CanTx.going = false := by decide +kernel

/-! ### Witnesses: resets, power and boot -/

/-- A device with KEEP_MEM set whose four channels are trained, and a word of LPDDR6 written. -/
def trained : Dev :=
  let d := (List.range 4).foldl (fun d c => d.setBit .memMcStatus c 0 31 true) ((hearthUp.wr .topResetCtrl 0 0 1).setBit .clkStatus 0 0 0 true)
  d.poke 0x80000005 [Word.plain 7]

/-- Hearth 0 with thread 5 at work, in a reset state and with HOLD as given. -/
def resetting (kind : Nat) (hold : Bool) : Dev :=
  let d := (hearthUp.setThr 5 { Thread.init with st := .blocked, cause := 1, wait := .tc }).setBit .hthReset 0 0 8 hold
  (d.wr .hthWardenPc 0 0 0x123).setHth 0 { d.hth 0 with reset := kind, keys := ⟨[(1, some ⟨1, false⟩)]⟩ }

/-- A power domain in a state, and a request for it that waits. -/
def domain (n state : Nat) (q : List PwrReq) : Dev :=
  let d := started.setFld .pwrDom n 0 31 30 state
  { d with top := { d.top with pwrq := q, drain := d.top.drain.set 0 n 1, fill := d.top.fill.set false n true }, time := { d.time with tick := 1000000 } }

/-- The boot sequencer in a phase with a source. -/
def bootAt (ph : BootPhase) (src : Nat) (fallback : Bool) (bytes : Bytes) : Dev :=
  { Dev.init with top := { Dev.init.top with
      inReset := false, boot := { BootSt.init with phase := ph, src := src, fallback := fallback, bytes := bytes, pos := bytes.length, start := some 5 } },
                  time := { Dev.init.time with tick := 1000000001 } }
/-- Bytes of 32-bit fields, least significant first. -/
def leBytes (l : List Nat) : Bytes := l.flatMap (fun x => [BitVec.ofNat 8 x, BitVec.ofNat 8 (x / 256), BitVec.ofNat 8 (x / 65536), BitVec.ofNat 8 (x / 16777216)])
/-- A header for an image of 512 bytes. -/
def header512 : Bytes := leBytes [0x4F580256, 1, 512, 25] ++ List.replicate 240 0

theorem test_device_resets : Opens trained .spi .topResetCmd 0 0 ∧ trained.top.porHold = false ∧ trained.bit .clkStatus 0 0 0 = true ∧
    Dev.init.top.inReset = true ∧ Dev.init.top.porHold = false ∧ trained.mem.fills = [] := by decide +kernel

theorem test_hearth_resets : Opens (resetting 0 false) .spi .hthReset 0 0 ∧ Opens (resetting 3 true) .spi .hthReset 0 0 ∧
    (resetting 3 true).top.boot.phase = .done ∧ ∀ e < 16, ((resetting 1 true).engn (0 * 16 + e)).wb = [] := by decide +kernel

theorem test_power : EventOff (domain 18 0 []) 168 ∧ Opens (domain 18 0 []) .spi .pwrCmd 0 0 ∧ (hearthUp.pwrRefused 2 false) = true ∧
    (domain 19 2 []).pwrRefused 19 false = false ∧ (domain 19 3 []).blwDrained 19 = true ∧ (domain 19 3 []).top.drain.get 0 19 = 1 := by
  decide +kernel

theorem test_boot : (bootAt .header 0 false []).top.boot.left = [] ∧ Opens ((bootAt .wait 2 false []).setFld .topBootStatus 0 0 31 28 6) .spi .topBootCmd 0 0 ∧
    Opens (bootAt .header 2 false []) .spi .topBootData 0 0 ∧ header512.length = 256 ∧ (bootAt .verify 0 false []).bootPowered = true := by
  decide +kernel

/-- A drain whose limit has not passed, with nothing in flight. -/
def draining : Dev :=
  let d := domain 19 3 []
  { d with top := { d.top with drain := d.top.drain.set 0 19 999999 } }

theorem test_drains_in_time : ¬ (0 < draining.top.drain.get 0 19 ∧
      draining.top.drain.get 0 19 - 1 + draining.fld .pwrDrainTimeout 0 0 15 0 * 100 < draining.time.tick) ∧
    draining.blwDrained 19 = true ∧ draining.inFlight 19 = false ∧ draining.fld .pwrDom 19 0 31 30 = 3 := by decide +kernel

/-! ### `Instr.wf` refuses what is not well formed -/

theorem test_wf_extension_words : (Instr.movi 0 [1, 2, 3] 1 5).wf = false ∧ (Instr.movi 0 [1, 2] 1 5).wf = true := by decide
theorem test_wf_mac_control : (Instr.macControlFrame 3 ⟨0x101, 0xFF, [1]⟩).wf = false ∧ (Instr.macControlFrame 3 ⟨1, 0, [1]⟩).wf = true := by decide
theorem test_wf_can_data : (Instr.canRxFrame 3 { can2 with data := List.replicate 9 0 } 0).wf = false ∧ (Instr.canRxFrame 3 can2 0).wf = true := by
  decide
theorem test_wf_can_identifier : (Instr.canRxFrame 3 { can2 with ide := false } 0).wf = false := by decide
theorem test_wf_can_length : (Instr.canDlcReceived 3 2 2049).wf = false ∧ (Instr.canDlcReceived 3 2 2048).wf = true := by decide
theorem test_wf_flits : (Instr.nopFlit (lctl7 1 2 77)).wf = false ∧ (Instr.nopFlit (ack4 true)).wf = true := by decide +kernel

/-! ### The whole device -/

/-- A well-formed memory before a step: the premise of the statement about its form. -/
theorem test_memory_form : Memory.wf trained.mem = true ∧ Memory.wf posted.mem = true ∧ (st hearthUp).pending = [] := by decide +kernel

/-- The counters and the event of R407 that statements ask to be short of saturation, or off, are so in the states of their witnesses. -/
theorem test_short_of_saturation : ((judging 0).ctr .milUndecided 1).toNat < 0xFFFFFFFE ∧ (loading.ctr .lnkPoisonRx).toNat < 0xFFFFFFFE ∧
    ((ringOn started 1 Ring.init).ctr .dspPostRefused).toNat < 0xFFFFFFFE ∧ EventOff hearthUp 170 ∧ EventOff (resetting 0 false) 170 ∧
    EventOff ((onTheLine 0 false false).setBit .chmPctrl 0 0 31 false) 170 := by decide +kernel

/-! ### Witnesses: faults of accesses and operands -/

/-- Thread 8 of hearth 0 with pair 3 holding `hi` and `lo`, w9 a HANDLE, SEGH `seg` and SEGL 0. -/
def faulting (hi lo : Word) (seg : W16) (d : Dev) : Dev :=
  let t := (((Thread.init.set 6 hi).set 7 lo).set 9 ⟨.handle, 5⟩)
  (d.setThr 8 { t with st := .ready, pc := 0x41, segh := seg, segl := 0, ulen := 1 }).setEngn 1 { d.engn 1 with cur := some 0 }

/-- Pair 3 of thread 8 gives the address `a`. -/
def pointing (a : Nat) : Dev :=
  faulting (Word.plain (BitVec.ofNat 16 (a / 65536))) (Word.plain (BitVec.ofNat 16 a)) (BitVec.ofNat 16 (a / 2 ^ 32)) hearthUp

theorem test_may_fault : Turn (pointing 0x2000000) 8 ∧ hearthOf 8 = 0 ∧ ((pointing 0x2000000).thr 0).st = .ready ∧
    (pointing 0x2000000).stagedFor 8 = none ∧ (∀ x < 4, (pointing 0x2000000).bit .dbgWp 0 x 31 = false) ∧
    (pointing 0x2000000).translates ((pointing 0x2000000).ctxOf 0) = false ∧ memDisp [] 4 = some 0 ∧
    ((pointing 0x2000000).thr 8).get 1 = Word.zero := by decide

/-- Each kind of word in the base pair. -/
theorem test_base_pairs : Turn (faulting ⟨.handle, 1⟩ Word.zero 0 hearthUp) 8 ∧ Turn (faulting Word.zero ⟨.ticket, 1⟩ 0 hearthUp) 8 ∧
    Turn (faulting ⟨.poison, 1⟩ Word.zero 0 hearthUp) 8 ∧ Turn (faulting Word.zero ⟨.poison, 1⟩ 0 hearthUp) 8 := by decide

/-- Each address that faults, at its edges. -/
theorem test_bad_addresses : ((pointing 0x2000000).thr 8).va 3 0 = 0x2000000 ∧ ((pointing 0x3FFFFFC).thr 8).va 3 0 = 0x3FFFFFC ∧
    ((pointing 0x9000000).thr 8).va 3 0 = 0x9000000 ∧ ((pointing 0x4000101).thr 8).va 3 0 % 2 = 1 ∧
    (pointing 0x900000000).region 0x880000000 = .absent ∧ ((pointing 0x900000000).thr 8).va 3 0 = 0x900000000 ∧
    (pointing 0x900000000).bit .lnkHwinCtrl 0 0 31 = false ∧ ((pointing 0xE000002).thr 8).va 3 0 = 0xE000002 := by decide

/-- The page of block 2 is in the TLB, not for stores or, as entry 4 or 7, with the wrong attribute. -/
def inTlb (e : TlbEntry) : Dev :=
  let d := (pointing 0x4000100).setFld .mmuCtxCfg 0 0 1 0 1
  d.setHth 0 { d.hth 0 with tlb := [e] }

theorem test_tlb_faults : ((inTlb ⟨0, true, 2, 2, .uc, false⟩).hth 0).tlb.find? (fun x => x.covers 0 0x4000100) = some ⟨0, true, 2, 2, .uc, false⟩ ∧
    (inTlb ⟨0, true, 2, 2, .uc, false⟩).translates ((inTlb ⟨0, true, 2, 2, .uc, false⟩).ctxOf 0) = true ∧
    (⟨0, true, 2, 4, .uc, true⟩ : TlbEntry).pa 0x4000100 = 0x8000100 ∧ (⟨0, true, 2, 7, .wb, true⟩ : TlbEntry).pa 0x4000100 = 0xE000100 := by decide

/-- A HANDLE operand, and a handle whose buffer is not current. -/
theorem test_operand_faults : ((pointing 0x100).thr 8).get 9 = ⟨.handle, 5⟩ ∧ ((pointing 0x100).thr 8).get 1 = Word.zero ∧
    handleOf ⟨.handle, 0⟩ ⟨.handle, 0⟩ = some (0, 0, 0) ∧ hearthUp.bufCurrent 0 0 0 = false := by decide

/-- Thread 8 waits for the walk of its store through pair 3, whose table at 0 holds `w` for block 2. -/
def walksOver (w : Word) (root : Nat) : Dev :=
  let d := (((powered (pointing 0x4000100) (domGran 0)).setFld .mmuCtxCfg 0 0 1 0 1).poke 4 [w, Word.zero]).wr .mmuCtxRootLo 0 0 (BitVec.ofNat 32 root)
  d.updThr 8 (fun t => { t with st := .blocked, cause := 1, wait := .walk (.st 8 [] 1 3 false) 0x4000100 false })

theorem test_walk_faults : WaitsFor (walksOver Word.zero 0) 8 (.walk (.st 8 [] 1 3 false) 0x4000100 false) ∧
    ((walksOver Word.zero 0).thr 8).ulen = 1 ∧ (walksOver Word.zero 0).joined 0 0x4000100 = [8] ∧ (walksOver Word.zero 0).smWalks 0 = [] ∧
    (walksOver Word.zero 0).walking 0 (0x4000100 / 65536) = true ∧ ((walksOver Word.zero 0).hth 0).tlb = [] ∧
    InGranary (walksOver Word.zero 0) 8 4 ∧ (walksOver Word.zero 0x4000000).ctxRoot 0 = 0x4000000 := by decide

/-- Every kind of entry stands where the walk reads it. -/
theorem test_walk_entries : ∀ w ∈ [Word.zero, Word.plain 0x4000, Word.plain 0x8000, Word.plain 0xC000, ⟨.poison, 0⟩, ⟨.handle, 0⟩],
    (walksOver w 0).mem.word 4 = w ∧ (walksOver w 0).mem.word 5 = Word.zero ∧ (walksOver w 0).mem.ecc = Map.empty := by decide


/-! ### Words written out from the encodings of chapters 3 and 7 -/

/-- `CPGO CP1, CRC32C`, 0x3CC0 + 1 * 0x10 + 1 (R334); ADD w5, w10; MOVI w3, #9; BEQ; SEND w2, w4; SAR w1, w2; ROL w1, #7; BLE and RFT. -/
theorem test_engine_words : engineDecode 0 [] 0x3CD1 0 = .cpgo 0 1 1 ∧ engineDecode 0 [] 0b00000101011010 0 = .add 0 5 10 ∧
    engineDecode 0 [0x12] 0b01000000111001 0 = .movi 0 [0x12] 3 9 ∧ engineDecode 0 [] 0b10000011111110 0 = .beq 0 [] 0xFE ∧
    engineDecode 0 [] 0b11000100100100 0 = .send 0 2 4 ∧ engineDecode 0 [] 0x0A12 0 = .sar 0 1 2 ∧
    engineDecode 0 [] 0x1817 0 = .rol 0 [] 1 7 ∧ engineDecode 0 [] 0x2D05 0 = .ble 0 [] 5 ∧ engineDecode 0 [] 0x3D80 0 = .rft 0 := by decide

/-- KEND accept, KJMP to 0x123, and KMETA k2, 5. -/
theorem test_kindler_words : kindDecode 1 2 0 = some (.kendAccept 1 2) ∧ kindDecode 1 2 0xD00000123 = some (.kjmp 1 2 0x123) ∧
    kindDecode 1 2 0xE54000000 = some (.kmeta 1 2 2 5) := by decide

/-- The program store of hearth 0 holds `ws` from the PC of thread 0 on. -/
def storing (ws : List (BitVec 14)) : Dev :=
  { hearthUp with mem := { hearthUp.mem with prog := ws.zipIdx.foldl (fun p x => p.set 0 (0x40 + x.2) x.1) hearthUp.mem.prog } }

/-- One EXI before a word, and three. -/
theorem test_exi_words : (storing [0x3F12, 0x1039]).exiLead 0 0x40 = 1 ∧ (storing [0x3F12, 0x1039]).progWord 0 0x40 = 0x3F12 ∧
    ((storing [0x3F12, 0x1039]).thr 0).pc = 0x40 ∧ (storing [0x3F12, 0x3F00, 0x3FFF]).exiLead 0 0x40 = 3 := by decide

end Sys2Proof.Tests
end

section
/-!
SUPPORT. Fields of a 32-bit register value: what reading bits hi:lo gives after a write of the same and of other bits, and what
writing the fields of a register one after the other leaves in each (R3).
-/
namespace Sys2Proof.Machine

theorem bits_lt (v : W32) (hi lo : Nat) : bits v hi lo < 2 ^ (hi + 1 - lo) := Nat.mod_lt _ (Nat.two_pow_pos _)

theorem testBit_bits (v : W32) (hi lo n : Nat) :
    (bits v hi lo).testBit n = (decide (n < hi + 1 - lo) && v.getLsbD (lo + n)) := by
  simp [bits, Nat.testBit_mod_two_pow, BitVec.getLsbD]

theorem getLsbD_setBits (v : W32) (hi lo x n : Nat) : (setBits v hi lo x).getLsbD n =
    (decide (n < 32) && if lo ≤ n ∧ n ≤ hi then x.testBit (n - lo) else v.getLsbD n) := by
  have hmask : ((2 ^ (hi + 1 - lo) - 1) <<< lo).testBit n = decide (lo ≤ n ∧ n ≤ hi) := by
    rw [Nat.testBit_shiftLeft, Nat.testBit_two_pow_sub_one, ← Bool.decide_and, decide_eq_decide]
    omega
  rw [setBits, BitVec.getLsbD_ofNat]
  simp only [Nat.testBit_or, Nat.testBit_xor, Nat.testBit_and, hmask, BitVec.testBit_toNat]
  by_cases h : lo ≤ n ∧ n ≤ hi
  · simp [h]
  · simp [h]

theorem bits_setBits_same (v : W32) {hi lo x : Nat} (hhi : hi < 32) (hx : x < 2 ^ (hi + 1 - lo)) :
    bits (setBits v hi lo x) hi lo = x := by
  refine Nat.eq_of_testBit_eq fun n => ?_
  rw [testBit_bits, getLsbD_setBits]
  by_cases h : n < hi + 1 - lo
  · have h32 : lo + n < 32 := by omega
    have hle : lo + n ≤ hi := by omega
    simp [h, h32, hle]
  · have hpow : 2 ^ (hi + 1 - lo) ≤ 2 ^ n := Nat.pow_le_pow_right (by decide) (by omega)
    simp [h, Nat.testBit_lt_two_pow (Nat.lt_of_lt_of_le hx hpow)]

theorem bits_setBits_apart (v : W32) {hi lo hi' lo' : Nat} (x : Nat) (h : hi < lo' ∨ hi' < lo) :
    bits (setBits v hi lo x) hi' lo' = bits v hi' lo' := by
  refine Nat.eq_of_testBit_eq fun n => ?_
  rw [testBit_bits, testBit_bits, getLsbD_setBits]
  by_cases hn : n < hi' + 1 - lo'
  · have hout : ¬ (lo ≤ lo' + n ∧ lo' + n ≤ hi) := by omega
    simp only [hn, hout, if_false, decide_true, Bool.true_and, Bool.and_eq_right_iff_imp]
    intro hb
    simpa using BitVec.lt_of_getLsbD hb
  · simp [hn]

theorem bits_and (v w : W32) (hi lo : Nat) : bits (v &&& w) hi lo = bits v hi lo &&& bits w hi lo := by
  refine Nat.eq_of_testBit_eq fun n => ?_
  rw [Nat.testBit_and, testBit_bits, testBit_bits, testBit_bits, BitVec.getLsbD_and]
  cases decide (n < hi + 1 - lo) <;> simp

theorem bits_and_allOnes (v w : W32) {hi lo : Nat} (hw : bits w hi lo = bits (BitVec.allOnes 32) hi lo) :
    bits (v &&& w) hi lo = bits v hi lo := by
  rw [bits_and, hw, ← bits_and, BitVec.and_allOnes]

/-- Two fields share no bit. -/
def Field.Apart (f g : Field) : Prop := f.hi < g.lo ∨ g.hi < f.lo

/-- A register value with the fields `fs` written one after the other, each with what `x` gives for it. -/
def putFields (x : Field → Nat) (v : W32) (fs : List Field) : W32 := fs.foldl (fun a f => setBits a f.hi f.lo (x f)) v

theorem bits_putFields_apart (x : Field → Nat) (v : W32) {f : Field} {fs : List Field} (h : ∀ g ∈ fs, g.Apart f) :
    bits (putFields x v fs) f.hi f.lo = bits v f.hi f.lo := by
  induction fs generalizing v with
  | nil => rfl
  | cons g fs ih =>
    obtain ⟨hg, hfs⟩ := List.forall_mem_cons.mp h
    exact (ih _ hfs).trans (bits_setBits_apart v _ hg)

theorem bits_putFields_mem {x : Field → Nat} (v : W32) {f : Field} {fs : List Field} (hap : fs.Pairwise Field.Apart)
    (hf : f ∈ fs) (hhi : f.hi < 32) (hx : x f < 2 ^ (f.hi + 1 - f.lo)) :
    bits (putFields x v fs) f.hi f.lo = x f := by
  induction fs generalizing v with
  | nil => cases hf
  | cons g fs ih =>
    obtain ⟨hg, hfs⟩ := List.pairwise_cons.mp hap
    rcases List.mem_cons.mp hf with rfl | hf
    · exact (bits_putFields_apart x _ fun e he => (hg e he).symm).trans (bits_setBits_same v hhi hx)
    · exact ih _ hfs hf

end Sys2Proof.Machine
end

section
/-!
SUPPORT. The register layout: fields of one register share no bit, and an offset that names a register copy is that copy's own.
-/
namespace Sys2Proof.Machine

/-- Every field lies in bits 31:0 and shares no bit with a later one. -/
def fieldsApart : List Field → Bool
  | [] => true
  | f :: fs => decide (f.hi < 32) && fs.all (fun g => decide (f.hi < g.lo) || decide (g.hi < f.lo)) && fieldsApart fs

theorem fieldsApart_cons {f : Field} {fs : List Field} :
    fieldsApart (f :: fs) = true ↔ f.hi < 32 ∧ (∀ g ∈ fs, f.Apart g) ∧ fieldsApart fs = true := by
  simp [fieldsApart, Field.Apart, and_assoc]

theorem fieldsApart_pairwise {fs : List Field} (h : fieldsApart fs = true) : fs.Pairwise Field.Apart := by
  induction fs with
  | nil => exact .nil
  | cons f fs ih =>
    obtain ⟨_, hap, hfs⟩ := fieldsApart_cons.mp h
    exact .cons hap (ih hfs)

theorem fieldsApart_hi {fs : List Field} (h : fieldsApart fs = true) : ∀ f ∈ fs, f.hi < 32 := by
  induction fs with
  | nil => exact fun _ hf => nomatch hf
  | cons f fs ih =>
    obtain ⟨hhi, _, hfs⟩ := fieldsApart_cons.mp h
    exact List.forall_mem_cons.mpr ⟨hhi, ih hfs⟩

/-- Two different fields of such a list share no bit, whichever comes first. -/
theorem fieldsApart_of_mem {fs : List Field} (h : fieldsApart fs = true) {f g : Field} (hf : f ∈ fs) (hg : g ∈ fs)
    (hne : f ≠ g) : f.Apart g := by
  induction fs with
  | nil => cases hf
  | cons e fs ih =>
    obtain ⟨_, hap, hfs⟩ := fieldsApart_cons.mp h
    rcases List.mem_cons.mp hf with rfl | hf'
    · rcases List.mem_cons.mp hg with rfl | hg'
      · exact absurd rfl hne
      · exact hap g hg'
    · rcases List.mem_cons.mp hg with rfl | hg'
      · exact (hap f hf').symm
      · exact ih hfs hf' hg'

theorem RegKind.fields_apart (k : RegKind) (i j : Nat) : fieldsApart (k.fields i j) = true := by
  cases k <;> rfl

/-- Each field of a register holds what it is written with. -/
theorem RegKind.bits_putFields {k : RegKind} {i j : Nat} {f : Field} (hf : f ∈ k.fields i j) {x : Field → Nat} (v : W32)
    (hx : x f < 2 ^ (f.hi + 1 - f.lo)) : bits (putFields x v (k.fields i j)) f.hi f.lo = x f :=
  bits_putFields_mem v (fieldsApart_pairwise (k.fields_apart i j)) hf (fieldsApart_hi (k.fields_apart i j) f hf) hx

/-- The bits of W1P fields read 0 and the others as they stand (R3). -/
theorem bits_and_pulseMask {k : RegKind} {i j : Nat} {f : Field} (hf : f ∈ k.fields i j) (v : W32) :
    bits (v &&& pulseMask (k.fields i j)) f.hi f.lo = if f.acc = .w1p then 0 else bits v f.hi f.lo := by
  have hmask : pulseMask (k.fields i j) =
      putFields (fun _ => 0) (BitVec.allOnes 32) ((k.fields i j).filter (fun f => f.acc = .w1p)) := by
    simp [pulseMask, putFields, List.foldl_filter]
  have hap := fieldsApart_pairwise (k.fields_apart i j)
  rw [hmask]
  split
  next hp =>
    rw [bits_and, bits_putFields_mem _ (hap.filter _) (List.mem_filter.mpr ⟨hf, by simpa using hp⟩)
      (fieldsApart_hi (k.fields_apart i j) f hf) (Nat.two_pow_pos _), Nat.and_zero]
  next hp =>
    refine bits_and_allOnes v _ (bits_putFields_apart _ _ fun g hg => ?_)
    obtain ⟨hg, hgp⟩ := List.mem_filter.mp hg
    have hne : g ≠ f := fun h => hp (by simpa [h] using hgp)
    exact fieldsApart_of_mem (k.fields_apart i j) hg hf hne

theorem Place.find_off {p : Place} {off i j : Nat} (h : p.find off = some (i, j)) : p.off i j = off := by
  simp only [Place.find, Option.ite_none_left_eq_some, Option.ite_none_right_eq_some, Option.some.injEq, Prod.mk.injEq] at h
  obtain ⟨_, ⟨_, _, hoff⟩, rfl, rfl⟩ := h
  exact hoff

theorem findReg_off {off : Nat} {ks : List RegKind} {k : RegKind} {i j : Nat} (h : findReg off ks = some (.reg k i j)) :
    k.off i j = off := by
  induction ks with
  | nil => cases h
  | cons k' ks ih =>
    simp only [findReg] at h
    split at h
    next hat =>
      cases h
      exact Place.find_off hat
    · exact ih h

theorem findCtr_ne_reg (off : Nat) (ks : List CtrKind) (k : RegKind) (i j : Nat) : findCtr off ks ≠ some (.reg k i j) := by
  induction ks with
  | nil => simp [findCtr]
  | cons k' ks ih =>
    simp only [findCtr]
    split
    · simp
    · split
      · simp
      · exact ih

/-- An offset that names a register copy is where that copy lies (R48). -/
theorem regAt_off {off : Nat} {k : RegKind} {i j : Nat} (h : regAt off = .reg k i j) : k.off i j = off := by
  unfold regAt at h
  split at h
  next hreg => exact findReg_off (h ▸ hreg)
  · split at h
    next hctr => exact absurd (h ▸ hctr) (findCtr_ne_reg off _ k i j)
    · cases h

end Sys2Proof.Machine
end

section
/-!
SUPPORT. What a set-up write and a set-up read come to, case by case (R3-R5, R48, R49, R390, R428).
-/
namespace Sys2Proof.Machine

/-! ### The merge of a written value into a register's fields -/

theorem Dev.merge_eq (d : Dev) (k : RegKind) (i j : Nat) (v cur seen : W32) : d.merge k i j v cur seen =
    (putFields (fun f => (d.fieldAfter k i j v cur seen f).1) 0 (k.fields i j),
      (k.fields i j).any (fun f => (d.fieldAfter k i j v cur seen f).2)) := by
  have key (fs : List Field) (a : W32) (b : Bool) : fs.foldl (fun (a : W32 × Bool) f =>
      (setBits a.1 f.hi f.lo (d.fieldAfter k i j v cur seen f).1, a.2 || (d.fieldAfter k i j v cur seen f).2)) (a, b) =
        (putFields (fun f => (d.fieldAfter k i j v cur seen f).1) a fs,
          b || fs.any (fun f => (d.fieldAfter k i j v cur seen f).2)) := by
    induction fs generalizing a b with
    | nil => simp [putFields]
    | cons f fs ih => simp [ih, putFields, Bool.or_assoc]
  unfold Dev.merge
  simpa using key (k.fields i j) 0 false

theorem Dev.fieldAfter_lt (d : Dev) (k : RegKind) (i j : Nat) (v cur seen : W32) (f : Field) :
    (d.fieldAfter k i j v cur seen f).1 < 2 ^ (f.hi + 1 - f.lo) := by
  have hv := bits_lt v f.hi f.lo
  have hc := bits_lt cur f.hi f.lo
  unfold Dev.fieldAfter
  split
  · exact hc
  · exact hc
  · exact Nat.two_pow_pos _
  · exact Nat.lt_of_le_of_lt Nat.and_le_left hc
  · exact Nat.or_lt_two_pow hc hv
  · split
    · exact hc
    · split
      · exact hc
      · exact hv

/-- After a write each field holds what `Dev.fieldAfter` says of it alone. -/
theorem Dev.bits_merge (d : Dev) {k : RegKind} {i j : Nat} {f : Field} (hf : f ∈ k.fields i j) (v cur seen : W32) :
    bits (d.merge k i j v cur seen).1 f.hi f.lo = (d.fieldAfter k i j v cur seen f).1 := by
  rw [Dev.merge_eq]
  exact RegKind.bits_putFields (x := fun f => (d.fieldAfter k i j v cur seen f).1) hf 0 (d.fieldAfter_lt k i j v cur seen f)

/-- A write to a field is logged when the field is RW or LCK and is protected from a change or written with a reserved value. -/
theorem Dev.fieldAfter_logged (d : Dev) (k : RegKind) (i j : Nat) (v cur seen : W32) (f : Field) :
    (d.fieldAfter k i j v cur seen f).2 = ((f.acc == .rw || f.acc == .lck) &&
      if d.protectedField k i j cur f then bits v f.hi f.lo != bits seen f.hi f.lo else d.reserved k i j v cur f) := by
  obtain ⟨hi, lo, acc, reset⟩ := f
  unfold Dev.fieldAfter
  cases acc with
  | ro | rcl | w1p | w1c | w1s => rfl
  | rw | lck =>
    dsimp only
    cases d.protectedField k i j cur _ with
    | true => rfl
    | false => cases d.reserved k i j v cur _ <;> simp

/-! ### Registers whose write starts nothing more -/

theorem Dev.beforeWrite_of_not_starts (d : Dev) {k : RegKind} (hk : k.starts = false) (i : Nat) : d.beforeWrite k i = d := by
  unfold Dev.beforeWrite
  split <;> simp_all [RegKind.starts]

theorem storesNothing_of_not_starts {k : RegKind} (hk : k.starts = false) : storesNothing k = false := by
  unfold storesNothing
  split <;> simp_all [RegKind.starts]

theorem Dev.effectFirst_of_not_starts (d : Dev) {k : RegKind} (hk : k.starts = false) (r : Req) (i : Nat) (v cur new : W32)
    (bad : Bool) : d.effectFirst r k i v cur new bad = d := by
  unfold Dev.effectFirst
  split <;> simp_all [RegKind.starts]

theorem Dev.effectMiddle_of_not_starts (d : Dev) {k : RegKind} (hk : k.starts = false) (r : Req) (i : Nat) (v cur new : W32)
    (bad : Bool) : d.effectMiddle r k i v cur new bad = d := by
  unfold Dev.effectMiddle
  split <;> simp_all [RegKind.starts]

theorem Dev.effectLast_of_not_starts (d : Dev) {k : RegKind} (hk : k.starts = false) (r : Req) (i j : Nat) (v cur new : W32)
    (bad : Bool) : d.effectLast r k i j v cur new bad = d := by
  unfold Dev.effectLast
  split <;> simp_all [RegKind.starts]

/-! ### Set-up writes -/

/-- The access reaches the set-up space and goes through (R390, R398, R409). -/
abbrev Dev.Admits (d : Dev) (q : Req) (n : Nat) : Prop := d.reaches q = true ∧ d.mayTouch q n = true ∧ d.setupOn n = true

/-- The access reaches the set-up space and meets nothing there: it comes before START, its domain has no power, or no block
defines the offset (R49, R390, R398). -/
abbrev Dev.MeetsNothing (d : Dev) (q : Req) (n : Nat) : Prop :=
  (d.reaches q = true ∧ (d.mayTouch q n = false ∨ d.setupOn n = false)) ∨ (d.Admits q n ∧ regAt n = .none)

/-- A reject whose source holds no record is that source's record (R5, R404). -/
theorem Dev.reject_clear {d : Dev} {n : Nat} (h : LogClear d (blockOf n) (instOf n)) (q : Req) : d.reject q n =
    d.recorded 0 (blockOf n) 0x01 (instOf n) (BitVec.ofNat 16 (n / 65536)) (BitVec.ofNat 16 n) q.word :=
  Dev.log4_clear h (by decide) _ _ _ _

@[simp] theorem Dev.recorded_rd (d : Dev) (sev block code inst : Nat) (d2 d3 d4 : W16) (k : RegKind) (i j : Nat) :
    (d.recorded sev block code inst d2 d3 d4).rd k i j = d.rd k i j := rfl

theorem Dev.setupWrite_meetsNothing {d : Dev} {q : Req} {n : Nat} (h : d.MeetsNothing q n) (v : W32) :
    d.setupWrite q n v = d.reject q n := by
  rcases h with ⟨hr, ht | ho⟩ | ⟨⟨hr, ht, ho⟩, hn⟩
  · simp [Dev.setupWrite, hr, ht]
  · simp [Dev.setupWrite, hr, ho]
  · simp [Dev.setupWrite, hr, ht, ho, hn]

theorem Dev.setupWrite_reg {d : Dev} {q : Req} {n : Nat} {k : RegKind} {i j : Nat} (h : d.Admits q n)
    (hn : regAt n = .reg k i j) (v : W32) : d.setupWrite q n v = d.regWrite q k i j v := by
  obtain ⟨hr, ht, ho⟩ := h
  simp [Dev.setupWrite, hr, ht, ho, hn]

theorem Dev.regWrite_refused {d : Dev} {k : RegKind} (hk : k.starts = false) (q : Req) {i : Nat} (j : Nat) {v : W32}
    (h : d.refusedWrite k i (v &&& d.significant k i j) = true) : d.regWrite q k i j v = d.reject q (k.off i j) := by
  simp [Dev.regWrite, d.beforeWrite_of_not_starts hk, h]

/-- What a write of `v` leaves in a register that starts nothing more, and whether it is logged. -/
def Dev.merged (d : Dev) (k : RegKind) (i j : Nat) (v : W32) : W32 × Bool :=
  d.merge k i j (v &&& d.significant k i j) (d.rd k i j) ((d.derived k i j).getD (d.rd k i j))

theorem Dev.regWrite_stored {d : Dev} {k : RegKind} (hk : k.starts = false) (q : Req) {i j : Nat} {v : W32}
    (h : d.refusedWrite k i (v &&& d.significant k i j) = false) : d.regWrite q k i j v =
      if (d.merged k i j v).2 then (d.wr k i j (d.merged k i j v).1).reject q (k.off i j)
      else d.wr k i j (d.merged k i j v).1 := by
  simp only [Dev.regWrite, d.beforeWrite_of_not_starts hk, storesNothing_of_not_starts hk, h, Bool.false_eq_true, if_false,
    Dev.effectFirst_of_not_starts _ hk, Dev.effectMiddle_of_not_starts _ hk, Dev.effectLast_of_not_starts _ hk]
  rfl

/-- A write that a rule ignores as a whole is logged at its offset, and that is all (R428). -/
theorem Dev.setupWrite_refused {d : Dev} {q : Req} {n : Nat} {k : RegKind} {i j : Nat} {v : W32} (h : d.Admits q n)
    (hn : regAt n = .reg k i j) (hk : k.starts = false) (href : d.refusedWrite k i (v &&& d.significant k i j) = true) :
    d.setupWrite q n v = d.reject q n := by
  rw [Dev.setupWrite_reg h hn, Dev.regWrite_refused hk q j href, regAt_off hn]

/-- The whole effect of a write of a register that starts nothing more: its merged value, and a reject when a field refused its part (R428). -/
theorem Dev.setupWrite_stored {d : Dev} {q : Req} {n : Nat} {k : RegKind} {i j : Nat} {v : W32} (h : d.Admits q n)
    (hn : regAt n = .reg k i j) (hk : k.starts = false) (href : d.refusedWrite k i (v &&& d.significant k i j) = false)
    (hcl : (d.merged k i j v).2 = true → LogClear d (blockOf n) (instOf n)) :
    d.setupWrite q n v = if (d.merged k i j v).2 then (d.wr k i j (d.merged k i j v).1).recorded 0 (blockOf n) 0x01 (instOf n)
      (BitVec.ofNat 16 (n / 65536)) (BitVec.ofNat 16 n) q.word else d.wr k i j (d.merged k i j v).1 := by
  rw [Dev.setupWrite_reg h hn, Dev.regWrite_stored hk q href, regAt_off hn]
  split
  next hm => exact Dev.reject_clear (d := d.wr k i j _) (hcl hm) q
  next => rfl

theorem Dev.rd_setupWrite_stored {d : Dev} {q : Req} {n : Nat} {k : RegKind} {i j : Nat} {v : W32} (h : d.Admits q n)
    (hn : regAt n = .reg k i j) (hk : k.starts = false) (href : d.refusedWrite k i (v &&& d.significant k i j) = false)
    (hcl : (d.merged k i j v).2 = true → LogClear d (blockOf n) (instOf n)) :
    (d.setupWrite q n v).rd k i j = (d.merged k i j v).1 := by
  rw [Dev.setupWrite_stored h hn hk href hcl]
  split <;> simp

theorem exec_dbgacc_write (off : BitVec 24) (v : W32) (s : State) :
    exec (.dbgacc true off v) s = .next { s with dev := s.dev.setupWrite .jtag off.toNat v } := by
  show execDbgacc true off v s = _
  cases h : s.dev.reaches .jtag <;> simp [execDbgacc, Dev.setupWrite, h]

/-! ### Set-up reads -/

theorem exec_dbgacc_read (off : BitVec 24) (v : W32) (s : State) :
    exec (.dbgacc false off v) s = .next { s with dev := s.dev.setupReadTo .jtag off.toNat } := by
  show execDbgacc false off v s = _
  cases h : s.dev.reaches .jtag <;> simp [execDbgacc, Dev.setupReadTo, h]

/-- The requester keeps the data of a read. -/
def Dev.answered (d : Dev) (q : Req) (x : W32) : Dev := { d with answers := d.answers.set 0 q.word.toNat x }

@[simp] theorem Dev.answered_answer (d : Dev) (q : Req) (x : W32) : (d.answered q x).answers.get 0 q.word.toNat = x :=
  Map.get_set_same _ _ _ _

theorem Dev.setupReadTo_eq {d : Dev} {q : Req} {n : Nat} (h : d.reaches q = true) :
    d.setupReadTo q n = (d.setupRead q n).2.answered q (d.setupRead q n).1 := by
  simp [Dev.setupReadTo, h, Dev.answered]

theorem Dev.setupReadTo_meetsNothing {d : Dev} {q : Req} {n : Nat} (h : d.MeetsNothing q n) :
    d.setupReadTo q n = d.answered q 0 := by
  have hr : d.reaches q = true := h.elim And.left fun h => h.1.1
  rw [Dev.setupReadTo_eq hr]
  rcases h with ⟨_, ht | ho⟩ | ⟨⟨_, ht, ho⟩, hn⟩
  · simp [Dev.setupRead, ht]
  · simp [Dev.setupRead, ho]
  · simp [Dev.setupRead, hr, ht, ho, hn]

theorem Dev.setupReadTo_reg {d : Dev} {q : Req} {n : Nat} {k : RegKind} {i j : Nat} (h : d.Admits q n)
    (hn : regAt n = .reg k i j) : d.setupReadTo q n = (d.regRead q k i j).2.answered q (d.regRead q k i j).1 := by
  obtain ⟨hr, ht, ho⟩ := h
  simp [Dev.setupReadTo_eq hr, Dev.setupRead, hr, ht, ho, hn]

theorem Dev.setupReadTo_ctr {d : Dev} {q : Req} {n : Nat} {k : CtrKind} {i j : Nat} {high : Bool} (h : d.Admits q n)
    (hn : regAt n = .ctr k i j high) :
    d.setupReadTo q n = (d.ctrRead q k i j high).2.answered q (d.ctrRead q k i j high).1 := by
  obtain ⟨hr, ht, ho⟩ := h
  simp [Dev.setupReadTo_eq hr, Dev.setupRead, hr, ht, ho, hn]

/-- The read of a register that its fields alone tell of: its value as it stands, and nothing more. -/
theorem Dev.regRead_fields (d : Dev) (q : Req) {k : RegKind} (hk : k.readsMore = false) (i j : Nat) :
    d.regRead q k i j = ((d.derived k i j).getD (d.rd k i j) &&& pulseMask (k.fields i j), d) := by
  unfold Dev.regRead
  split <;> simp_all [RegKind.readsMore]

/-- The low half of a 64-bit counter, with the high half latched for the requester (R408). -/
theorem Dev.ctrRead_low {d : Dev} {k : CtrKind} (hk : k.desc.width = 64) (q : Req) (i j : Nat) :
    d.ctrRead q k i j false = ((d.ctr k i j).truncate 32,
      d.setLatch q { d.latchOf q with ctrHi := BitVec.ofNat 32 ((d.ctr k i j).toNat / 2 ^ 32) }) := by
  simp [Dev.ctrRead, hk]

theorem Dev.regRead_uartData (d : Dev) (q : Req) (i j : Nat) : d.regRead q .uartData i j = d.uartTake i := rfl

theorem Dev.uartTake_nil {d : Dev} {u : Nat} (h : d.loc.uartRx.get [] u = []) : d.uartTake u = (0, d) := by
  simp [Dev.uartTake, h]

theorem Dev.uartTake_cons {d : Dev} {u : Nat} {b : W8} {bs : List W8} (h : d.loc.uartRx.get [] u = b :: bs) :
    d.uartTake u = (BitVec.ofNat 32 (256 + b.toNat), { d with loc := { d.loc with uartRx := d.loc.uartRx.set [] u bs } }) := by
  simp [Dev.uartTake, h]

theorem ofNat_high_half (v : W64) : BitVec.ofNat 32 (v.toNat / 2 ^ 32) = (v >>> (32 : Nat)).truncate 32 := by
  simp [← BitVec.toNat_inj, Nat.shiftRight_eq_div_pow]

@[simp] theorem Dev.latchOf_setLatch (d : Dev) (q : Req) (l : Latch) : (d.setLatch q l).latchOf q = l :=
  Map.get_set_same _ _ _ _

/-- A read of a register that its fields alone tell of answers its value as it stands, with W1P bits 0 (R3). -/
theorem Dev.setupReadTo_fields {d : Dev} {q : Req} {n : Nat} {k : RegKind} {i j : Nat} (h : d.Admits q n)
    (hn : regAt n = .reg k i j) (hk : k.readsMore = false) :
    d.setupReadTo q n = d.answered q ((d.derived k i j).getD (d.rd k i j) &&& pulseMask (k.fields i j)) := by
  rw [Dev.setupReadTo_reg h hn, Dev.regRead_fields _ _ hk]

/-- A read of UART.DATA answers and removes the oldest byte received (R382). -/
theorem Dev.setupReadTo_uartData {d : Dev} {q : Req} {n u : Nat} {b : W8} {bs : List W8} (h : d.Admits q n)
    (hn : regAt n = .reg .uartData u 0) (hrx : d.loc.uartRx.get [] u = b :: bs) : d.setupReadTo q n =
      { d.answered q (BitVec.ofNat 32 (256 + b.toNat)) with loc := { d.loc with uartRx := d.loc.uartRx.set [] u bs } } := by
  rw [Dev.setupReadTo_reg h hn, Dev.regRead_uartData, Dev.uartTake_cons hrx]
  rfl

theorem Dev.setupReadTo_uartData_nil {d : Dev} {q : Req} {n u : Nat} (h : d.Admits q n) (hn : regAt n = .reg .uartData u 0)
    (hrx : d.loc.uartRx.get [] u = []) : d.setupReadTo q n = d.answered q 0 := by
  rw [Dev.setupReadTo_reg h hn, Dev.regRead_uartData, Dev.uartTake_nil hrx]

/-- A read of a 64-bit counter's low half answers it, and latches the high half for the requester (R408). -/
theorem Dev.setupReadTo_counterLow {d : Dev} {q : Req} {n : Nat} {k : CtrKind} {i j : Nat} (h : d.Admits q n)
    (hn : regAt n = .ctr k i j false) (hk : k.desc.width = 64) : d.setupReadTo q n =
      (d.setLatch q { d.latchOf q with ctrHi := ((d.ctr k i j) >>> (32 : Nat)).truncate 32 }).answered q
        ((d.ctr k i j).truncate 32) := by
  rw [Dev.setupReadTo_ctr h hn, Dev.ctrRead_low hk, ofNat_high_half]

/-! ### Counters (R407) -/

/-- CLR_ERR makes the error counters of the blocks of its mask 0 and leaves every other counter (R407). -/
theorem Dev.ctr_clearErrors (d : Dev) (mask : W32) {k : CtrKind} {i j : Nat} (h : regAt (k.off i j) = .ctr k i j false) :
    (d.clearErrors mask).ctr k i j = if k.desc.width = 32 ∧ mask.getLsbD k.desc.block = true then 0 else d.ctr k i j := by
  simp only [Dev.clearErrors, Dev.ctr, Map.get_filter, h]
  by_cases hw : k.desc.width = 32 <;> cases mask.getLsbD k.desc.block <;> simp [hw]

/-- An error counter that its count does not bring to 0xFFFF_FFFF only counts. -/
theorem Dev.count_below (d : Dev) {k : CtrKind} (hk : k.desc.width = 32) (i j n : Nat)
    (h : (d.ctr k i j).toNat + n < 0xFFFFFFFF) :
    d.count k i j n = { d with ctrs := d.ctrs.set 0 (k.off i j) (d.ctr k i j + BitVec.ofNat 64 n) } := by
  have hmin : min ((d.ctr k i j).toNat + n) 0xFFFFFFFF = (d.ctr k i j).toNat + n := by omega
  have hsat : ¬ ((d.ctr k i j).toNat < 0xFFFFFFFF ∧ (d.ctr k i j).toNat + n = 0xFFFFFFFF) := by omega
  simp [Dev.count, hk, Dev.count32, Dev.bump32, hmin, hsat, BitVec.ofNat_add]

/-- A write of ERR.CLR_ERR that goes through stores nothing in its W1P bits and clears the counters of its mask. -/
theorem Dev.setupWrite_errClrErr {d : Dev} {q : Req} (h : d.Admits q (RegKind.off .errClrErr 0 0)) (v : W32) :
    d.setupWrite q (RegKind.off .errClrErr 0 0) v = (d.wr .errClrErr 0 0 0).clearErrors v := by
  have hn : regAt (RegKind.off .errClrErr 0 0) = .reg .errClrErr 0 0 := by decide
  have hm (v cur seen : W32) : d.merge .errClrErr 0 0 v cur seen = (0, false) := by
    simp only [Dev.merge, RegKind.fields, fd, Dev.fieldAfter, List.foldl_cons, List.foldl_nil]
    decide
  have hv : v &&& d.significant .errClrErr 0 0 = v := BitVec.and_allOnes
  rw [Dev.setupWrite_reg h hn]
  simp only [Dev.regWrite, Dev.beforeWrite, hv, Dev.refusedWrite, storesNothing, hm]
  rfl

theorem getLsbD_zeroExtend_of_le {m n : Nat} (x : BitVec m) (h : m ≤ n) (b : Nat) :
    (x.zeroExtend n).getLsbD b = x.getLsbD b := by
  rw [BitVec.getLsbD_setWidth, Bool.and_eq_right_iff_imp]
  exact fun hb => decide_eq_true (Nat.lt_of_lt_of_le (BitVec.lt_of_getLsbD hb) h)

theorem exec_clrErr {s : State} {r : ReqArg} (h : Opens s.dev r .errClrErr 0 0) (mask : BitVec 20) :
    exec (.clrErr r mask) s = .next { s with dev := (s.dev.wr .errClrErr 0 0 0).clearErrors (mask.zeroExtend 32) } := by
  show execClrErr r mask s = _
  rw [execClrErr, regCommand, State.onDev_eq, Dev.setupWrite_errClrErr h]

theorem exec_spiBadTransaction {s : State} (hin : s.dev.top.inReset = false) (h : (s.dev.ctr .spiErr).toNat + 1 < 0xFFFFFFFF) :
    exec .spiBadTransaction s = .next { s with dev := { s.dev with
      ctrs := s.dev.ctrs.set 0 (CtrKind.off .spiErr 0 0) (s.dev.ctr .spiErr + 1) } } := by
  show execSpiBadTransaction s = _
  simp [execSpiBadTransaction, hin, Dev.count_below s.dev (k := .spiErr) rfl 0 0 1 h]

end Sys2Proof.Machine
end

section
/-!
PROOFS. Set-up accesses by every requester, over the whole register layout (R3, R5, R48-R50, R390, R407-R409, R428).
-/
namespace Sys2Proof.Machine

/-- Settles O26: each field after a write is what `Dev.fieldAfter` gives for it alone, for fields share no bit; a write of a register that
starts nothing more stores the merged value and logs at most one reject; and a read masks the stored or derived value. -/
theorem setupAccesses : Obligations.SetupAccesses := by
  unfold Obligations.SetupAccesses
  intro r off v mask k ck i j b0 q8 s d0 q n goes stays w cur seen put shut after told clear rejected answers writes reads
  have hfield (f : Field) (hn : k.off i j = n) : (d0.fieldAfter k i j w cur seen f).1 = after f := by
    have hshut : d0.protectedField k i j cur f = shut f := by
      simp only [shut, Dev.protectedField, Dev.locked, hn]
    simp only [after, Dev.fieldAfter, hshut]
    cases f.acc with
    | ro | rcl | w1p | w1c | w1s => rfl
    | rw | lck =>
      cases shut f with
      | true => rfl
      | false => cases d0.reserved k i j w cur f <;> rfl
  have htold (hn : k.off i j = n) : (d0.merge k i j w cur seen).2 = told := by
    simp only [Dev.merge_eq, Dev.fieldAfter_logged, told, shut, put, Dev.protectedField, Dev.locked, hn]
  have hwrites (c : Instr) (q : Req) (hc : exec c s = .next { s with dev := d0.setupWrite q n v }) : writes c q := by
    refine ⟨fun h hcl => ?_, fun hg hn href hk hcl => ?_, fun hg hn href hk hcl => ?_⟩
    · exact hc.trans (by rw [Dev.setupWrite_meetsNothing h, Dev.reject_clear hcl])
    · exact hc.trans (by rw [Dev.setupWrite_refused hg hn hk href, Dev.reject_clear hcl])
    · have hm : (d0.merged k i j v).2 = told := htold (regAt_off hn)
      have hrd := Dev.rd_setupWrite_stored hg hn hk href (hm ▸ hcl)
      have hset := Dev.setupWrite_stored hg hn hk href (hm ▸ hcl)
      rw [hm, ← hrd] at hset
      exact ⟨_, hc, fun f hf => hrd ▸ (Dev.bits_merge d0 hf w cur seen).trans (hfield f (regAt_off hn)), hset⟩
  have hreads (c : Instr) (q : Req) (hc : exec c s = .next { s with dev := d0.setupReadTo q n }) : reads c q := by
    refine ⟨fun h => ?_, fun hg hn hk => ?_, fun hg hn hrx => ?_, fun hg hn hrx => ?_, fun hg hn hwd => ?_⟩
    · exact hc.trans (by rw [Dev.setupReadTo_meetsNothing h]; rfl)
    · refine ⟨_, hc, ?_, fun f hf => ?_⟩
      · rw [Dev.setupReadTo_fields hg hn hk, Dev.answered_answer]
        rfl
      · rw [Dev.setupReadTo_fields hg hn hk, Dev.answered_answer, bits_and_pulseMask hf]
        simp only [beq_iff_eq]
        rfl
    · exact hc.trans (by rw [Dev.setupReadTo_uartData hg hn hrx]; rfl)
    · exact hc.trans (by rw [Dev.setupReadTo_uartData_nil hg hn hrx]; rfl)
    · refine ⟨_, hc, ?_⟩
      rw [Dev.setupReadTo_counterLow hg hn hwd]
      exact ⟨Dev.answered_answer _ _ _, rfl, rfl, rfl, congrArg Latch.ctrHi (Dev.latchOf_setLatch d0 q _)⟩
  refine ⟨fun hn f hf => ?_, hwrites _ _ rfl, hwrites _ _ rfl, hwrites _ _ (exec_dbgacc_write off v s), hreads _ _ rfl,
    hreads _ _ rfl, hreads _ _ (exec_dbgacc_read off v s), fun ho hck => ?_, fun hin hb => ?_⟩
  · exact (Dev.bits_merge d0 hf w cur seen).trans (hfield f hn.symm)
  · refine ⟨_, exec_clrErr ho mask, rfl, (Dev.ctr_clearErrors _ _ hck).trans ?_⟩
    rw [getLsbD_zeroExtend_of_le mask (by decide)]
    rfl
  · refine ⟨_, exec_spiBadTransaction hin (Nat.succ_lt_succ hb), ?_, rfl, rfl, rfl⟩
    exact Map.get_set_same _ _ _ _

end Sys2Proof.Machine
end
